-- ==== Sys2Proof/Word.lean ====
section
/-!
DEFINITION. The plain data shapes of the module: bytes, sparse maps, and memory as a list of cells.
-/

namespace Sys2Proof

/-- One byte. -/
abbrev Byte := BitVec 8

/-- A sparse map from natural-number keys: pairs with strictly rising keys, none holding the default
of its element. What is not listed holds that default. -/
abbrev KMap (α : Type) := List (Nat × α)

/-- An addressed memory: cells with strictly rising addresses, none equal to what an unlisted
address reads. -/
abbrev Mem := List Host.Cell

/-- What an address that no cell lists reads (log 9). -/
def Mem.blank : Byte := 0

/-- Numbers of the module's elements: stacks, tiles, endpoints, ports, partitions (R26, R30, R33, R522). -/
abbrev StackId := Fin 16
abbrev TileId := Fin 4
abbrev EpId := Fin 32
abbrev PortId := Fin 4
abbrev PartId := Fin 16
abbrev RegionNo := Fin 100
abbrev ClusterNo := Fin 96
abbrev CoreId := Fin 24576
abbrev PlaneNo := Fin 32
abbrev GroupNo := Fin 4

end Sys2Proof
end

