-- ==== Sys2Proof/Syntax.lean ====
section
/-!
DEFINITION. The commands of the module: one constructor of Instr for each row of the table of
operations and events, and the operands they carry.
-/

namespace Sys2Proof

/-- A convoy: its core's global number and its number in the core (R28, R206). -/
structure Cv where
  g : CoreId
  h : Fin 2
  deriving DecidableEq, Repr

/-- The guard of an instruction: predicate register and inversion (R248). -/
structure Guard where
  pred : BitVec 3
  inv : Bool
  deriving DecidableEq, Repr

/-- Format A below the major opcode and without the minor, which the row names (R249). -/
structure FA where
  gd : Guard
  dest : BitVec 6
  src1 : BitVec 6
  src2 : BitVec 6
  src3 : BitVec 6
  typ : BitVec 4
  mods : BitVec 16
  deriving DecidableEq, Repr

/-- Format B below the major opcode and without the minor (R249). -/
structure FB where
  gd : Guard
  dest : BitVec 6
  src1 : BitVec 6
  typ : BitVec 4
  rnd : BitVec 3
  imm : BitVec 25
  deriving DecidableEq, Repr

/-- Format M below the major opcode and without the minor (R249). -/
structure FM where
  gd : Guard
  dest : BitVec 6
  sA : BitVec 6
  sB : BitVec 6
  stile : BitVec 3
  typ : BitVec 4
  rnd : BitVec 3
  acc : BitVec 2
  rsv : BitVec 14
  deriving DecidableEq, Repr

/-- Format X below the major opcode and without the minor (R249). -/
structure FX where
  gd : Guard
  data : BitVec 6
  base : BitVec 6
  index : BitVec 6
  typ : BitVec 4
  iscale : BitVec 2
  ien : Bool
  order : BitVec 3
  off : BitVec 16
  deriving DecidableEq, Repr

/-- A copy-class word: format X with bits [25:0] read as R269 lays them out. -/
structure FC where
  gd : Guard
  dst : BitVec 6
  src : BitVec 6
  len : BitVec 6
  low : BitVec 26
  deriving DecidableEq, Repr

/-- A row that both a register form and an immediate form encode (R257, R258, R259). -/
inductive FAB where
  | reg (f : FA)
  | imm (f : FB)
  deriving DecidableEq, Repr

/-- The six comparisons in the order of their minor opcodes (R257, R258, R259, R261). -/
inductive Cmp where
  | eq | ne | lt | le | gt | ge
  deriving DecidableEq, Repr

/-- The JTAG instructions R85 tells apart. -/
inductive JtagIr where
  | idcode | bypass | samplePreload | extest | pinDriving | debug
  deriving DecidableEq, Repr

/-- A die that can be isolated: class of R609 and its number there. -/
inductive DieId where
  | cd (s : StackId)
  | ml (s : StackId)
  | tile (t : TileId)
  | mp (k : Fin 8)
  | hg (t : PortId)
  | site (t : TileId)
  deriving DecidableEq, Repr

/-- An on-die temperature sensor or model region: compute region, ML region, base-tile sensor,
and the sensors of port dies, gateways and lasers (R108). -/
inductive SensorId where
  | cd (s : StackId) (p : RegionNo)
  | ml (s : StackId) (p : RegionNo)
  | base (t : TileId) (i : Fin 32)
  | mp (k : Fin 8) (i : Fin 4)
  | hg (t : PortId) (i : Fin 4)
  | ls (e : EpId)
  deriving DecidableEq, Repr

/-- What tripped the module (R125). -/
inductive TripSource where
  | comparator (c : SensorId)
  | diode (i : Fin 36)
  | controller (c : SensorId)
  | hbm (h : Fin 16)
  deriving DecidableEq, Repr

/-- One lane: sender, receiver and plane of a pair link (R380). -/
structure LaneId where
  snd : EpId
  rcv : EpId
  plane : PlaneNo
  deriving DecidableEq, Repr

/-- One kept or discarded PTM dialogue: its round trip, the reference time at the sample, and the
reference's rate against the TCXO in 0.001 ppm (R148, R150, R151). -/
structure Ptm where
  answered : Bool
  roundTripNs : Nat
  refNs : Int
  rateMilliPpm : Int
  deriving DecidableEq, Repr

/-- The fields of a data or control header (R425, R426). loc is where the sender's translation placed the line, and iss
the core that issued the operation (log 11). -/
structure Hdr where
  hopDst : EpId := 0
  hopSrc : EpId := 0
  vc : BitVec 2 := 0
  mcast : Bool := false
  epoch : Bool := false
  promoted : Bool := false
  detour : Bool := false
  origin : EpId := 0
  target : EpId := 0
  seq : BitVec 24 := 0
  tag : BitVec 8 := 0
  part : PartId := 0
  status : BitVec 4 := 0
  len : Nat := 0
  addr : BitVec 48 := 0
  otag : BitVec 80 := 0
  mmask : BitVec 32 := 0
  credit : BitVec 8 := 0
  loc : Nat := 0
  iss : Option CoreId := none
  deriving DecidableEq, Repr

/-- A packet that arrives at an endpoint over a link (or the hub ring): the receiver, the link's sender, whether it rides
the Turnpike and in which class of the ring segment, the header, the symbols in error of each codeword that holds bytes of it, the difference of
its CRC from the one computed over what arrived, its reserved fields as one number, and the operation code where it is a reserved one
(R398, R403, R426, R449, R452). -/
structure Arr where
  rx : EpId
  link : EpId
  turnpike : Bool
  cls : Bool
  h : Hdr
  codewords : List Nat := []
  crcErr : BitVec 32 := 0
  rsv : Nat := 0
  code : Option (BitVec 8) := none
  deriving DecidableEq, Repr

/-- One entry of an ACK (R429). -/
structure AckEntry where
  seq : BitVec 24
  status : BitVec 4
  mcast : Bool
  deriving DecidableEq, Repr

/-- The payload of an ACK (R429). -/
structure AckP where
  ret1 : Nat
  ret2 : Nat
  transit : Nat
  entries : List AckEntry
  deriving DecidableEq, Repr

/-- One reply of an ATOMIC_REPLY (R430). -/
structure AtomR where
  id : BitVec 48
  seq : BitVec 24
  status : BitVec 4
  value : BitVec 64
  deriving DecidableEq, Repr

/-- The payload of LINK_MASK (R419). -/
structure LinkMask where
  snd : EpId
  rcv : EpId
  sndEpoch : BitVec 8
  rcvEpoch : BitVec 8
  width : BitVec 3
  path : Bool
  mask : BitVec 32
  rcvUsable : BitVec 32
  tick : Nat
  deriving DecidableEq, Repr

/-- A fault report (R478 kind 0x02). -/
structure FaultRep where
  snd : EpId
  rcv : EpId
  group : GroupNo
  path : Bool
  cause : BitVec 8
  lanes : BitVec 32
  tick : Nat
  deriving DecidableEq, Repr

/-- A switchover: its group, new path, switch tick, and the generation it was announced with (R478). -/
structure Switch where
  group : GroupNo
  path : Bool
  t : Nat
  gen : Nat
  deriving DecidableEq, Repr

/-- The payload of an atomic (R428): minor opcode of R268, type code, operand bytes. -/
structure AtomP where
  minor : BitVec 9
  typ : BitVec 4
  operand : List Byte
  deriving DecidableEq, Repr

/-- The typed payload of a packet (R428). -/
inductive Payload where
  | none
  | sync (count : Nat)
  | probe (t : Nat)
  | echo (t1 t2 : Nat)
  | beacon (epoch : BitVec 8)
  | linkMask (decision : Bool) (m : LinkMask)
  | ack (a : AckP)
  | atomicReply (r1 r2 : AtomR)
  | hubState (mask : BitVec 32) (ring : BitVec 8)
  | notice (tag : BitVec 8) (start deadline : Nat)
  | fail (tag : BitVec 8) (tick : Nat)
  | entries (u : Nat) (recs : List (Nat × BitVec 64))
  | announce (sw : Switch) (steward : EpId)
  | accept (sw : Switch)
  | fault (f : FaultRep)
  | stateRec (paths : BitVec 4) (steward : EpId) (gen : Nat)
  | audit (vc : BitVec 2) (transit : Bool) (held returned number : Nat)
  | line (d : List Byte)
  | store (be : BitVec 64) (d : List Byte)
  | atomic (a : AtomP)
  | copyRead (dst : BitVec 64) (len : Nat) (mask : BitVec 32) (dstEp : EpId) (dstLoc : Nat)
  | copyData (d : List Byte)
  | wmAdd (core : Nat) (wm : BitVec 6) (amount : Nat)
  | drain (epoch : Bool)
  | auditReq (number : Nat)
  deriving DecidableEq, Repr

/-- The operation codes of packets (R428). -/
inductive POp where
  | sync | syncProbe | syncEcho | beacon | linkMask | ack | atomicReply | credit | hubState
  | periodNotice | periodFail | pageMapEntries | switchAnnounce | auditReply
  | load | readData | store | atomic | copyRead | copyData | wmAdd | drainMarker | windowAudit
  deriving DecidableEq, Repr

/-- One change carried by a Causeway slot (R468). -/
structure CwSlot where
  kind : BitVec 4
  ep : EpId
  vc : BitVec 2
  value : BitVec 64
  deriving DecidableEq, Repr

/-- The six link loss causes of a partition or a fault that a control row carries are typed where used; a
partner of a UCIe module (R496). -/
inductive LinkPartner where
  | mp (k : Fin 8)
  | hg (t : PortId)
  | site (t : TileId)
  deriving DecidableEq, Repr

/-- The result of a march test on one stack (R333, R335, R336): failed rows as region and row, spare rows
that failed, and regions left unrepairable. -/
structure MarchResult where
  failed : List (RegionNo × Nat)
  badSpares : List (RegionNo × Nat)
  deriving DecidableEq, Repr

/-- What a region finds at its wake or at its self-test: oscillator self-check margin at a clock, in thousandths of a percent and MHz,
the bit errors of the vertical-link check, and the receiver cycles to which its crossing FIFOs calibrate (R156, R160, R162, R494). -/
structure WakeCheck where
  margin : Int
  mhz : Nat
  oscOk : Bool
  prbsErrors : Nat := 0
  fifo : Nat := 4
  deriving DecidableEq, Repr

/-- One reading of a remote diode pair: its forward voltages at the two currents, in mV and with their difference in µV, and the
temperature that the difference gives, in quarter degrees (R83, R109). -/
structure DiodeRead where
  pair : Fin 36
  mv : Nat
  mv2 : Nat
  diffUv : Int
  quarter : Int
  deriving DecidableEq, Repr

/-- What a lane's test finds: the last lane marker received, the pilot of the drop ring in kHz, the received power of five readings in 0.01 dBm, and
the bit errors of the PRBS31 run (R391, R409, R414). -/
structure LaneTest where
  marker : BitVec 170
  khz : Nat
  cdBm : List Int
  errors : Nat
  deriving DecidableEq, Repr

/-- The test of one lane on one path at start-up (R409). -/
structure LaneReading where
  lane : LaneId
  path : Bool
  test : LaneTest
  deriving DecidableEq, Repr

/-- What an update of the thermal model reads beside the sensors: rail powers in mW, and activity counters (R110). -/
structure ModelInputs where
  mw : List (StackId × Nat)
  act : List (SensorId × Nat)
  deriving DecidableEq, Repr

/-- The light received on a lane, in 0.01 dBm (R411). -/
structure LaneLight where
  lane : LaneId
  cdBm : Int
  deriving DecidableEq, Repr

/-- What a receiver finds on a plane and line where a lane marker is due: its 170 bits, or nothing (R400, R411). -/
structure LaneMark where
  rcv : EpId
  plane : PlaneNo
  line : Fin 32
  word : Option (BitVec 170)
  deriving DecidableEq, Repr

/-- What a lock loop shows of a drop or modulator ring over 10 µs: its smallest error in MHz, the heater power in µW, and whether the error grows
(R392, R395). -/
structure RingTrack where
  modulator : Bool
  errMHz : Nat
  uw : Nat
  growing : Bool
  deriving DecidableEq, Repr

/-- A laser's weakest line, in 0.01 dBm, and whether its bias loop is at its maximum (R384). -/
structure LaserReading where
  cdBm : Int
  maxBias : Bool
  deriving DecidableEq, Repr

/-- The hourly readings: the margins of the lasers and of the UCIe modules (R610). -/
structure AgeReadings where
  lasers : List (EpId × Int)
  ucie : List (Fin 76 × Int)
  deriving DecidableEq, Repr

/-- One dip that a ring's acquisition sweep finds: the heater power at which it stands, in µW, the largest error of the loop there over 10 µs, in
MHz, and the pilot monitored there, in kHz (R392, R393). -/
structure Dip where
  uw : Nat
  errMHz : Nat
  khz : Nat
  deriving DecidableEq, Repr

/-- What the bring-up of a UCIe module finds: the class and identity that its partner reports over the sideband, the rate in GT/s and the width at
which it trains, the lanes of each direction that fail in training, and the test flits that fail their CRC (R497, R498). -/
structure UcieCap where
  unit : Nat
  cls : Nat
  ident : BitVec 64
  gts : Nat := 32
  width : Nat := 64
  txBad : List Nat := []
  rxBad : List Nat := []
  badFlits : Nat := 0
  deriving DecidableEq, Repr

/-- What step 5 finds at an open site: whether VOPEN is in regulation within 5 ms, the capability record, its raw format version, its temperature
limit and the least rate and width that it declares (R501). -/
structure SiteCap where
  tile : TileId
  regulated : Bool
  record : List Byte
  version : Nat
  limit : Int
  minGts : Nat
  minWidth : Nat
  deriving DecidableEq, Repr

/-- A lane of a vertical bundle: stack, bundle, lane number (R488, R492). -/
structure VLane where
  stack : StackId
  bundle : Nat
  lane : Nat
  deriving DecidableEq, Repr

/-- What tuning finds on a vertical lane: the first of the 64 delay steps that passes and how many do, and the bit errors of the two PRBS31 runs, of
steps 3 and 5. For a clock lane the steps are those at which its data lanes can be tuned against it (R491). -/
structure VReading where
  lane : VLane
  first : Nat := 0
  steps : Nat
  err3 : Nat := 0
  err5 : Nat := 0
  deriving DecidableEq, Repr

/-- The result of one attempt of a start-up step: which signatures of the flash verify (bits 0 and 1: the copies of the record; bits 2 and 3:
the overlays A and B), the elements that failed, and what was measured (R173, R175, R181, R183, R186, R410, R492, R498, R501). -/
structure StepResult where
  identityOk : Bool := true
  sigOk : BitVec 4 := 3
  vlanes : List VReading := []
  stks : List StackId := []
  tiles : List TileId := []
  hbms : List (Fin 16) := []
  mps : List (Fin 8) := []
  gateways : List PortId := []
  caps : List UcieCap := []
  sites : List SiteCap := []
  march : List (StackId × MarchResult) := []
  clusters : List (StackId × RegionNo) := []
  checks : List (StackId × RegionNo × WakeCheck) := []
  rings : List (LaneId × Bool × List Dip) := []
  lanes : List LaneReading := []
  probes : List (EpId × PlaneNo × Int) := []
  deriving DecidableEq, Repr

/-- A test and its one repeat (R175, R200). -/
structure Attempts where
  first : StepResult
  again : StepResult
  deriving DecidableEq, Repr

/-- A die that returns to service, and what its sequence finds (R189, R192). -/
structure DieReturn where
  die : DieId
  found : StepResult
  deriving DecidableEq, Repr

/-- A commit that finishes, and the tests of the stacks that were left for it (R494, R525). -/
structure CommitEnd where
  part : PartId
  tests : Attempts
  deriving DecidableEq, Repr

/-- A transport of SPDM requests (R562). -/
inductive Transport where
  | doe (t : PortId)
  | side
  deriving DecidableEq, Repr

/-- An X.509 requester identity as mutual authentication leaves it (R569). -/
structure PeerCert where
  maintainerCa : Bool
  serial : BitVec 64
  digest8 : BitVec 64
  deriving DecidableEq, Repr

/-- A message on the sideband: the endpoint ID it is addressed to, and whether the inbox of its type already holds four requests (R595). -/
structure Mctp where
  dest : BitVec 8
  full : Bool
  deriving DecidableEq, Repr

/-- A vendor command: its message, its tag, and its flags, status and reserved bytes, which a request leaves zero (R601, R603). -/
structure Vendor where
  m : Mctp
  tag : BitVec 16
  flags : BitVec 8 := 0
  status : BitVec 8 := 0
  rsv : BitVec 24 := 0
  deriving DecidableEq, Repr

/-- An SPDM request: its transport, its message there on the sideband, whether the responder is busy with another transport, and the secure
session it came in (R562, R563). -/
structure SpdmReq where
  x : Transport
  m : Mctp
  busy : Bool
  ses : Option (BitVec 32)
  deriving DecidableEq, Repr

/-- A BIND request: its partition, the envelope's host address and length, its first page, and the header that the gateway fetches (R576, R577). -/
structure BindReq where
  r : SpdmReq
  part : BitVec 8
  addr : BitVec 64
  len : BitVec 64
  first : BitVec 32
  env : List Byte
  deriving DecidableEq, Repr

/-- A PCIe configuration request (R58): a read, or a write with its value, of one dword. -/
structure CfgReq where
  write : Bool
  dword : Fin 1024
  value : BitVec 32
  deriving DecidableEq, Repr

/-- What the SECDED checks of an access found: single-bit errors corrected, the 8 B words (address / 8) read with an uncorrectable error, and
whether a word of the packet had an error in flight (R314, R327, R372). -/
structure Ecc where
  corrected : Nat := 0
  bad : List Nat := []
  flight : Bool := false
  deriving DecidableEq, Repr

/-- The commands: one constructor per row of the table, in the table's order. -/
inductive Instr where
  /-- MOD_PWREN_ON (R63). -/
  | modPwrenOn (f : List DiodeRead)
  /-- MOD_PWREN_OFF (R64). -/
  | modPwrenOff
  /-- ORDERLY_SHUTDOWN_DONE (R64). -/
  | orderlyShutdownDone (f : List DiodeRead)
  /-- MOD_RESET_ASSERT (R68). -/
  | modResetAssert
  /-- MOD_RESET_RELEASE (R68). -/
  | modResetRelease
  /-- PERST_N_ASSERT (R54). -/
  | perstNAssert (t : PortId)
  /-- PERST_N_DEASSERT (R56). -/
  | perstNDeassert (t : PortId) (refclk : Bool)
  /-- GATEWAY_POWER_STABLE (R55). -/
  | gatewayPowerStable (t : PortId)
  /-- REFCLK_APPEAR (R57). -/
  | refclkAppear (t : PortId)
  /-- STEWARD_SEL_CHANGE (R72). -/
  | stewardSelChange (v : BitVec 2)
  /-- PPS_EDGE (R77). -/
  | ppsEdge (rate : Int)
  /-- PPS_TIMEOUT (R78). -/
  | ppsTimeout
  /-- I3C_STUCK_LOW (R80). -/
  | i3cStuckLow
  /-- I3C_BUS_RESUME (R80). -/
  | i3cBusResume
  /-- I3C_ENTDAA (R79). -/
  | i3cEntdaa (a : BitVec 7)
  /-- I3C_SETDASA (R79). -/
  | i3cSetdasa (static a : BitVec 7)
  /-- DIODE_FRAME (R109). -/
  | diodeFrame (l : List DiodeRead)
  /-- JTAG_INSTRUCTION (R85). -/
  | jtagInstruction (ir : JtagIr)
  /-- COOLANT_SAMPLE (R91). -/
  | coolantSample (inlet outlet : Int)
  /-- INPUT_LOW_WARNING (R95). -/
  | inputLowWarning (cv : Nat)
  /-- INPUT_LOW_SHUTDOWN (R95). -/
  | inputLowShutdown (cv : Nat)
  /-- INPUT_BROWNOUT_STOP (R95). -/
  | inputBrownoutStop (cv : Nat)
  /-- INPUT_OVERVOLTAGE_STOP (R95). -/
  | inputOvervoltageStop (cv : Nat)
  /-- INPUT_BACK_IN_RANGE (R96). -/
  | inputBackInRange (cv : Nat) (f : List DiodeRead)
  /-- RAIL_FAULT (R101). -/
  | railFault (r : Fin 11) (n : Fin 16)
  /-- CD_POWER_SAMPLE (R103). -/
  | cdPowerSample (x : StackId) (mw : Nat)
  /-- INPUT_POWER_SAMPLE (R104). -/
  | inputPowerSample (w cv : Nat)
  /-- THERMAL_MODEL_UPDATE (R110). -/
  | thermalModelUpdate (sens : List (SensorId × Int)) (inputs : ModelInputs)
  /-- THROTTLE_SAMPLE (R114). -/
  | throttleSample
  /-- CAP_TAKES_EFFECT (R105). -/
  | capTakesEffect (x : StackId) (p : RegionNo)
  /-- HBM_THERMAL_SAMPLE (R117). -/
  | hbmThermalSample (h : Fin 16) (t : Int)
  /-- ML_SENSORS_SUSPECT (R122). -/
  | mlSensorsSuspect (x : StackId) (p : RegionNo)
  /-- THERMAL_TRIP (R126). -/
  | thermalTrip (l : List TripSource)
  /-- THERMAL_AUTO_RESTART (R128). -/
  | thermalAutoRestart
  /-- SYNC_SEND (R141). -/
  | syncSend
  /-- SYNC (R142). -/
  | sync (a : Arr) (count : Nat)
  /-- SYNC_PROBE (R141). -/
  | syncProbe (a : Arr) (t : Nat)
  /-- SYNC_ECHO (R141). -/
  | syncEcho (a : Arr) (t1 t2 : Nat)
  /-- SYNC_HOLDOVER_WARNING (R146). -/
  | syncHoldoverWarning (e : EpId)
  /-- PTM_DIALOGUE (R148). -/
  | ptmDialogue (t : PortId) (d : Ptm)
  /-- LOCK_SOURCE_LOST (R150). -/
  | lockSourceLost
  /-- DROOP_STRETCH (R155). -/
  | droopStretch (x : StackId) (p : RegionNo)
  /-- REPLICA_MARGIN_SAMPLE (R156). -/
  | replicaMarginSample (x : StackId) (p : RegionNo) (first : Int) (paths : List Int)
  /-- FIXED_CLOCK_LOSS (R163). -/
  | fixedClockLoss (d : DieId)
  /-- REGION_OSCILLATOR_FAILURE (R163). -/
  | regionOscillatorFailure (x : StackId) (p : RegionNo)
  /-- MESH_CLOCK_FAILURE (R163). -/
  | meshClockFailure (x : StackId)
  /-- TCXO_LOSS (R164). -/
  | tcxoLoss
  /-- TCXO_RETURN (R164). -/
  | tcxoReturn
  /-- MASTER_PLL_RELOCK (R164). -/
  | masterPllRelock
  /-- REGION_CLOCK_STOP (R167). -/
  | regionClockStop (x : StackId) (p : RegionNo)
  /-- REGION_POWER_OFF (R167). -/
  | regionPowerOff (x : StackId) (p : RegionNo)
  /-- POWER_OFF_RAMP_DONE (R170). -/
  | powerOffRampDone (x : StackId) (p : RegionNo) (c : WakeCheck)
  /-- SCHEDULED_WAKE (R168). -/
  | scheduledWake (p : PartId)
  /-- REGION_WAKE (R169). -/
  | regionWake (x : StackId) (p : RegionNo) (c : WakeCheck)
  /-- STARTUP_STEP_END (R173). -/
  | startupStepEnd (k : Fin 12) (r : StepResult)
  /-- DIE_RETURN_TO_SERVICE (R192). -/
  | dieReturnToService (back : DieReturn)
  /-- PAGE_MAP_COPY_DONE (R190). -/
  | pageMapCopyDone (t : TileId)
  /-- SLICE_ACCESS_TIMEOUT (R196). -/
  | sliceAccessTimeout (u : Cv)
  /-- BEACON_SEND (R199). -/
  | beaconSend (e : EpId)
  /-- BEACON (R199). -/
  | beacon (a : Arr) (epoch : BitVec 8)
  /-- PEER_LOST (R199). -/
  | peerLost (e o : EpId)
  /-- PARTITION_RESTART (R200). -/
  | partitionRestart (t : PortId) (p : PartId)
  /-- PARTITION_RESTART_DONE (R200). -/
  | partitionRestartDone (p : PartId) (tests : Attempts)
  /-- HEARTBEAT_WRITE (R201). -/
  | heartbeatWrite (p : PartId)
  /-- PERIOD_START (R239). -/
  | periodStart (x : StackId) (c : ClusterNo)
  /-- DEADLINE (R241). -/
  | deadline (x : StackId) (c : ClusterNo)
  /-- PROGRAM_FETCH (R228). -/
  | programFetch (g : CoreId)
  /-- FREE_RUN_TICK_LIMIT (R237). -/
  | freeRunTickLimit (p : PartId)
  /-- COPY_ENGINE_ISSUE (R224). -/
  | copyEngineIssue (g : CoreId) (e : Ecc)
  /-- HANDOVER_DONE (R324). -/
  | handoverDone (x : StackId) (c : ClusterNo) (n : Fin 16)
  /-- INT_ADD (R257). -/
  | intAdd (u : Cv) (x : FAB)
  /-- INT_SUB (R257). -/
  | intSub (u : Cv) (x : FAB)
  /-- INT_MUL (R257). -/
  | intMul (u : Cv) (x : FAB)
  /-- MULHI (R257). -/
  | mulhi (u : Cv) (f : FA)
  /-- MAD (R257). -/
  | mad (u : Cv) (f : FA)
  /-- INT_MIN (R257). -/
  | intMin (u : Cv) (x : FAB)
  /-- INT_MAX (R257). -/
  | intMax (u : Cv) (x : FAB)
  /-- INT_AND (R257). -/
  | intAnd (u : Cv) (x : FAB)
  /-- INT_OR (R257). -/
  | intOr (u : Cv) (x : FAB)
  /-- INT_XOR (R257). -/
  | intXor (u : Cv) (x : FAB)
  /-- INT_SHL (R257). -/
  | intShl (u : Cv) (x : FAB)
  /-- INT_SHR (R257). -/
  | intShr (u : Cv) (x : FAB)
  /-- POPC (R257). -/
  | popc (u : Cv) (f : FA)
  /-- CLZ (R257). -/
  | clz (u : Cv) (f : FA)
  /-- INT_CMP (R257). -/
  | intCmp (u : Cv) (k : Cmp) (x : FAB)
  /-- SEL (R257). -/
  | sel (u : Cv) (f : FA)
  /-- INT_MOV (R257). -/
  | intMov (u : Cv) (x : FAB)
  /-- MOV_SV (R257). -/
  | movSv (u : Cv) (f : FA)
  /-- MOV_VS (R257). -/
  | movVs (u : Cv) (f : FA)
  /-- SHFL (R257). -/
  | shfl (u : Cv) (f : FA)
  /-- VOTE (R257). -/
  | vote (u : Cv) (f : FA)
  /-- PAND (R257). -/
  | pand (u : Cv) (f : FA)
  /-- POR (R257). -/
  | por (u : Cv) (f : FA)
  /-- PXOR (R257). -/
  | pxor (u : Cv) (f : FA)
  /-- PNOT (R257). -/
  | pnot (u : Cv) (f : FA)
  /-- U_ADD (R258). -/
  | uAdd (u : Cv) (x : FAB)
  /-- U_SUB (R258). -/
  | uSub (u : Cv) (f : FA)
  /-- U_MUL (R258). -/
  | uMul (u : Cv) (f : FA)
  /-- U_AND (R258). -/
  | uAnd (u : Cv) (x : FAB)
  /-- U_OR (R258). -/
  | uOr (u : Cv) (x : FAB)
  /-- U_XOR (R258). -/
  | uXor (u : Cv) (x : FAB)
  /-- U_SHL (R258). -/
  | uShl (u : Cv) (x : FAB)
  /-- U_SHR (R258). -/
  | uShr (u : Cv) (x : FAB)
  /-- LSHI (R258). -/
  | lshi (u : Cv) (f : FB)
  /-- U_CMP (R258). -/
  | uCmp (u : Cv) (k : Cmp) (x : FAB)
  /-- F_ADD (R259). -/
  | fAdd (u : Cv) (x : FAB)
  /-- F_SUB (R259). -/
  | fSub (u : Cv) (x : FAB)
  /-- F_MUL (R259). -/
  | fMul (u : Cv) (x : FAB)
  /-- FMA (R259). -/
  | fma (u : Cv) (f : FA)
  /-- F_MIN (R291). -/
  | fMin (u : Cv) (x : FAB)
  /-- F_MAX (R291). -/
  | fMax (u : Cv) (x : FAB)
  /-- DIV (R289). -/
  | div (u : Cv) (f : FA)
  /-- SQRT (R289). -/
  | sqrt (u : Cv) (f : FA)
  /-- RCP (R289). -/
  | rcp (u : Cv) (f : FA)
  /-- RSQRT (R289). -/
  | rsqrt (u : Cv) (f : FA)
  /-- EXP2 (R289). -/
  | exp2 (u : Cv) (f : FA)
  /-- LOG2 (R289). -/
  | log2 (u : Cv) (f : FA)
  /-- F_CMP (R292). -/
  | fCmp (u : Cv) (k : Cmp) (x : FAB)
  /-- CMP_UN (R292). -/
  | cmpUn (u : Cv) (f : FA)
  /-- F_MOV (R259). -/
  | fMov (u : Cv) (f : FB)
  /-- CONVERSION (R260). -/
  | conversion (u : Cv) (src : BitVec 4) (f : FA)
  /-- XADD (R305). -/
  | xadd (u : Cv) (f : FA)
  /-- XSUB (R305). -/
  | xsub (u : Cv) (f : FA)
  /-- XNEG (R305). -/
  | xneg (u : Cv) (f : FA)
  /-- XMOV (R261). -/
  | xmov (u : Cv) (f : FA)
  /-- XZERO (R261). -/
  | xzero (u : Cv) (f : FA)
  /-- XCMP (R261). -/
  | xcmp (u : Cv) (k : Cmp) (f : FA)
  /-- MMA (R295). -/
  | mma (u : Cv) (f : FM) (e : Ecc)
  /-- MM_ZERO (R262). -/
  | mmZero (u : Cv) (f : FM)
  /-- MM_LD (R262). -/
  | mmLd (u : Cv) (f : FM) (e : Ecc)
  /-- MM_ST (R262). -/
  | mmSt (u : Cv) (f : FM)
  /-- MM_ADD (R299). -/
  | mmAdd (u : Cv) (f : FM)
  /-- LD (R266). -/
  | ld (u : Cv) (f : FX) (e : Ecc)
  /-- ST (R266). -/
  | st (u : Cv) (f : FX) (e : Ecc)
  /-- LD_U (R266). -/
  | ldU (u : Cv) (f : FX) (e : Ecc)
  /-- ST_U (R266). -/
  | stU (u : Cv) (f : FX)
  /-- LDC (R266). -/
  | ldc (u : Cv) (f : FX)
  /-- STC (R266). -/
  | stc (u : Cv) (f : FX)
  /-- LD_G (R267). -/
  | ldG (u : Cv) (f : FX)
  /-- ST_G (R267). -/
  | stG (u : Cv) (f : FX)
  /-- ATOM_ADD (R268). -/
  | atomAdd (u : Cv) (f : FX)
  /-- ATOM_FADD (R268). -/
  | atomFadd (u : Cv) (f : FX)
  /-- ATOM_MIN (R268). -/
  | atomMin (u : Cv) (f : FX)
  /-- ATOM_MAX (R268). -/
  | atomMax (u : Cv) (f : FX)
  /-- ATOM_MINU (R268). -/
  | atomMinu (u : Cv) (f : FX)
  /-- ATOM_MAXU (R268). -/
  | atomMaxu (u : Cv) (f : FX)
  /-- ATOM_SWAP (R268). -/
  | atomSwap (u : Cv) (f : FX)
  /-- ATOM_CAS (R268). -/
  | atomCas (u : Cv) (f : FX)
  /-- ATOM_XSADD (R307). -/
  | atomXsadd (u : Cv) (f : FX)
  /-- COPY (R269). -/
  | copy (u : Cv) (f : FC)
  /-- COPY_MC (R269). -/
  | copyMc (u : Cv) (f : FC)
  /-- WM_ADD_INSTR (R270). -/
  | wmAddInstr (u : Cv) (f : FB)
  /-- WM_SET (R270). -/
  | wmSet (u : Cv) (f : FB)
  /-- WM_WAIT (R227). -/
  | wmWait (u : Cv) (f : FB)
  /-- WM_READ (R270). -/
  | wmRead (u : Cv) (f : FB)
  /-- WM_SIGNAL (R270). -/
  | wmSignal (u : Cv) (f : FB)
  /-- NOP (R271). -/
  | nopI (u : Cv) (f : FB)
  /-- BRA (R271). -/
  | bra (u : Cv) (f : FB)
  /-- BRA_ANY (R271). -/
  | braAny (u : Cv) (f : FB)
  /-- IF (R271). -/
  | ifI (u : Cv) (f : FB)
  /-- ELSE (R271). -/
  | elseI (u : Cv) (f : FB)
  /-- ENDIF (R271). -/
  | endif (u : Cv) (f : FB)
  /-- LOOP (R271). -/
  | loop (u : Cv) (f : FB)
  /-- BREAK (R271). -/
  | breakI (u : Cv) (f : FB)
  /-- ENDLOOP (R271). -/
  | endloop (u : Cv) (f : FB)
  /-- HALT (R271). -/
  | halt (u : Cv) (f : FB)
  /-- BAR_SYNC (R236). -/
  | barSync (u : Cv) (f : FB)
  /-- FENCE_CORE (R272). -/
  | fenceCore (u : Cv) (f : FB)
  /-- FENCE (R458). -/
  | fence (u : Cv) (f : FB)
  /-- ID_V (R273). -/
  | idV (u : Cv) (f : FB)
  /-- ID_S (R273). -/
  | idS (u : Cv) (f : FB)
  /-- FLAGS_RD (R273). -/
  | flagsRd (u : Cv) (f : FB)
  /-- FLAGS_CLR (R273). -/
  | flagsClr (u : Cv) (f : FB)
  /-- OUT_DONE (R273). -/
  | outDone (u : Cv) (f : FB)
  /-- OUTPUT_PART_COMPLETE (R551). -/
  | outputPartComplete (g : CoreId)
  /-- CLEAR_DONE (R331). -/
  | clearDone (x : StackId) (p : RegionNo)
  /-- MARCH_DONE (R333). -/
  | marchDone (x : StackId) (m : MarchResult)
  /-- OPERATION_TIMEOUT (R368). -/
  | operationTimeout (n : Nat)
  /-- PAGE_MAP_BATCH_ACCEPT (R356). -/
  | pageMapBatchAccept
  /-- PAGE_MAP_UPDATE_TICK (R356). -/
  | pageMapUpdateTick
  /-- QUARANTINE_END (R358). -/
  | quarantineEnd (f : Nat)
  /-- HBM_SELF_REFRESH_ENTRY (R340). -/
  | hbmSelfRefreshEntry (h : Fin 16)
  /-- REPLAY_ENTRY_EXPIRY (R367). -/
  | replayEntryExpiry (e : EpId) (id : BitVec 48)
  /-- FRAME_TABLE_REBUILT (R348). -/
  | frameTableRebuilt
  /-- COMMIT_FLIP (R350). -/
  | commitFlip (p : PartId) (t : TileId)
  /-- STACK_JUDGEMENT (R552). -/
  | stackJudgement (x : StackId)
  /-- PERIOD_FAIL_REPEAT (R552). -/
  | periodFailRepeat (e : EpId) (p : PartId)
  /-- CONFIRMATION_TICK (R553). -/
  | confirmationTick (p : PartId) (t : TileId)
  /-- MARGIN_READING (R391). -/
  | marginReading (l : LaneId) (cdBm : Int)
  /-- LIGHT_LOSS (R411). -/
  | lightLoss (x : LaneLight)
  /-- LANE_MARKER (R400). -/
  | laneMarker (m : LaneMark)
  /-- SYMBOL_ERROR_CHECK (R411). -/
  | symbolErrorCheck (l : LaneId) (symbols corrected : Nat) (codewords : List Nat)
  /-- RING_LOSS_OF_LOCK (R395). -/
  | ringLossOfLock (l : LaneId) (r : RingTrack)
  /-- PILOT_CHECK (R396). -/
  | pilotCheck (l : LaneId) (modulator : Bool) (khz : Nat)
  /-- RING_ACQUISITION_DONE (R393). -/
  | ringAcquisitionDone (l : LaneId) (modulator : Bool) (dips : List Dip)
  /-- LASER_POWER_LOW (R384). -/
  | laserPowerLow (e : EpId) (r : LaserReading)
  /-- LANE_RETURN_TEST (R414). -/
  | laneReturnTest (l : LaneId)
  /-- LANE_RETURN_TEST_DONE (R414). -/
  | laneReturnTestDone (l : LaneId) (r : LaneTest)
  /-- LINK_MASK_DECISION (R418). -/
  | linkMaskDecision (a : Arr) (m : LinkMask)
  /-- LINK_MASK_ANNOUNCEMENT (R418). -/
  | linkMaskAnnouncement (a : Arr) (m : LinkMask)
  /-- TRAINING_REPEAT (R420). -/
  | trainingRepeat (i j : EpId)
  /-- LINK_QUIET (R405). -/
  | linkQuiet (i j : EpId)
  /-- PACKET_SEND (R432). -/
  | packetSend (i j : EpId)
  /-- ACK (R459). -/
  | ack (a : Arr) (p : AckP)
  /-- ACK_TIMER (R429). -/
  | ackTimer (e o : EpId)
  /-- ATOMIC_REPLY (R430). -/
  | atomicReply (a : Arr) (r1 r2 : AtomR)
  /-- CREDIT (R431). -/
  | credit (a : Arr)
  /-- HUB_STATE (R445). -/
  | hubState (a : Arr) (mask : BitVec 32) (ring : BitVec 8)
  /-- HUB_STATE_SEND (R445). -/
  | hubStateSend (t : TileId)
  /-- PERIOD_NOTICE (R453). -/
  | periodNotice (a : Arr) (tag : BitVec 8) (start deadline : Nat)
  /-- PERIOD_FAIL (R453). -/
  | periodFail (a : Arr) (tag : BitVec 8) (tick : Nat)
  /-- PAGE_MAP_ENTRIES (R428). -/
  | pageMapEntries (a : Arr) (u : Nat) (recs : List (Nat × BitVec 64))
  /-- AUDIT_REPLY (R437). -/
  | auditReply (a : Arr) (vc : BitVec 2) (transit : Bool) (held returned number : Nat)
  /-- LOAD (R363). -/
  | load (a : Arr) (e : Ecc)
  /-- READ_DATA (R435). -/
  | readData (a : Arr) (d : List Byte) (bad : Bool)
  /-- STORE (R364). -/
  | store (a : Arr) (be : BitVec 64) (d : List Byte) (e : Ecc)
  /-- ATOMIC (R367). -/
  | atomic (a : Arr) (p : AtomP) (e : Ecc)
  /-- COPY_READ (R369). -/
  | copyRead (a : Arr) (dst : BitVec 64) (len : Nat) (mask : BitVec 32) (dstEp : EpId) (dstLoc : Nat) (e : Ecc)
  /-- COPY_DATA (R370). -/
  | copyData (a : Arr) (d : List Byte) (e : Ecc)
  /-- WM_ADD (R457). -/
  | wmAdd (a : Arr) (core : Nat) (w : BitVec 6) (n : Nat)
  /-- DRAIN_MARKER (R447). -/
  | drainMarker (a : Arr)
  /-- WINDOW_AUDIT (R437). -/
  | windowAudit (a : Arr)
  /-- WINDOW_AUDIT_TIMER (R437). -/
  | windowAuditTimer (i j : EpId) (vc : BitVec 2)
  /-- PROMOTION (R433). -/
  | promotion (e : EpId)
  /-- BANK_IDLE_TIMEOUT (R446). -/
  | bankIdleTimeout (e : EpId)
  /-- EPOCH_HOLD_TIMEOUT (R447). -/
  | epochHoldTimeout (e o : EpId) (vc : BitVec 2)
  /-- TURNPIKE_ENTRY (R450). -/
  | turnpikeEntry (t : TileId)
  /-- INTERNAL_DELIVERY (R649). -/
  | internalDelivery (e : EpId) (x : Ecc)
  /-- CAUSEWAY_RECORD (R467). -/
  | causewayRecord (e : EpId) (w : BitVec 512)
  /-- CAUSEWAY_RECORD_MISSING (R471). -/
  | causewayRecordMissing (e : EpId)
  /-- CONTROLLER_FAIL (R470). -/
  | controllerFail (e : EpId)
  /-- LEASE_RENEW (R473). -/
  | leaseRenew (h : Fin 2)
  /-- LEASE_RENEWAL (R473). -/
  | leaseRenewal (h : Fin 2) (g : GroupNo) (gen ex : Nat)
  /-- LEASE_ECHO (R473). -/
  | leaseEcho (h : Fin 2) (g : GroupNo) (ex : Nat)
  /-- TOKEN_TAKEOVER (R473). -/
  | tokenTakeover (h : Fin 2) (g : GroupNo)
  /-- STEWARD_RETURN_TAKEOVER (R651). -/
  | stewardReturnTakeover (h : Fin 2)
  /-- SWITCHOVER_ECHO (R477). -/
  | switchoverEcho (h : Fin 2) (g : GroupNo)
  /-- PROBE_READING (R465). -/
  | probeReading (e : EpId) (p : PlaneNo) (cdBm : Int) (khz : Nat)
  /-- SWITCH_ANNOUNCEMENT (R479). -/
  | switchAnnouncement (a : Arr) (sw : Switch) (h : Fin 2)
  /-- SWITCH_ACCEPTANCE (R479). -/
  | switchAcceptance (a : Arr) (sw : Switch)
  /-- FAULT_REPORT (R475). -/
  | faultReport (a : Arr) (f : FaultRep)
  /-- STATE_RECORD (R474). -/
  | stateRecord (a : Arr) (paths : BitVec 4) (h : Fin 2) (gen : Nat)
  /-- ANNOUNCE_REPEAT (R479). -/
  | announceRepeat (h : Fin 2)
  /-- STATE_RECORD_SEND (R479). -/
  | stateRecordSend (h : Fin 2)
  /-- SWITCH_EXCLUDE (R480). -/
  | switchExclude (e : EpId)
  /-- DRIVER_SWITCH (R480). -/
  | driverSwitch (e : EpId)
  /-- SWITCH_RESTORE (R480). -/
  | switchRestore (e : EpId)
  /-- SWITCH_COMPLETE (R480). -/
  | switchComplete (h : Fin 2) (g : GroupNo)
  /-- EYE_MONITOR_SAMPLE (R495). -/
  | eyeMonitorSample (x : StackId) (bundle lane steps words : Nat) (errors : List (Nat × Nat))
  /-- UCIE_FLIT (R499). -/
  | ucieFlit (u : Fin 76) (bs : List Byte)
  /-- UCIE_LINK_DOWN (R500). -/
  | ucieLinkDown (q : LinkPartner)
  /-- OPEN_SITE_TEMP_REPORT (R503). -/
  | openSiteTempReport (t : TileId) (temp : Int)
  /-- OPEN_SITE_TEMP_TIMEOUT (R503). -/
  | openSiteTempTimeout (t : TileId)
  /-- OPEN_SITE_PACKET (R502). -/
  | openSitePacket (t : TileId) (vc : BitVec 2) (op : POp) (addr : BitVec 48) (pl : Payload) (tag : Nat)
  /-- CONFIG_REQUEST (R58). -/
  | configRequest (t : PortId) (r : CfgReq)
  /-- FUNCTION_LEVEL_RESET (R510). -/
  | functionLevelReset (t : PortId)
  /-- POWER_STATE_CHANGE (R512). -/
  | powerStateChange (t : PortId) (d3 : Bool)
  /-- HDM_DECODER_COMMIT (R516). -/
  | hdmDecoderCommit (t : PortId) (n : Fin 4) (base size skip : BitVec 64) (ways : Nat)
  /-- CXL_MEM_READ (R517). -/
  | cxlMemRead (t : PortId) (tag : Nat) (hpa : BitVec 64)
  /-- CXL_MEM_WRITE (R517). -/
  | cxlMemWrite (t : PortId) (tag : Nat) (hpa : BitVec 64) (be : BitVec 64) (d : List Byte)
  /-- CXL_MEM_READ_TIMEOUT (R517). -/
  | cxlMemReadTimeout (t : PortId) (tag : Nat)
  /-- DOORBELL_SNOOP (R534). -/
  | doorbellSnoop (p : PartId) (l : Fin 8)
  /-- DOORBELL_WAKE (R535). -/
  | doorbellWake (p : PartId) (v : List (BitVec 64))
  /-- CXL_LINK_DOWN (R511). -/
  | cxlLinkDown (t : PortId)
  /-- CXL_LINK_UP (R537). -/
  | cxlLinkUp (t : PortId) (width rate : Nat)
  /-- IDE_KEY_PROGRAM (R586). -/
  | ideKeyProgram (t : PortId) (keys : List Byte)
  /-- IDE_INTEGRITY_FAILURE (R587). -/
  | ideIntegrityFailure (t : PortId)
  /-- CDAT_READ (R519). -/
  | cdatRead (t : PortId)
  /-- COMMIT (R524). -/
  | commit (t : PortId) (p : PartId) (table : List Byte)
  /-- COMMIT_DONE (R525). -/
  | commitDone (c : CommitEnd)
  /-- ABANDON (R641). -/
  | abandon (t : PortId) (p : PartId)
  /-- TEARDOWN (R527). -/
  | teardown (t : PortId) (p : PartId)
  /-- TEARDOWN_DONE (R527). -/
  | teardownDone (p : PartId)
  /-- DOORBELL_RESYNC (R530). -/
  | doorbellResync (t : PortId) (p : PartId)
  /-- PAGE_ASSIGN (R526). -/
  | pageAssign (t : PortId) (p : PartId) (first count : BitVec 21)
  /-- PAGE_RELEASE (R526). -/
  | pageRelease (t : PortId) (p : PartId) (first count : BitVec 21)
  /-- DESCRIPTOR_FETCH (R536). -/
  | descriptorFetch (p : PartId) (r : Fin 64) (l : List (List Byte))
  /-- NOP_DESCRIPTOR (R539). -/
  | nopDescriptor (p : PartId) (n : Nat)
  /-- LOAD_BUNDLE (R548). -/
  | loadBundle (p : PartId) (n : Nat) (bs : List Byte)
  /-- BUNDLE_ADMISSION (R548). -/
  | bundleAdmission (p : PartId)
  /-- RUN_PERIODS (R549). -/
  | runPeriods (p : PartId) (n : Nat)
  /-- STOP (R556). -/
  | stopWork (p : PartId) (n : Nat)
  /-- COPY_IN (R541). -/
  | copyIn (p : PartId) (n : Nat) (h : List Byte) (e : Ecc) (lost : Option (Nat × BitVec 4))
  /-- COPY_OUT (R541). -/
  | copyOut (p : PartId) (n : Nat) (h : List Byte) (e : Ecc) (lost : Option (Nat × BitVec 4))
  /-- FILL (R541). -/
  | fill (p : PartId) (n : Nat) (e : Ecc) (lost : Option (Nat × BitVec 4))
  /-- FENCE_DESCRIPTOR (R539). -/
  | fenceDescriptor (p : PartId) (n : Nat)
  /-- PAGE_MAP_UPDATE (R357). -/
  | pageMapUpdate (p : PartId) (n : Nat) (bs : List Byte)
  /-- WAYMARK_SET (R226). -/
  | waymarkSet (p : PartId) (n : Nat)
  /-- FREE_RUN (R237). -/
  | freeRun (p : PartId) (n : Nat) (bs : List Byte)
  /-- SEAL_FETCH (R555). -/
  | sealFetch (p : PartId) (n : Nat)
  /-- MARCH_TEST (R333). -/
  | marchTest (p : PartId) (n : Nat)
  /-- HEALTH_QUERY (R614). -/
  | healthQuery (p : PartId) (n : Nat)
  /-- COMPLETION_RECORD_WRITE (R543). -/
  | completionRecordWrite (p : PartId) (r : Fin 64)
  /-- MSIX_MESSAGE (R545). -/
  | msixMessage (p : PartId) (r : Fin 64)
  /-- GET_VERSION (R562). -/
  | getVersion (r : SpdmReq)
  /-- GET_CAPABILITIES (R562). -/
  | getCapabilities (r : SpdmReq) (version : BitVec 8)
  /-- NEGOTIATE_ALGORITHMS (R562). -/
  | negotiateAlgorithms (r : SpdmReq)
  /-- GET_DIGESTS (R562). -/
  | getDigests (r : SpdmReq)
  /-- GET_CERTIFICATE (R560). -/
  | getCertificate (r : SpdmReq) (slot : BitVec 8) (off len : BitVec 16)
  /-- CHALLENGE (R562). -/
  | challenge (r : SpdmReq) (slot : BitVec 8) (nonce : List Byte)
  /-- GET_MEASUREMENTS (R566). -/
  | getMeasurements (r : SpdmReq) (op : BitVec 8) (signed : Bool) (nonce : List Byte)
  /-- KEY_EXCHANGE (R563). -/
  | keyExchange (r : SpdmReq) (rid : BitVec 16)
  /-- FINISH (R569). -/
  | finish (r : SpdmReq) (ok : Bool) (peer : Option PeerCert)
  /-- SPDM_HEARTBEAT (R562). -/
  | spdmHeartbeat (r : SpdmReq)
  /-- KEY_UPDATE (R562). -/
  | keyUpdate (r : SpdmReq) (op : BitVec 8)
  /-- END_SESSION (R569). -/
  | endSession (r : SpdmReq)
  /-- BIND (R577). -/
  | bind (r : SpdmReq) (part : BitVec 8) (addr len : BitVec 64) (first : BitVec 32) (env : List Byte)
  /-- BIND_STATUS (R576). -/
  | bindStatus (r : SpdmReq) (no : BitVec 16)
  /-- BIND_COMPLETE (R577). -/
  | bindComplete (p : PartId) (pages : List (List Byte × List Byte))
  /-- SEAL_LEAVES_HASHED (R581). -/
  | sealLeavesHashed (p : PartId) (no : Nat)
  /-- SEAL_SIGNED (R581). -/
  | sealSigned (p : PartId) (no : Nat)
  /-- UPDATE_COMPONENT (R605). -/
  | updateComponent (m : Mctp) (cls ident : BitVec 16) (stamp : BitVec 32) (size most : Nat)
  /-- FIRMWARE_DATA (R605). -/
  | firmwareData (m : Mctp) (d : List Byte)
  /-- FIRMWARE_DATA_TIMEOUT (R606). -/
  | firmwareDataTimeout
  /-- SUPPLEMENT_CHECK (R572). -/
  | supplementCheck
  /-- ACTIVATE_FIRMWARE (R573). -/
  | activateFirmware (m : Mctp) (live : Bool)
  /-- CANCEL_UPDATE (R606). -/
  | cancelUpdate (m : Mctp)
  /-- CANCEL_UPDATE_COMPONENT (R606). -/
  | cancelUpdateComponent (m : Mctp)
  /-- WATCHDOG_EXPIRY (R592). -/
  | watchdogExpiry
  /-- PYHIET_BOOT_DONE (R592). -/
  | pyhietBootDone
  /-- PYHIET_WAKE (R590). -/
  | pyhietWake
  /-- PYHIET_SLEEP (R590). -/
  | pyhietSleep
  /-- SET_ENDPOINT_ID (R595). -/
  | setEndpointId (m : Mctp) (e : BitVec 8)
  /-- GET_ENDPOINT_ID (R595). -/
  | getEndpointId (m : Mctp)
  /-- GET_ENDPOINT_UUID (R595). -/
  | getEndpointUuid (m : Mctp)
  /-- GET_MCTP_VERSION_SUPPORT (R595). -/
  | getMctpVersionSupport (m : Mctp) (typ : BitVec 8)
  /-- GET_MESSAGE_TYPE_SUPPORT (R595). -/
  | getMessageTypeSupport (m : Mctp)
  /-- GET_VENDOR_DEFINED_MESSAGE_SUPPORT (R595). -/
  | getVendorDefinedMessageSupport (m : Mctp) (sel : BitVec 8)
  /-- SETTID (R599). -/
  | settid (m : Mctp) (tid : BitVec 8)
  /-- GETTID (R599). -/
  | gettid (m : Mctp)
  /-- GETPLDMVERSION (R599). -/
  | getpldmversion (m : Mctp) (typ : BitVec 8)
  /-- GETPLDMTYPES (R599). -/
  | getpldmtypes (m : Mctp)
  /-- GETPLDMCOMMANDS (R599). -/
  | getpldmcommands (m : Mctp) (typ : BitVec 8)
  /-- GETPDRREPOSITORYINFO (R600). -/
  | getpdrrepositoryinfo (m : Mctp)
  /-- GETPDR (R600). -/
  | getpdr (m : Mctp) (handle : BitVec 32)
  /-- GETSENSORREADING (R600). -/
  | getsensorreading (m : Mctp) (id : BitVec 16)
  /-- GETSTATESENSORREADINGS (R600). -/
  | getstatesensorreadings (m : Mctp) (id : BitVec 16)
  /-- GET_CONDITIONS (R602). -/
  | getConditions (v : Vendor)
  /-- RESET (R602). -/
  | reset (v : Vendor) (dom num : BitVec 8)
  /-- SIDEBAND_RESET_START (R602). -/
  | sidebandResetStart
  /-- STEWARD_SET (R521). -/
  | stewardSet (v : Vendor) (port : BitVec 8)
  /-- THERMAL_RESTART (R129). -/
  | thermalRestart (v : Vendor)
  /-- PATH_SWITCH (R476). -/
  | pathSwitch (v : Vendor) (g path : BitVec 8)
  /-- HEALTH_READ (R614). -/
  | healthRead (v : Vendor) (sel part : BitVec 8) (off : BitVec 32) (len : BitVec 16)
  /-- RECORDER_READ (R624). -/
  | recorderRead (v : Vendor) (first : BitVec 16) (count flags : BitVec 8)
  /-- RECORDER_CLEAR (R626). -/
  | recorderClear (v : Vendor) (ses : Option (BitVec 32))
  /-- DEBUG_UNLOCK (R85). -/
  | debugUnlock (v : Vendor) (ses : Option (BitVec 32)) (flags : BitVec 8)
  /-- PYHIET_RESTART (R602). -/
  | pyhietRestart (v : Vendor)
  /-- PYHIET_RESTART_START (R592). -/
  | pyhietRestartStart
  /-- AGEING_SAMPLE (R611). -/
  | ageingSample (r : AgeReadings)
  /-- SUPPRESSION_REPORT (R623). -/
  | suppressionReport
  /-- FREEZE_TIMEOUT (R624). -/
  | freezeTimeout
  /-- FLASH_FLUSH (R627). -/
  | flashFlush
  /-- FLASH_WRITE_DONE (R627). -/
  | flashWriteDone (ok : Bool) (status : BitVec 32)
  /-- MODULE_CONTROL (R634). -/
  | moduleControl (t : PortId) (v : BitVec 64)
  /-- RECORDER_LIMIT (R634). -/
  | recorderLimit (t : PortId) (v : BitVec 64)
  /-- THERM_CONFIG (R635). -/
  | thermConfig (t : PortId) (v : BitVec 64)
  /-- TIME_SOURCE (R152). -/
  | timeSource (t : PortId) (v : BitVec 64)
  /-- PPS_SECONDS (R149). -/
  | ppsSeconds (t : PortId) (v : BitVec 64)
  /-- LINK_SELECT (R638). -/
  | linkSelect (t : PortId) (v : BitVec 64)
  /-- REGISTER_WRITE (R632). -/
  | registerWrite (t : PortId) (off size : Nat) (v : BitVec 64) (table : List Byte)
  /-- J_POWER_REMOVAL (R62). -/
  | jPowerRemoval
  /-- J_POWER_RETURN (R62). -/
  | jPowerReturn (cv : Nat)
  /-- ILLEGAL_INSTRUCTION (R251). -/
  | illegalInstruction (u : Cv) (w : Option (BitVec 64))
  /-- FREE_RUN_KERNEL_LAUNCH (R237). -/
  | freeRunKernelLaunch (p : PartId)
  /-- HOST_READ_COMPLETION (R514). -/
  | hostReadCompletion (t : PortId) (tag : Nat) (d : List Byte) (bad : Bool)
  deriving DecidableEq, Repr

end Sys2Proof
end

