-- ==== Sys2Proof/Config.lean ====
section
/-!
DEFINITION. What the spec leaves open: uninterpreted constants. Nothing in Lean can evaluate them, so a
statement about them holds for every value (logs 5, 6, 20, 21).
-/

namespace Sys2Proof.Config

/-- A free 64-bit value: the n-th one the module needs (log 5). -/
opaque free : Nat → BitVec 64

/-! ### Cryptography (log 6) -/

/-- SHA-384 of a byte string, 48 bytes. -/
opaque sha384 : List Byte → List Byte

/-- The signature, r and s, by the attestation key with a number over a byte string (R558). -/
opaque sign : Nat → List Byte → List Byte

/-- The x-coordinate that ECDH with the binding key gives for a public key (R575). -/
opaque ecdhX : List Byte → List Byte

/-- HKDF-SHA-384 with a salt, key material and information, 32 bytes (R575). -/
opaque hkdf : List Byte → List Byte → List Byte → List Byte

/-- AES key unwrapping by RFC 3394: the key, or none (R575). -/
opaque unwrapKey : List Byte → List Byte → Option (List Byte)

/-- AES-256-GCM with a key, IV, additional data, ciphertext and tag: the plaintext, or none where the tag fails (R574). -/
opaque gcmOpen : List Byte → List Byte → List Byte → List Byte → List Byte → Option (List Byte)

/-- Whether a difference of a diode's voltages at two currents, in µV, is plausible for the die of a pair (R83). -/
opaque plausible : Nat → Int → Bool

/-- The thermal model: the raw estimate of a region, in quarter degrees, from its last estimate, the rail powers, the temperatures above and
below, the inlet temperature and its activity (R110). -/
opaque thermalModel : Nat → Int → List Nat → List Int → Int → Nat → Int

/-- The supply, in mV, that a region's loop settles at to hold a frequency in MHz (R154). -/
opaque supplyFor : Nat → Nat → Nat

/-- The frequency, in MHz, that a region's replica paths allow with the margin of R156 at a supply in mV (R153, R154). -/
opaque replicaMhz : Nat → Nat → Nat

/-- The bytes of a section of a signed record whose layout the spec does not give: its type and values (R179). -/
opaque sectionBytes : Nat → List Nat → List Byte

/-- The signature, r and s, by the identity key over a byte string (R178). -/
opaque identitySign : List Byte → List Byte

/-- The X.509 DER form of the attestation certificate with some contents (R560). -/
opaque attCert : List Byte → List Byte

/-- The certificates of a slot's chain that the flash holds: slot 0 without the attestation certificate, slot 1 whole (R560). -/
opaque chainHead : Nat → List Byte

/-- The binding key ID of this module (R574). -/
opaque bindingKeyId : List Byte

/-- Whether the signature of a firmware supplement verifies (R570, R571). -/
opaque firmwareSig : List Byte → Bool

/-! ### The module's own identity (log 6) -/

/-- The SHA-384 of the ROM (R560). -/
opaque romDigest : List Byte

/-- The version of the ROM (R570). -/
opaque romVersion : Nat

/-- What a traffic plan states of one slot of 1,000 ticks: bytes on the links of direct pairs and on each hop of detoured ones, bytes in flight at a
hub for an origin and toward a target (on VC 2 where the flag says so), bytes at port dies with the access kind declared (streamed or random), at
gateways in each direction, and on the DMA side of slices, with those whose core's port the program leaves idle, and the data packets that an
endpoint starts (R438). -/
structure PlanSlot where
  links : List (Fin 32 × Fin 32 × Nat) := []
  hops : List (Fin 32 × Fin 32 × Nat) := []
  transit : List (Fin 32 × Fin 32 × Nat) := []
  flight : List (Fin 32 × Fin 32 × Bool × Nat) := []
  dies : List (Fin 8 × Bool × Nat) := []
  gateways : List (Fin 4 × Nat × Nat) := []
  slices : List (Nat × Bool × Nat) := []
  packets : List (Fin 32 × Nat) := []
  deriving DecidableEq, Repr

/-- The slots of the plans in the bytes of a traffic-plan section, whose form the spec leaves to Mowiyx (R547; log 6). -/
opaque planSlots : List Byte → List PlanSlot

/-! ### Forms that the spec does not give -/

/-- Bytes whose form a standard, not this spec, gives: the response, and what it depends on (log 20). -/
opaque standardBytes : Nat → List Nat → List Byte

/-- The capabilities of a port (R507, R508). -/
inductive Cap where
  | pcie | power | msix | aer | doe (mailbox : Fin 3) | ptm | ide | device | flexBus | locator | serial
  deriving DecidableEq, Repr

/-- The capability that a dword of configuration space belongs to, and which of the capability's dwords it is; the spec does not place them (log 20). -/
opaque capAt : Nat → Option (Cap × Nat)

/-- Where BAR2 holds the HDM Decoder capability, and BAR4 the MSI-X table and the pending bits (R509; log 20). -/
opaque hdmAt : Nat
opaque msixTableAt : Nat
opaque msixPendAt : Nat

/-- Which of the eight modules to a port die carries a packet for an address (R496, R499; log 77). -/
opaque ucieModule : Nat → Nat

/-- The reply to a health selector whose layout the spec does not give: selector and snapshot values (log 21). -/
opaque healthBytes : Nat → List Nat → List Byte

/-- Whether a fused multiply-add of zero, infinity and a quiet NaN sets NV, which IEEE 754 leaves to the
implementation and the spec does not state (log 25). -/
opaque fmaQuietInvalid : Bool

end Sys2Proof.Config
end

