-- ==== Sys2Proof/Machine/State.lean ====
section
/-!
DEFINITION. The state of the module: every register, buffer, queue, counter and mode the spec names, as
plain data, its reset value, and the two types of stop, which no command of this model reaches.
-/

namespace Sys2Proof.Machine

/-- Stops with a fault. The module has none: every error the spec names is a change of state. So no
command raises it, and it is safe. -/
inductive Fault where
  | none
  deriving DecidableEq, Repr

/-- Stops with a refusal. -/
inductive Refusal where
  /-- Raised by the dispatch alone, for a command that has no meaning yet. Safe: the run stops. -/
  | notModelled (mnemonic : String)
  deriving DecidableEq, Repr

/-- What a convoy does: the states of CORE_STATUS (R234), the waits that carry a target (R227, R236),
and the two fences (R272), which CORE_STATUS shows as running (log 22). -/
inductive CvRun where
  | idle
  | running
  | stalled
  | waitWm (w : BitVec 6) (target : BitVec 32)
  | waitBar (n : Fin 4)
  | waitFence (mask : BitVec 32) (err : Bool)
  | waitCore
  | halted
  | haltedFlag
  deriving DecidableEq, Repr

/-- Sleep depth of a region, with the power-off ramp of R170 (R167). -/
inductive SleepDepth where
  | awake | clockStopped | ramping | poweredOff
  deriving DecidableEq, Repr

/-- State of a partition block (R522). -/
inductive BlockState where
  | free | configuring | committed | tearing
  deriving DecidableEq, Repr

/-- Work state of a partition (R201). -/
inductive WorkState where
  | idle | loaded | scheduled | freeRun | stopped | resetting
  deriving DecidableEq, Repr

/-- States of the module (R62, R64, R88, R126, R173). -/
inductive Phase where
  | noJPower | off | shutdown | waitCool | starting | ready | startFailed | tripped | inputStopped | tcxoLost | held
  deriving DecidableEq, Repr

/-- Input condition (R95, R96). -/
inductive InputCond where
  | inRange | low | stopped
  deriving DecidableEq, Repr

/-- Lock state (R147). -/
inductive LockState where
  | free | acquire | locked | holdover
  deriving DecidableEq, Repr

/-- Kind of a start (R172). -/
inductive StartKind where
  | cold | warm | inputReturn | thermal | refReturn
  deriving DecidableEq, Repr

/-- A packet in an ingress buffer, with what the checks of its words find: one of the other route epoch (R447), or one that waits for its
consumer (R434). -/
structure HeldPkt where
  op : POp
  a : Arr
  p : Payload
  since : Nat
  ecc : Ecc := {}
  deriving DecidableEq, Repr

/-- A crossing FIFO between differently clocked regions: its calibrated latency L in receiver cycles, and what it holds, oldest first, at
most 16 entries (R160). -/
structure Fifo where
  lat : Nat := 4
  entries : List HeldPkt := []
  deriving DecidableEq, Repr

/-- The standby controller's copy of its partner's state: the latest value of each kind and element, and the scoreboard entries set, each as
destination and sequence (R468). -/
structure CwCopy where
  vals : List (Nat × BitVec 64) := []
  board : List (Nat × Nat) := []
  deriving DecidableEq, Repr

/-- One period whose tag an endpoint accepts (R453). -/
structure TagWin where
  tag : BitVec 8
  start : Nat
  deadline : Nat
  deriving DecidableEq, Repr

/-- What an endpoint accepts and has noticed of one partition (R453). -/
structure TagPair where
  wins : List TagWin := []
  deriving DecidableEq, Repr

/-- What an endpoint has still to report to one origin, and its counters of freed blocks (R429, R434). -/
structure AckState where
  entries : List AckEntry := []
  oldest : Option Nat := none
  freed1 : Nat := 0
  freed2 : Nat := 0
  unreported : Nat := 0
  deriving DecidableEq, Repr

/-- A packet that waits to be sent over a link: where it goes, what it holds, since when it waits, when it was promoted,
whether it is forwarded for another origin, the operations it is an attempt of, whether it rides the Turnpike, the
ring segment, direction and class whose space it holds, and the route code that a marker of a flip keeps (R432, R433, R446, R448 to R450). -/
structure TxEntry where
  op : POp
  h : Hdr
  p : Payload
  since : Nat
  promotedAt : Option Nat := none
  transit : Bool := false
  ops : List Nat := []
  ring : Bool := false
  seg : Option Nat := none
  fixed : Option (BitVec 2) := none
  deriving DecidableEq, Repr

/-- A data packet that has been started, and the Causeway changes still ahead of it, its own allotment among them: its first block leaves after
their record (R469). -/
structure Leaving where
  ahead : Nat
  rcv : EpId
  op : POp
  h : Hdr
  p : Payload
  deriving DecidableEq, Repr

/-- One entry of a replay table (R367, R457). -/
structure Replay where
  id : BitVec 48
  status : BitVec 4
  value : BitVec 64
  expiry : Nat
  deriving DecidableEq, Repr

/-- An atomic that waits while the replay table is full (R367). -/
structure WaitAtomic where
  a : Arr
  p : AtomP
  ecc : Ecc := {}
  deriving DecidableEq, Repr

/-- Who issued a remote operation: a convoy, a copy of a core, a CXL.mem access of a port, or an open site; no one waits for an operation whose
scoreboard entry alone is left after a takeover (R223, R224, R359, R469, R502). -/
inductive Issuer where
  | convoy (u : Cv)
  | copy (g : CoreId) (id : Nat)
  | mem (t : PortId) (tag : Nat)
  | site (t : TileId) (tag : Nat)
  | gone
  deriving DecidableEq, Repr

/-- Kinds of remote operations (R362, R428). -/
inductive OpKind where
  | load | store | atomic | copyRead | copySend | wmAdd
  deriving DecidableEq, Repr

/-- One attempt of a remote operation: its sequence and whether that is a multicast sequence, whether its packet has been
sent, and whether it has been answered or has timed out (R368, R441). -/
structure Attempt where
  seq : BitVec 24
  mcast : Bool
  sent : Bool
  answered : Bool
  timedOut : Bool
  deriving DecidableEq, Repr

/-- One lane's share of a load or a returning atomic: lane, first byte in the line and bytes, bits dropped from the low end,
bits kept, and their place in the element (R265, R266, R268). -/
structure LaneDest where
  lane : Fin 32
  byte : Nat
  size : Nat
  skip : Nat
  width : Nat
  pos : Nat
  deriving DecidableEq, Repr

/-- One remote operation that has not ended, or whose attempts are not all answered or timed out (R223, R368, R442). It is
placed once its address has been translated; first is the tick of its first attempt, instr the serial number of the first operation that its
instruction formed, srcFail tells that a copy's source refused it, and dark that its line is not sent, for its source holds a bad word (R327). -/
structure RemOp where
  serial : Nat := 0
  kind : OpKind
  issuer : Issuer
  snd : EpId
  part : PartId
  vc : BitVec 2 := 2
  tag : BitVec 8 := 0
  deadline : Option Nat := none
  addr : BitVec 48 := 0
  placed : Bool := false
  tgt : EpId := 0
  loc : Nat := 0
  ackBy : EpId := 0
  order : BitVec 3 := 0
  first : Option Nat := none
  opId : BitVec 48 := 0
  attempts : List Attempt := []
  last : BitVec 4 := 1
  typ : BitVec 4 := 0
  reg : BitVec 6 := 0
  dests : List LaneDest := []
  payload : Payload := .none
  block : Nat := 0
  slot : Nat := 0
  mcast : Bool := false
  instr : Nat := 0
  srcFail : Bool := false
  dark : Bool := false
  deriving DecidableEq, Repr

/-- One program of a bundle or kernel image: its header, where its instructions lie in the image, and the exact-sum windows that they
name (section 0x0003 of R547, R260). -/
structure Program where
  digest : BitVec 64
  split80 : Bool
  entry0 : Option Nat
  entry1 : Option Nat
  off : Nat
  count : Nat
  wins : List Nat
  deriving DecidableEq, Repr

/-- One declared output (section 0x0006 of R547). -/
structure OutputDecl where
  number : Nat
  isSealed : Bool
  publish : Bool
  first : Nat
  pages : Nat
  contrib : List Nat
  deriving DecidableEq, Repr

/-- One entry of the period table (section 0x0001 of R547). -/
structure PeriodEntry where
  start : Nat
  length : Nat
  work : Nat
  seed : BitVec 64
  set : Nat
  plan : Nat
  outs : Nat
  deriving DecidableEq, Repr

/-- One memory declaration (section 0x0007 of R547). -/
structure MemDecl where
  first : Nat
  count : Nat
  kind : Nat
  deriving DecidableEq, Repr

/-- A parsed bundle or kernel image (R546, R547). -/
structure Bundle where
  stks : BitVec 16 := 0
  mesh : Bool := false
  periods : List PeriodEntry := []
  sets : List (List Nat) := []
  progs : List Program := []
  tables : List (List (List Nat)) := []
  plans : List Byte := []
  outs : List (List OutputDecl) := []
  decls : List MemDecl := []
  windows : List (BitVec 64) := []
  imageFirst : Nat := 0
  imagePages : Nat := 0
  digest : List Byte := []
  deriving DecidableEq, Repr

/-- Where the completion record of a descriptor goes: submission ring and slot, completion ring, type (R543). -/
structure DescRef where
  ring : Nat
  slot : Nat
  cring : Nat
  typ : Nat
  deriving DecidableEq, Repr

/-- A bundle or kernel image that is being loaded, with the status and detail of the first check of its bytes that it fails
(R237, R548). -/
structure Loading where
  d : DescRef
  kernel : Bool
  host : Nat
  length : Nat
  first : Nat
  pages : Nat
  seed : BitVec 64 := 0
  limit : Nat := 0
  image : Bundle := {}
  verdict : Option (Nat × Nat) := none
  deriving DecidableEq, Repr

/-- A free-run kernel (R237). -/
structure Kernel where
  d : DescRef
  image : Bundle
  seed : BitVec 64
  limit : Nat
  launch : Option Nat := none
  fault : Option (Nat × Nat × Nat) := none
  deriving DecidableEq, Repr

/-- An accepted RUN_PERIODS: its entries of the period table, repetitions, how many periods of it have been noticed, and the
status and detail of those that will not start (R549, R556). -/
structure Run where
  d : DescRef
  base : Nat
  entries : List PeriodEntry
  repeats : Nat
  stride : Nat
  next : Nat := 0
  cut : Option (Nat × Nat) := none
  deriving DecidableEq, Repr

/-- Stages of a period (R552). -/
inductive PeriodStage where
  | noticed | running | ended
  deriving DecidableEq, Repr

/-- A core's report of its part of an output, at tick T_c (R551). -/
structure PartReport where
  out : Nat
  core : Nat
  tick : Nat
  deriving DecidableEq, Repr

/-- A cause for which a period drops: status, detail and core of R555, and the tick. -/
structure PFail where
  status : Nat
  detail : Nat
  core : Nat
  tick : Nat
  deriving DecidableEq, Repr

/-- The content of a completion record beside its phase (R543). -/
structure Compl where
  d : DescRef
  last : Bool
  status : Nat
  detail : Nat
  lowCap : Nat := 0
  value : Nat := 0
  core : Nat := 0xFFFF
  margin : Nat := 0
  tick : Nat := 0
  handle : BitVec 64 := 0
  deriving DecidableEq, Repr

/-- One period from its notice to its confirmation, quiet once its descriptor has been discarded (R537, R552). The four-bit fields hold one bit for each tile. -/
structure Period where
  no : Nat
  d : DescRef
  start : Nat
  deadline : Nat
  seed : BitVec 64
  set : Nat
  outs : List OutputDecl
  last : Bool
  digest : List Byte := []
  quiet : Bool := false
  stage : PeriodStage := .noticed
  reports : List PartReport := []
  fails : List PFail := []
  judged : BitVec 16 := 0
  incomplete : BitVec 16 := 0
  sentFail : List (EpId × Nat × Nat) := []
  failSeen : BitVec 4 := 0
  lossSeen : BitVec 4 := 0
  flipped : BitVec 4 := 0
  decided : BitVec 4 := 0
  confirmed : BitVec 4 := 0
  lowCap : Nat := 100
  compl : Option Compl := none
  deriving DecidableEq, Repr

/-- A fetched descriptor (R536, R538): serial number in fetch order, whether it has been accepted, and the
progress its type keeps. -/
structure Desc where
  serial : Nat
  d : DescRef
  bytes : List Byte
  accepted : Bool := false
  wait : Option Nat := none
  deriving DecidableEq, Repr

/-- A submission ring (R531, R532). -/
structure Ring where
  base : Nat := 0
  size : Nat := 0
  enabled : Bool := false
  fetch : BitVec 32 := 0
  tail : BitVec 32 := 0
  warnTick : Option Nat := none
  deriving DecidableEq, Repr

/-- A completion ring (R531, R532). -/
structure CRing where
  base : Nat := 0
  size : Nat := 0
  enabled : Bool := false
  moder : Nat := 0
  write : BitVec 32 := 0
  head : BitVec 32 := 0
  deriving DecidableEq, Repr

/-- A result seal kept for SEAL_FETCH (R555, R583). -/
structure Seal where
  period : Nat
  bytes : List Byte
  deriving DecidableEq, Repr

/-- A seal in progress: its period, the leaves and root when hashed, and the completion record that waits for it (R581). -/
structure Sealing where
  period : Nat
  pages : List (Nat × BitVec 64)
  digest : List Byte
  outs : BitVec 256
  hashed : Bool
  root : List Byte
  compl : Compl
  deriving DecidableEq, Repr

/-- One bind operation: its number, status, target pages, pages done, envelope ID, header digest, permitted digests, the weight key while the gateway
holds it, and whether it has ended (R576, R577). -/
structure Bind where
  no : Nat
  status : Nat
  first : Nat
  pages : Nat
  done : Nat
  id : List Byte
  digest : List Byte
  permitted : List (List Byte)
  key : List Byte
  addr : Nat := 0
  ended : Bool
  deriving DecidableEq, Repr

/-- One bound weight envelope (R577, R578). -/
structure Envelope where
  first : Nat
  pages : Nat
  digest : List Byte
  permitted : List (List Byte)
  deriving DecidableEq, Repr

/-- What the measurements of a partition showed before a change of this tick (R566): block and work state, serving port, locked fields, the
digest of the loaded bundle and those of the bound envelopes. -/
structure PartSnap where
  tick : Nat
  block : BlockState
  work : WorkState
  port : PortId
  fields : List Byte
  bundle : Option (List Byte)
  envs : List Byte
  deriving DecidableEq, Repr

/-- An HDM decoder (R516). -/
structure HdmDecoder where
  committed : Bool := false
  error : Bool := false
  base : BitVec 64 := 0
  size : BitVec 64 := 0
  skip : BitVec 64 := 0
  deriving DecidableEq, Repr

/-- A host-memory read in flight at a gateway: the packet it serves, the host address and its length, 0 for the zero-length
read that follows a store (R514). -/
structure HostRead where
  tag : Nat
  a : Arr
  p : Payload
  op : POp
  host : Nat
  len : Nat
  deriving DecidableEq, Repr

/-- An SPDM secure session (R563, R569). -/
structure Session where
  id : BitVec 32
  finished : Bool
  peer : Option PeerCert
  maintainer : Bool
  keyGen : Nat
  deriving DecidableEq, Repr

/-- Who offered a batch of page-map records: a descriptor, a page command, lost marking, a binding step, or the releases of an
abandoned or torn-down partition; or a page command that waits while base tile 0 is in reset (R348, R355, R356, R527, R641). -/
inductive BatchFrom where
  | desc (p : PartId) (d : DescRef)
  | page (p : PartId) (release : Bool) (last : Bool)
  | lost (k : Fin 8)
  | bound (p : PartId) (no : Nat)
  | auto (p : PartId) (last : Bool)
  | cmd (p : PartId) (release : Bool) (first count : Nat)
  deriving DecidableEq, Repr

/-- A batch of page-map records: records as page and entry, whether it is a publish flip, and its update tick once
accepted (R355, R356). -/
structure Batch where
  src : BatchFrom
  flip : Bool
  recs : List (Nat × BitVec 64)
  u : Option Nat := none
  deriving DecidableEq, Repr

/-- State of a frame in the loader's table (R348). -/
inductive FrameSt where
  | free | inUse | quarantined | lost
  deriving DecidableEq, Repr

/-- An entry of the recorder (R618). -/
structure RecEntry where
  tick : Nat
  seq : Nat
  code : BitVec 16
  sev : Fin 4
  flushed : Bool := false
  restored : Bool := false
  cls : BitVec 8
  num : Nat
  part : Option PartId
  detail : BitVec 96
  deriving DecidableEq, Repr

/-- A token bucket: its level in 10^-9 tokens, and the tick it was last filled at (R623). -/
structure Bucket where
  level : Nat
  at_ : Nat
  deriving DecidableEq, Repr

/-- One slot of the flash log: an entry, or the clear marker (R627). -/
inductive LogSlot where
  | entry (e : RecEntry)
  | marker
  deriving DecidableEq, Repr

/-- A firmware update in progress: its length, the size of its pieces, when the piece in progress was requested, and whether its slot has
passed the check (R572, R605, R606). -/
structure Update where
  length : Nat
  piece : Nat
  requested : Option Nat
  checked : Bool
  deriving DecidableEq, Repr

/-- One element out of service, with the start count of the start that found it (section 0x0008 of R179). -/
structure OosEntry where
  cls : BitVec 8
  num : Nat
  cause : BitVec 16
  start : Nat
  deriving DecidableEq, Repr

/-- One ML repair (section 0x0002 of R179). -/
structure RepairRec where
  stack : StackId
  region : RegionNo
  failed : Nat
  spare : Nat
  deriving DecidableEq, Repr

/-- One vertical spare choice (section 0x0003 of R179): a failed lane and the lane number of the spare that takes its place. -/
structure SpareRec where
  lane : VLane
  spare : Nat
  deriving DecidableEq, Repr

/-- The partner that a UCIe module expects, and its recorded repairs (section 0x0004 of R179, R498). -/
structure UcieRec where
  cls : Nat
  unit : Nat
  ident : BitVec 64
  tx : BitVec 16
  rx : BitVec 16
  deriving DecidableEq, Repr

/-- Photonic calibration of one endpoint: its laser's bias at the beginning of life, and the heater baselines of its rings, in pm from rest,
under twice the lane's key, plus one for a modulator (section 0x0005 of R179). -/
structure CalibRec where
  ep : EpId
  bias : Nat
  rings : KMap Int
  deriving DecidableEq, Repr

/-- Limits in mV and trim code of one rail, numbered 16 x its row of R99 + instance (section 0x0006 of R179). -/
structure TrimRec where
  rail : Nat
  low : Nat
  high : Nat
  code : Nat
  deriving DecidableEq, Repr

/-- One open site: its capability digest, P_site in W and VOPEN in mV (section 0x0007 of R179). -/
structure SiteRec where
  tile : TileId
  digest : List Byte
  psite : Nat
  mv : Nat
  deriving DecidableEq, Repr

/-- One entry of a section directory: type, offset, length and reserved word (R178). -/
structure DirRec where
  typ : Nat
  off : Nat
  len : Nat
  rsv : Nat
  deriving DecidableEq, Repr

/-- An assembly record or a field overlay: the header of R178, its directory, the sections that the directory names (R179), and the
signature. -/
structure FlashRec where
  magic : BitVec 32
  version : BitVec 16
  serial : BitVec 64
  part : BitVec 32
  length : Nat
  seq : Nat
  base : List Byte
  rsv : List Byte
  dir : List DirRec
  maps : List (BitVec 128)
  repairs : List RepairRec := []
  spares : List SpareRec := []
  ucie : List UcieRec := []
  calib : List CalibRec := []
  trims : List TrimRec := []
  sites : List SiteRec := []
  out : List OosEntry := []
  sig : List Byte
  deriving DecidableEq, Repr

/-- Bytes before the sections of a structure with n of them (R178). -/
def dirEnd (n : Nat) : Nat := 0x60 + 16 * n

/-- The UCIe modules and the classes of their partners on the plain part (R496). -/
def factoryUcie : List UcieRec :=
  (List.range 76).map fun u => { cls := if u % 19 < 16 then 1 else if u % 19 = 16 then 2 else 0, unit := u, ident := 0, tx := 0, rx := 0 }

/-- A record as Brodori's assembly test could have written it: physical clusters 0 to 95 of every CD mapped, no repair, every identity zero.
What a module's own record holds is not in the spec (DESIGN CHOICE, log 8). -/
def FlashRec.factory : FlashRec :=
  { magic := 0x4D524341, version := 1, serial := 0, part := 0, length := dirEnd 2 + 256 + 1216 + 96, seq := 0
    base := List.replicate 48 0, rsv := List.replicate 16 0
    dir := [⟨1, dirEnd 2, 256, 0⟩, ⟨4, dirEnd 2 + 256, 1216, 0⟩]
    maps := List.replicate 16 (BitVec.ofNat 128 (2 ^ 96 - 1)), ucie := factoryUcie, sig := List.replicate 96 0 }

/-- What the module sends (log 4): packets on links, markers, Causeway records and lease renewals, flits on UCIe modules and the packets taken from
them, requests to host memory with their Relaxed Ordering attribute (R514), CXL.mem and configuration completions, MSI-X messages, sideband and mailbox responses, in-band interrupts, firmware-data requests. -/
inductive Output where
  | packet (snd rcv : EpId) (op : POp) (h : Hdr) (p : Payload)
  | marker (snd rcv : EpId) (p : PlaneNo) (w : BitVec 170)
  | causeway (e : EpId) (w : BitVec 512)
  | lease (h : Fin 2) (echo : Bool) (g : GroupNo) (gen ex : Nat)
  | hostWrite (t : PortId) (addr : Nat) (data : List Byte) (relaxed : Bool := false)
  | hostRead (t : PortId) (addr : Nat) (len : Nat) (relaxed : Bool := false)
  | lineRead (t : PortId) (p : PartId) (line : Fin 8)
  | msix (t : PortId) (vector : Nat)
  | cfg (t : PortId) (value : Option (BitVec 32))
  | memData (t : PortId) (tag : Nat) (data : List Byte) (poison : Bool)
  | memDone (t : PortId) (tag : Nat)
  | siteReply (t : TileId) (tag : Nat) (status : BitVec 4) (data : List Byte)
  | flit (u : Nat) (bytes : List Byte)
  | uciePacket (u : Nat) (bytes : List Byte)
  | cdat (t : PortId) (data : List Byte)
  | spdm (x : Transport) (code : BitVec 8) (body : List Byte)
  | mctp (cmd : BitVec 8) (body : List Byte)
  | pldm (typ cmd : BitVec 8) (cc : BitVec 8) (body : List Byte)
  | vendor (bytes : List Byte)
  | ibi (code : BitVec 8)
  | jtag (dr : BitVec 32)
  deriving DecidableEq, Repr

/-- One of the two convoys of a core (32 lanes in lockstep) (R205). -/
structure Convoy where
  /-- Thread registers v0 to v63 (R205, R214). -/
  v : KMap (BitVec 32) := []
  /-- Uniform registers s0 to s31 (R205, R215). -/
  s : KMap (BitVec 64) := []
  /-- Predicate registers p0 to p6, one lane mask each (R205, R215). -/
  p : KMap (BitVec 32) := []
  /-- Predicate stack (R205, R212, R234). -/
  stack : List (BitVec 32) := []
  /-- Sticky flags (R242, R234). -/
  flags : BitVec 16 := 0
  /-- Stochastic-rounding generators, one per lane (R287). -/
  gens : KMap (BitVec 64) := []
  /-- Program counter, from 0 at the start of the loaded program (R247). -/
  pc : Nat := 0
  /-- Run state (R234). -/
  run : CvRun := .idle
  /-- Flags that the module set at tick freshAt (R18). -/
  fresh : BitVec 16 := 0
  /-- Tick of those flags (R18). -/
  freshAt : Nat := 0
  /-- When and where the slice or pool access in progress stalled (R196, R331, R337). -/
  stall : Option (Nat × Nat) := none
  /-- The stalled access that a handover's step 4 has granted (R324, R337). -/
  granted : Option Nat := none
  /-- The convoy was started by the kernel or period that runs (it had an entry point) (R237, R245). -/
  started : Bool := false
  deriving DecidableEq, Repr

/-- One descriptor of a core's copy queue and the copy made from it (R224, 07 R269). -/
structure CopyDesc where
  /-- The model's own name for the copy (R224). -/
  id : Nat := 0
  /-- Issuing convoy (R224). -/
  h : Fin 2 := 0
  /-- Source partition address (R269). -/
  src : Nat := 0
  /-- Destination partition address (R269). -/
  dst : Nat := 0
  /-- Length in bytes (R269). -/
  len : Nat := 0
  /-- Destination stacks of a COPY.MC, 0 for COPY (R269). -/
  mask : BitVec 16 := 0
  /-- Destination waymark (R269). -/
  dstWm : BitVec 6 := 0
  /-- Source waymark where named (R269). -/
  srcWm : Option (BitVec 6) := none
  /-- Next byte to request (R224). -/
  pos : Nat := 0
  /-- Partition of the issuing core (R359). -/
  part : Nat := 0
  /-- Period tag of the copy's packets (R453). -/
  tag : BitVec 8 := 0
  /-- Block accounting (R370). -/
  left : KMap Nat := []
  /-- Destinations that ended with a final status other than OK (R456). -/
  failedMask : BitVec 32 := 0
  /-- The copy stopped (R371). -/
  stopped : Bool := false
  /-- Queue slot of the descriptor (R456). -/
  slot : Nat := 0
  /-- The versioned page that the copy has translated, and its entry (R352). -/
  version : Option (Nat × BitVec 64) := none
  /-- Tick from which the engine's access to the source waits (R324, R334). -/
  wait : Option Nat := none
  /-- A block's waymark signal ended with a status other than OK (R225). -/
  wmLost : Bool := false
  /-- The source lies in the issuing core's own slice or cluster pool (R224). -/
  srcOwn : Bool := false
  deriving DecidableEq, Repr

/-- One core (R205). -/
structure Core where
  /-- Convoy 0 (R205). -/
  c0 : Convoy := {}
  /-- Convoy 1 (R205). -/
  c1 : Convoy := {}
  /-- Accumulator tiles m0 to m7 (R205). -/
  tiles : KMap (BitVec 32) := []
  /-- Tile split, true for 8/0 (R218, R234). -/
  split80 : Bool := false
  /-- Waymark file w0 to w63 (R205, R226). -/
  wm : KMap (BitVec 32) := []
  /-- Copy queue, oldest first (R205, R224). -/
  queue : List CopyDesc := []
  /-- Copies in flight that have left the queue (R224, R370). -/
  flying : List CopyDesc := []
  /-- OUT.DONE reports that wait for earlier operations and copies (R551). -/
  outs : List (Fin 2 × Nat × Nat) := []
  /-- Instruction bank A (R205, R228). -/
  bankA : List (BitVec 64) := []
  /-- Instruction bank B (R205, R228). -/
  bankB : List (BitVec 64) := []
  /-- Active bank (R228). -/
  active : Fin 2 := 0
  /-- Digest of the program in each bank (R547). -/
  digest : KMap (BitVec 64) := []
  /-- The next period's program is fully loaded (or equals the active one) (R228, R229). -/
  nextLoaded : Bool := false
  deriving DecidableEq, Repr

/-- One cluster barrier (R234). -/
structure Barrier where
  /-- Participants (R234). -/
  participants : BitVec 6 := 0
  /-- Arrived (R234). -/
  arrived : BitVec 6 := 0
  /-- Generation (R234). -/
  generation : BitVec 8 := 0
  deriving DecidableEq, Repr

/-- Ownership of one slice (R234, 09 R324). -/
structure SliceOwner where
  /-- Owner (R234). -/
  owner : BitVec 2 := 0
  /-- Handovers (R234). -/
  handovers : BitVec 8 := 0
  /-- New owner of the handover in progress (R324). -/
  target : Option (BitVec 2) := none
  /-- Further handovers (R326). -/
  nextTarget : List (BitVec 2) := []
  /-- Tick of the last handover, where the next one followed it at once: what the owner had waiting then is still granted (R324, R326). -/
  grace : Option Nat := none
  deriving DecidableEq, Repr

/-- One logical cluster (R233). -/
structure Cluster where
  /-- Mode of CLUSTER_RUN (R234). -/
  mode : BitVec 4 := 0
  /-- Running period number (R234, R550). -/
  period : Nat := 0
  /-- PERIOD_START (R234). -/
  start : Nat := 0
  /-- PERIOD_DEADLINE (R234). -/
  deadline : Nat := 0
  /-- Tag of the running period's traffic (R453). -/
  tag : BitVec 8 := 0
  /-- Number of the last period that ended here (R552). -/
  done : Nat := 0
  /-- BARRIER0 to BARRIER3 (R234). -/
  barriers : KMap Barrier := []
  /-- SLICE_OWNER0 to SLICE_OWNER15 (R234). -/
  owners : KMap SliceOwner := []
  /-- Cluster Milestone copy minus the master count (R137, R143). -/
  msDelta : Int := 0
  /-- Ticks that the cluster copy still has to gain (or to hold, when negative) (R143). -/
  msCorr : Int := 0
  /-- The cluster copy has been loaded (R137). -/
  msLoaded : Bool := false
  deriving DecidableEq, Repr

/-- One compute region and the ML region beneath it (physical cluster) (R134, R136). -/
structure Region where
  /-- Sleep depth (R167). -/
  depth : SleepDepth := .awake
  /-- An arrival came during the power-off ramp (R170). -/
  arrived : Bool := false
  /-- The region runs on the fallback mesh (R162, R163). -/
  onMesh : Bool := false
  /-- Highest allowed frequency (R156). -/
  maxMhz : Nat := 2100
  /-- Frequency of the oscillator (R153, R154). -/
  mhz : Nat := 1800
  /-- Supply set for the region (R154, R162, R167). -/
  vcd : Nat := 600
  /-- Cycles of every 64 in which instructions issue (R115). -/
  issueN : Nat := 64
  /-- Tick at which the region last had work or traffic (R167, R170). -/
  lastUse : Nat := 0
  /-- Tick at which the region's clock stopped (R167). -/
  stopAt : Nat := 0
  /-- Crossing FIFO from the fixed-domain logic into the region (R160). -/
  rx : Fifo := {}
  /-- Crossing FIFO from the region to the fixed-domain logic (R160). -/
  tx : Fifo := {}
  /-- Last replica-path margin (R156). -/
  margin : Int := 0
  /-- Clock and VCD of that margin (R156). -/
  marginAt : Nat × Nat := (0, 0)
  /-- The oscillator is stretching cycles (R155). -/
  stretching : Bool := false
  /-- The cluster failed its self-test at this start (R183). -/
  testFailed : Bool := false
  /-- Corrected words of the ML region (R314, R616). -/
  mlErrors : Nat := 0
  /-- ML row repairs in force (R335, R179). -/
  repairs : List (Nat × Nat) := []
  /-- Spare rows that failed (R335). -/
  badSpares : List Nat := []
  /-- The region is unrepairable (R336). -/
  unrepairable : Bool := false
  /-- The below 100 % event has been recorded (R120). -/
  throttle100 : Bool := false
  /-- The below 84 % event has been recorded (R120). -/
  throttle84 : Bool := false
  /-- As throttle100 for the ML region (R120). -/
  mlThrottle100 : Bool := false
  /-- As throttle84 for the ML region (R120). -/
  mlThrottle84 : Bool := false
  /-- Its banks are under a clear (R329, R331). -/
  clearing : Bool := false
  /-- DMA buffers of the slices: data that has arrived and waits for the port (R318). -/
  dma : KMap (List HeldPkt) := []
  /-- A group of its vertical bundle is unrepairable (R493). -/
  vBad : Bool := false
  /-- Its vertical links failed the check at a wake (R494). -/
  wakeFailed : Bool := false
  deriving DecidableEq, Repr

/-- One stack s (CD, ML and stack endpoint) (R26). -/
structure Stack where
  /-- Out of service until the next start (R185, R186). -/
  oos : Bool := false
  /-- CD isolated or in reset (R191, R192). -/
  cdLost : Bool := false
  /-- ML isolated or in reset (R191, R196). -/
  mlLost : Bool := false
  /-- Mapped physical clusters (R179, R184). -/
  cmap : BitVec 100 := 0
  /-- CD power cap (R103). -/
  cdCap : Nat := 100
  /-- Input-derived cap (R104). -/
  inCap : Nat := 100
  /-- Last VCD power sample (R103). -/
  cdMw : Nat := 0
  /-- Lowest cap since the previous health report (R616). -/
  lowCap : Nat := 100
  /-- March running on the ML (R333). -/
  marching : Option Bool := none
  /-- Tick at which the march began: a row of every bank is under test for each 172 ticks from it (R334). -/
  marchAt : Nat := 0
  /-- Rows repaired by the march in progress (R543). -/
  marchBuf : Nat := 0
  /-- The CD's mesh clock has failed: its regions have no fallback (R163). -/
  meshLost : Bool := false
  deriving DecidableEq, Repr

/-- One fabric endpoint (R30). -/
structure EpState where
  /-- Endpoint in service (R410, R637). -/
  inService : Bool := false
  /-- Isolated or in reset (R191). -/
  isolated : Bool := false
  /-- Milestone copy loaded (R145). -/
  synced : Bool := false
  /-- Endpoint copy minus master count (R137, R142). -/
  delta : Int := 0
  /-- Ticks that the copy still has to gain (or to hold, when negative) (R142). -/
  corr : Int := 0
  /-- Measured one-way delay from hub 28 (R141). -/
  delay : Option Nat := none
  /-- Tick of the last sync (R146). -/
  lastSync : Nat := 0
  /-- The holdover warning was recorded (R146). -/
  holdWarned : Bool := false
  /-- Peers this endpoint holds lost (R199). -/
  lost : BitVec 32 := 0
  /-- Tick of the last beacon of each peer (R199). -/
  lastBeacon : KMap Nat := []
  /-- Link epoch, in the always-on island (R417). -/
  epoch : BitVec 8 := 0
  /-- Route epoch (R444). -/
  routeEpoch : Bool := false
  /-- Tick of the last route flip (R446). -/
  flipTick : Nat := 0
  /-- Markers not yet acknowledged: the old bank is not idle (R446). -/
  drainWait : List (Nat × Nat × Option (BitVec 24)) := []
  /-- Signpost bank 0 (R443, R444). -/
  bankA : KMap (BitVec 64) := []
  /-- Signpost bank 1 (R443, R444). -/
  bankB : KMap (BitVec 64) := []
  /-- A route change waits for the old bank (R446). -/
  routeWaits : Bool := false
  /-- Accepted epoch E(o) (R444, R447). -/
  accEpoch : KMap Bool := []
  /-- Discarding after a flip without its marker (R447). -/
  discarding : KMap Bool := []
  /-- Held packets, oldest first (R447). -/
  held : List HeldPkt := []
  /-- Usable outbound link mask last reported by each hub (R445). -/
  hubMask : KMap (BitVec 32) := []
  /-- Hubs reachable on the hub ring last reported by each hub (R445, R428). -/
  hubRing : KMap (BitVec 8) := []
  /-- Next multicast sequence (R441). -/
  mseq : Nat := 0
  /-- Operation ID counter (R366). -/
  opCtr : Nat := 0
  /-- Partial-delivery records (R456). -/
  partials : List (List (BitVec 8)) := []
  /-- Uncorrectable codewords received on each inbound link (R403, R616). -/
  lostCw : KMap Nat := []
  /-- Discards by the checks of R452 (R452, R616). -/
  discards : KMap Nat := []
  /-- Path-switch driver settings (R462). -/
  drivers : BitVec 4 := 0
  /-- Highest token generation seen (R474). -/
  genSeen : KMap Nat := []
  /-- Accepted switchovers (kind 0xA) (R474, R479). -/
  pends : List Switch := []
  /-- Controller B is active (R466). -/
  ctlB : Bool := false
  /-- Failed controllers (R470). -/
  ctlDead : BitVec 2 := 0
  /-- The standby copy is valid (R469). -/
  standbyOk : Bool := false
  /-- Record count of the last Causeway record that the standby received (R467). -/
  cwRx : Option Nat := none
  /-- Record count of the last Causeway record sent (R467). -/
  cwTx : Nat := 0
  /-- Next item of the image that the standby is being sent (R469). -/
  cwPos : Option Nat := none
  /-- Record that carried the last item of the image (R469). -/
  cwDone : Nat := 0
  /-- Operations whose scoreboard clear waits in the Causeway queue (R469). -/
  cwEnded : List RemOp := []
  /-- Packets whose allotment's record is still to go (R469). -/
  leaving : List Leaving := []
  /-- State held by the standby controller (R468, R469). -/
  cwImage : CwCopy := {}
  /-- Changes waiting in the Causeway queue (six leave at each tick) (R468, R469). -/
  cwQueue : List CwSlot := []
  /-- Failed standby-path probes (R465). -/
  probeFail : BitVec 32 := 0
  /-- Planes whose path has not yet shown 1 s of clean probes since the switchover that left it (R482). -/
  probeNew : BitVec 32 := 0
  /-- Consecutive clean readings of a failed or newly left plane (R465, R482). -/
  probeClean : KMap Nat := []
  /-- Probe reading at the start-up test (R465). -/
  probeRef : KMap Int := []
  /-- Laser warning recorded (R384). -/
  laserWarned : Bool := false
  /-- Laser end of life recorded (R384). -/
  laserEol : Bool := false
  /-- Accepted period tags (R453). -/
  tags : KMap TagPair := []
  /-- ACK state toward each origin (R429). -/
  acks : KMap AckState := []
  /-- Groups that train no link until a state record has set their driver (R462). -/
  waits : BitVec 4 := 0
  /-- Link epoch in the last beacon of each endpoint (R479). -/
  beacons : KMap (BitVec 8) := []
  /-- Send queue, oldest first (R432). -/
  outbox : List TxEntry := []
  /-- VC 0 credits in use (R431). -/
  sentCredits : KMap Nat := []
  /-- Hub transit space in use (R436). -/
  transit : KMap Nat := []
  /-- Transit blocks returned (R429). -/
  transitRet : KMap Nat := []
  /-- Waymark replay table (stack endpoints) (R457). -/
  wmReplay : List Replay := []
  /-- Stalled accesses, oldest first (R324, R331, R582). -/
  stalled : List HeldPkt := []
  /-- VC 0 credits to return (R431). -/
  credOwed : KMap Nat := []
  /-- Tick of the oldest VC 0 credit to return (R431). -/
  credSince : KMap Nat := []
  /-- Page-map records delivered and not yet in effect (R428). -/
  mapRecs : List (Nat × Nat × BitVec 64) := []
  /-- Page-map cache (R360). -/
  cache : List (Nat × BitVec 64) := []
  deriving DecidableEq, Repr

/-- One memory port die (R32). -/
structure PortDie where
  /-- Isolated or in reset (R191, R198). -/
  lost : Bool := false
  /-- Self-refresh of its two HBM3 stacks (R340). -/
  selfRef : BitVec 2 := 3
  /-- Stacks trained and in service (R173, R186). -/
  trained : BitVec 2 := 0
  /-- Last access (R340). -/
  lastAccess : KMap Nat := []
  /-- Replay table (R367, R198). -/
  replay : List Replay := []
  /-- Waiting atomics (R367). -/
  full : List WaitAtomic := []
  /-- Tick of the last reset of the die (R198). -/
  resetAt : Option Nat := none
  /-- Raised refresh rate (R117). -/
  temp : BitVec 2 := 0
  /-- Access cap (R117). -/
  hbmCap : KMap Nat := []
  /-- Corrected words since start (R372, R616). -/
  eccCount : KMap Nat := []
  deriving DecidableEq, Repr

/-- One ordered pair link i to j (R380). -/
structure Link where
  /-- Past step 5 of R420 (R420). -/
  trained : Bool := false
  /-- Mask in force (R408). -/
  mask : BitVec 32 := 0
  /-- Decision tick of the mask in force (R416). -/
  decTick : Nat := 0
  /-- Width code (R400, R638). -/
  width : BitVec 3 := 7
  /-- Quiet: only marker codewords (R405). -/
  quiet : Bool := false
  /-- Usable lanes of the decision in force: the receiver's and the sender's together (R418). -/
  agreed : BitVec 32 := 0
  /-- The sender's usable transmit mask as the receiver knows it (R418). -/
  usableSnd : BitVec 32 := 0
  /-- Sender epoch the receiver decided for (R420). -/
  sndEpoch : BitVec 8 := 0
  /-- The receiver has a decision for this training (R420). -/
  seen : Bool := false
  /-- Group left out for a switchover (R480). -/
  excluded : BitVec 4 := 0
  /-- Marker count (R400). -/
  markers : Nat := 0
  /-- Next sequence from i to j (R441). -/
  seq : Nat := 0
  /-- VC 1 window toward j (R434). -/
  win1 : Nat := 0
  /-- VC 2 window toward j (R434). -/
  win2 : Nat := 0
  /-- VC 1 returned counter last taken at i from j (R429). -/
  ret1 : Nat := 0
  /-- VC 2 returned counter last taken at i from j (R429). -/
  ret2 : Nat := 0
  /-- VC 1 blocks sent from i to j in all (R437). -/
  sent1 : Nat := 0
  /-- VC 2 blocks sent from i to j in all (R437). -/
  sent2 : Nat := 0
  /-- Transit space in use at hub j by origin i (R436). -/
  tw : Nat := 0
  /-- Transit returned counter last taken at i from hub j (R429). -/
  twRet : Nat := 0
  /-- Transit blocks sent from i through hub j in all (R437). -/
  twSent : Nat := 0
  /-- Open transit audit at hub j (R437). -/
  auditT : Option (Nat × Nat) := none
  /-- Audit number (R437). -/
  auditNo : Nat := 0
  /-- Open VC 1 audit (R437). -/
  audit1 : Option (Nat × Nat) := none
  /-- Open VC 2 audit (R437). -/
  audit2 : Option (Nat × Nat) := none
  /-- Ticks from which the 1 ms of the next audit counts (R437). -/
  auditTick : Nat × Nat := (0, 0)
  /-- Last training repeat (R420). -/
  repTick : Nat := 0
  /-- Tick of the last packet put on the link (R405). -/
  lastPkt : Nat := 0
  /-- The receiver discards the link's codewords, for a marker of another epoch has come (R420). -/
  stale : Bool := false
  /-- Tick of the receiver's last decision (R418). -/
  decSent : Option Nat := none
  /-- When the next marker block begins (R400, R402). -/
  nextMark : Nat := 0
  deriving DecidableEq, Repr

/-- One lane (sender, receiver, plane) (R380, R411). -/
structure Lane where
  /-- Unusable on path A, with its cause of R478 (R410, R650). -/
  failA : Option (BitVec 8) := none
  /-- Unusable on path B (R410, R650). -/
  failB : Option (BitVec 8) := none
  /-- Unusable on both paths for a ring (R410, R650). -/
  ring : Option (BitVec 8) := none
  /-- Did not pass the start-up test on path A, B (R463). -/
  startBad : BitVec 2 := 0
  /-- History within the last hour, in the always-on island (R415). -/
  fails : List Nat := []
  /-- Return tests failed (R414). -/
  tests : Nat := 0
  /-- Unusable until the next start (R415). -/
  held : Bool := false
  /-- Return test in progress (R414). -/
  testing : Bool := false
  /-- Tick of the failure or of the previous test (R414). -/
  lastTest : Nat := 0
  /-- Margin warning of this start recorded (R389). -/
  warned : Bool := false
  /-- Last margin reading (R388, R391). -/
  margin : Int := 300
  /-- Rings parked (R394). -/
  parked : BitVec 2 := 0
  /-- Rings that the sequencer relocks (R395). -/
  relocking : BitVec 2 := 0
  /-- The sender knows the modulator ring failed or unlocked (R418). -/
  modBad : Bool := false
  /-- A reset of an end, or a failure, since the lane last passed its test (R420). -/
  untested : Bool := false
  /-- Corrected symbols received on the lane (R403, R616). -/
  corrected : Nat := 0
  /-- Heater powers of the last lock points (R393). -/
  lockAt : Nat × Nat := (0, 0)
  /-- Heater settings (R394, R397). -/
  heat : Nat × Nat := (0, 0)
  /-- Midway between the two dips nearest the line in the last sweep (R394). -/
  mid : Nat × Nat := (0, 0)
  /-- Consecutive valid markers of a group in switchover (R480). -/
  run : Nat := 0
  deriving DecidableEq, Repr

/-- One partition block, and the work of the partition once committed (R522, R523). -/
structure Part where
  /-- Block state (R522, R639). -/
  block : BlockState := .free
  /-- Commit status (R640). -/
  commitSt : BitVec 8 := 0
  /-- Work state (R201, R639). -/
  work : WorkState := .idle
  /-- Heartbeat cause (R201). -/
  cause : BitVec 8 := 0
  /-- PART_SHAPE (R641). -/
  shape : BitVec 64 := 0
  /-- PART_TIMING (R641). -/
  timing : BitVec 64 := 0x0000001400000006
  /-- PART_SHARES (R641). -/
  shares : BitVec 64 := 0
  /-- PART_WINDOW_BASE (R642). -/
  winBase : BitVec 64 := 0
  /-- PART_WINDOW_SIZE (R642). -/
  winSize : BitVec 64 := 0
  /-- PART_HEARTBEAT (R642). -/
  heartbeat : BitVec 64 := 0
  /-- PART_RING_TABLE (R642). -/
  ringTable : BitVec 64 := 0
  /-- PART_DOORBELL (R642). -/
  doorbell : BitVec 64 := 0
  /-- PART_IRQ_ENABLE (R642). -/
  irq : BitVec 64 := 0
  /-- PAGE_STATUS Status (R642). -/
  pageSt : BitVec 4 := 0
  /-- PAGE_STATUS Pages applied (R642). -/
  pageApplied : Nat := 0
  /-- Refusal shown while another command runs (R643). -/
  pageRefused : Option (BitVec 4) := none
  /-- Abandon waits for the running page command (R646). -/
  abandoning : Bool := false
  /-- Teardown step (R527). -/
  tearStep : Nat := 0
  /-- Heartbeat Sequence (R201). -/
  hbSeq : Nat := 0
  /-- Tick of the next heartbeat (R201). -/
  hbNext : Nat := 0
  /-- Lowest cap since the previous heartbeat (R201, R119). -/
  hbCap : Nat := 100
  /-- Last commit (R201). -/
  lastCommit : Nat := 0
  /-- Submission rings (R531, R532). -/
  rings : KMap Ring := []
  /-- Completion rings (R531, R532). -/
  crings : KMap CRing := []
  /-- Values last read from the doorbell lines (R533, R534). -/
  lines : KMap (List (BitVec 64)) := []
  /-- Doorbell lines held Shared (R513). -/
  heldLines : BitVec 8 := 0
  /-- Lines invalidated and not yet read again (R534). -/
  lostLines : BitVec 8 := 0
  /-- The next read of the lines sets the fetch and write counts (R537). -/
  resync : Bool := false
  /-- Submission ring of the last run fetched (R536). -/
  lastRing : Nat := 63
  /-- Scheduled wake (R534). -/
  wakeAt : Option Nat := none
  /-- Tick of the previous wake (R534). -/
  lastWake : Nat := 0
  /-- Fetched descriptors not yet complete, in fetch order (R536, R540). -/
  descs : List Desc := []
  /-- Completion records waiting for room (R543). -/
  compl : List Compl := []
  /-- Bundle or kernel image being loaded (R548). -/
  loading : Option Loading := none
  /-- Loaded bundle (R546, R548). -/
  bundle : Option Bundle := none
  /-- Accepted RUN_PERIODS not complete (R549). -/
  runs : List Run := []
  /-- Periods in progress, oldest first (R552). -/
  periods : List Period := []
  /-- Number of the next period (R550). -/
  nextNo : Nat := 1
  /-- First tick at which a period may start after the last one that started (R549). -/
  gapEnd : Nat := 0
  /-- STOPs accepted and not complete (R556). -/
  stopping : List (DescRef × Bool) := []
  /-- Free-run kernel (R237). -/
  kernel : Option Kernel := none
  /-- Result seals kept (R555, R583). -/
  seals : List Seal := []
  /-- Seals being hashed or signed (R581). -/
  sealing : List Sealing := []
  /-- Binds, running and ended (R576, R577). -/
  binds : List Bind := []
  /-- Bound envelopes (R576, R577). -/
  envelopes : List Envelope := []
  /-- Timeout in force (the locked field) (R368). -/
  timeoutUs : Nat := 20
  /-- A region of the partition is on the mesh, so only 1.20 GHz bundles are admitted (R166). -/
  mesh : Bool := false
  /-- What its measurements showed before a change of this tick (R566). -/
  before : Option PartSnap := none
  deriving DecidableEq, Repr

/-- SPDM connection of one transport (R563). -/
structure Spdm where
  /-- Connection state (R562, R568). -/
  state : Nat := 0
  /-- Secure sessions (R563). -/
  sessions : List Session := []
  deriving DecidableEq, Repr

/-- One CXL port and its gateway (R506). -/
structure Port where
  /-- CXL link up (R511). -/
  linkUp : Bool := false
  /-- PERST_N deasserted (R53, R54). -/
  perstHigh : Bool := false
  /-- REFCLK present (R53). -/
  refclk : Bool := true
  /-- Gateway power-stable (R55). -/
  powerStable : Bool := false
  /-- Training waits for power-stable (R56). -/
  trainPending : Bool := false
  /-- Transmitters held in electrical idle until REFCLK appears (R57). -/
  idleNoClk : Bool := false
  /-- REFCLK warning recorded (R57). -/
  clkWarned : Bool := false
  /-- Link training has begun (R56). -/
  training : Bool := false
  /-- Its port serves no partition at this start (R186). -/
  oos : Bool := false
  /-- The HG is isolated or in reset (R191). -/
  isolated : Bool := false
  /-- Its UCIe link is down with the reset-notice asserted (R500). -/
  detached : Bool := false
  /-- D3hot (R512). -/
  d3 : Bool := false
  /-- Lanes of the CXL link (R638). -/
  cxlWidth : Nat := 0
  /-- GT/s of the CXL link (R638). -/
  cxlRate : Nat := 0
  /-- IDE state (R638, R587). -/
  ide : BitVec 2 := 0
  /-- IDE keys (R586). -/
  ideKeys : List (BitVec 8) := []
  /-- HDM decoders (R516). -/
  decoders : KMap HdmDecoder := []
  /-- BAR programming (R509). -/
  bars : KMap (BitVec 64) := []
  /-- Configuration space (R507, R510). -/
  cfg : KMap (BitVec 32) := []
  /-- LINK_SELECT (R638). -/
  linkSel : BitVec 64 := 0
  /-- Last warning of a refused read of the port (R517). -/
  poisonTick : Option Nat := none
  /-- Last warning of a discarded write of the port (R517). -/
  discardTick : Option Nat := none
  /-- Last ignored-write warning of the port (R520). -/
  refuseTick : Option Nat := none
  /-- Host-memory reads waiting for their completion (R514). -/
  pendingReads : List HostRead := []
  /-- Earliest tick of the next message of a vector (R545). -/
  msixNext : KMap Nat := []
  /-- Vectors with a message waiting (R545). -/
  msixPend : List Nat := []
  /-- MSI-X table of BAR4 (R508, R509). -/
  msixTable : KMap (BitVec 128) := []
  /-- SPDM state (R563). -/
  doe : Spdm := {}
  deriving DecidableEq, Repr

/-- Page-map loader, page map and frame table (R344, R348). -/
structure HbmDie where
  /-- Page-map replica of tile 0 (R344, R173). -/
  rep0 : KMap (BitVec 64) := []
  /-- Page-map replica of tile 1 (R344). -/
  rep1 : KMap (BitVec 64) := []
  /-- Page-map replica of tile 2 (R344). -/
  rep2 : KMap (BitVec 64) := []
  /-- Page-map replica of tile 3 (R344). -/
  rep3 : KMap (BitVec 64) := []
  /-- Replica in reset or being copied (R190). -/
  repDown : BitVec 4 := 0
  /-- Bound-page bitmap (all tiles alike) (R578). -/
  bound : KMap Bool := []
  /-- Frame table: state of each frame (R348). -/
  frames : KMap FrameSt := []
  /-- Frame table: layout of each group (R348). -/
  layouts : KMap (BitVec 2) := []
  /-- Quarantined frames (R358). -/
  quar : List (Nat × Nat × BitVec 2) := []
  /-- Batches waiting, in the order offered (R356). -/
  waiting : List Batch := []
  /-- Accepted batches, oldest first (R356). -/
  accepted : List Batch := []
  /-- Tick of the last acceptance (R356). -/
  lastAccept : Option Nat := none
  /-- The frame table is being rebuilt (R348). -/
  rebuilding : Bool := false
  /-- Page-map copy into this tile runs (R190). -/
  copying : BitVec 4 := 0
  deriving DecidableEq, Repr

/-- One fabric path steward (R472). -/
structure Steward where
  /-- In service (R482). -/
  up : Bool := false
  /-- Tokens held (R473). -/
  holds : BitVec 4 := 0
  /-- Token generation (R473, R651). -/
  gen : KMap Nat := []
  /-- Holder: E of its latest echoed renewal (R473). -/
  leaseE : KMap Nat := []
  /-- Holder: E of its latest renewal (R473). -/
  sentE : KMap Nat := []
  /-- Standby: latest E received (R473). -/
  heardE : KMap Nat := []
  /-- Renewals seen since the partner was declared lost (R651). -/
  heard : BitVec 4 := 0
  /-- Switchovers decided or copied (R472, R477). -/
  pend : List Switch := []
  /-- Switchover copied and echoed (R477). -/
  echoed : BitVec 4 := 0
  /-- Endpoints that have accepted (R479). -/
  accepted : KMap (BitVec 32) := []
  /-- Path of every group (R472). -/
  paths : BitVec 4 := 0
  /-- Lanes counted unusable on path A (R463, R472). -/
  badA : List LaneId := []
  /-- Lanes counted unusable on path B (R463, R472). -/
  badB : List LaneId := []
  /-- Lanes that did not pass the start-up test on path A (R463, R472). -/
  startA : List LaneId := []
  /-- Lanes that did not pass the start-up test on path B (R463, R472). -/
  startB : List LaneId := []
  /-- Lanes counted unusable on both paths for a ring (R463, R472). -/
  rings : List LaneId := []
  /-- Sideband commands that wait for the T of a switchover (R476). -/
  asked : List (Nat × BitVec 16) := []
  /-- Fault reports (R475). -/
  reports : List FaultRep := []
  /-- Standby: an E has been received for the group (R473). -/
  known : BitVec 4 := 0
  /-- Returned from its hub's reset and has taken no token since (R482, R651). -/
  returned : Bool := false
  /-- Failed standby probes (R463, R465). -/
  probes : List Nat := []
  /-- Tick at which the other steward's hub was declared lost (R473, R651). -/
  partnerLost : Option Nat := none
  /-- Tick of the last renewals (R473). -/
  lastRenew : Nat := 0
  deriving DecidableEq, Repr

/-- The event recorder (R618). -/
structure Recorder where
  /-- Entries held, in sequence order (R618). -/
  entries : List RecEntry := []
  /-- Sequence of the newest entry offered (R618). -/
  seq : Nat := 0
  /-- Token buckets (R623). -/
  buckets : KMap Bucket := []
  /-- The bucket of every code not listed (R623). -/
  idle : Bucket := { level := 64000000000, at_ := 0 }
  /-- Suppression counts (R623). -/
  suppressed : KMap Nat := []
  /-- RECORDER_LIMIT Rate (R634). -/
  rate : Nat := 16
  /-- RECORDER_LIMIT Burst (R634). -/
  burst : Nat := 64
  /-- Freeze (R624). -/
  frozen : Bool := false
  /-- Tick of the last read of the freeze (R624). -/
  freezeTick : Nat := 0
  /-- Holding queue (R625). -/
  hold : List RecEntry := []
  /-- Entries dropped (R616). -/
  dropped : Nat := 0
  /-- Entries suppressed (R616). -/
  suppTotal : Nat := 0
  /-- Holding-queue drops (R616). -/
  holdDrops : Nat := 0
  /-- Flushes (R616). -/
  flushes : Nat := 0
  /-- Failed flushes (R616). -/
  failed : Nat := 0
  /-- Entries of the flash write in progress (R627). -/
  flashing : List RecEntry := []
  /-- Fatal entries waiting to be written (R627). -/
  fatalQ : List RecEntry := []
  /-- The entry of a clear whose marker is not yet written (R626, R629). -/
  clearQ : Option RecEntry := none
  /-- Flash log, oldest first (R627). -/
  log : List LogSlot := []
  /-- Tick of the last ten-minute write (R627). -/
  lastFlush : Nat := 0
  /-- Last second reported (R623). -/
  lastSecond : Nat := 0
  /-- Tick of the last clear (R629). -/
  clearTick : Option Nat := none
  deriving DecidableEq, Repr

/-- The ageing estimator (R611). -/
structure Ageing where
  /-- Hourly samples (hour, value), newest first (R611). -/
  hourly : KMap (List (Nat × Int)) := []
  /-- Daily means kept in flash (R611). -/
  daily : KMap (List (Nat × Int)) := []
  /-- Days remaining (R612). -/
  days : KMap Nat := []
  /-- Warning given at this start (R613). -/
  warned : KMap Bool := []
  /-- Limit event given at this start (R613). -/
  reached : KMap Bool := []
  /-- Hour at which this power-up began, in the numbering of the daily means (R611). -/
  base : Nat := 0
  /-- Corrected words at the previous hourly sample (R610). -/
  eccLast : KMap Nat := []
  /-- Hour of the Milestone count of the last sample (R611). -/
  lastHour : Nat := 0
  deriving DecidableEq, Repr

/-- The management processor, its sideband endpoint and firmware slots (R589). -/
structure Pyhiet where
  /-- Running (R589). -/
  up : Bool := false
  /-- Awake (400 MHz) or asleep (50 MHz) (R590). -/
  awake : Bool := false
  /-- Restart in progress (R592). -/
  restarting : Bool := false
  /-- Watchdog condition of R73 (R592, R73). -/
  wdFault : Bool := false
  /-- Watchdog disarmed until the first kick (R592). -/
  wdDisarmed : Bool := false
  /-- Tick at which the last restart began (R592). -/
  restartTick : Nat := 0
  /-- MCTP endpoint ID (R595). -/
  eid : BitVec 8 := 0
  /-- PLDM terminus ID (R599). -/
  tid : BitVec 8 := 0
  /-- Last 0xE1 interrupt (R597). -/
  ibiE1 : Option Nat := none
  /-- Last 0xE2 interrupt (R597). -/
  ibiE2 : Option Nat := none
  /-- Merged interrupts waiting (R597). -/
  ibiPend : BitVec 2 := 0
  /-- Conditions last seen, to find a change (R597). -/
  lastCond : BitVec 6 := 0
  /-- Reset that a RESET command has scheduled (R602). -/
  resetDue : Option (Nat × Nat × Nat) := none
  /-- Scheduled Pyhiet restart (R602). -/
  restartDue : Option Nat := none
  /-- Debug unlocked (R85, R569). -/
  tempDebug : Bool := false
  /-- An unlock has occurred since this start (R564). -/
  unlockSeen : Bool := false
  /-- MODULE_CONTROL Maintenance enable (R634). -/
  maintEnable : Bool := false
  /-- Supplement slot A (R570). -/
  slotA : List Byte := []
  /-- Supplement slot B (R570). -/
  slotB : List Byte := []
  /-- Selection marker, true for slot B (R571). -/
  marker : Bool := false
  /-- Slot of the running supplement (R571). -/
  running : Option Bool := none
  /-- Anti-rollback floor F (R570, R573). -/
  floor : Nat := 0
  /-- Firmware update in progress (R572, R605). -/
  update : Option Update := none
  /-- Activation pending until the next start (R573). -/
  pendNext : Bool := false
  /-- Tick of the last activation (R573). -/
  liveTick : Option Nat := none
  /-- Watchdog expiries since the activation (R573). -/
  liveWd : Nat := 0
  /-- Previous slot of the last activation (R573). -/
  livePrev : Bool := false
  /-- A live activation restarts Pyhiet (R573, R607). -/
  activating : Bool := false
  /-- I3C dynamic address (R79). -/
  i3cAddr : Option (BitVec 7) := none
  /-- Bus ignored after a stuck line (R80). -/
  i3cIgnored : Bool := false
  /-- JTAG instruction register (R84, R85). -/
  jtag : JtagIr := .idcode
  /-- A pin-driving JTAG instruction is in effect (R85). -/
  extest : Bool := false
  /-- SPDM state of the sideband (R563). -/
  side : Spdm := {}
  /-- Attestation key (its value is opaque) (R558). -/
  attKey : Nat := 0
  /-- Attestation keys generated so far (R558). -/
  keySerial : Nat := 0
  /-- Next bind number (R576). -/
  bindNo : Nat := 0
  /-- BINDs whose pages cannot be checked yet (R576, R348). -/
  bindWait : List BindReq := []
  /-- Tick of the last wake (R590). -/
  wokeAt : Nat := 0
  /-- Tick of the last work (R590). -/
  lastWork : Nat := 0
  /-- Tick of the first kick since the last boot (R592). -/
  kickAt : Nat := 0
  deriving DecidableEq, Repr

/-- One open site (R501). -/
structure OpenSite where
  /-- Admitted and in service (R501). -/
  on : Bool := false
  /-- Declared temperature limit (R501). -/
  limit : Int := 105
  /-- Tick of the last temperature report (R503). -/
  lastReport : Nat := 0
  /-- Isolated (R503). -/
  isolated : Bool := false
  /-- VOPEN voltage, 0 while it is off (R501, R503). -/
  vopen : Nat := 0
  /-- Declared maximum draw (R106). -/
  psite : Nat := 0
  /-- Tick of its isolation (R505). -/
  isoAt : Option Nat := none
  deriving DecidableEq, Repr

/-- One UCIe module (R496). -/
structure Ucie where
  /-- Trained (R498, R500). -/
  up : Bool := false
  /-- Next flit count expected (R499). -/
  count : Nat := 0
  /-- Flit buffers in use (R499). -/
  credits : KMap Nat := []
  /-- Discards until the next packet start (R499). -/
  skipping : Bool := false
  /-- Bytes of the packet in progress (R499). -/
  part : List Byte := []
  /-- Rate at which the module trained (R496, R498). -/
  gts : Nat := 0
  /-- Width at which the module trained (R496, R498). -/
  width : Nat := 0
  /-- Lanes repaired, transmit and receive (R497, R498). -/
  repairs : BitVec 16 × BitVec 16 := (0, 0)
  /-- Tick from which every flit has failed its CRC (R500). -/
  failSince : Option Nat := none
  /-- Flit count of the next flit sent (R499). -/
  sent : Nat := 0
  /-- Flit buffers freed and not yet returned (R499). -/
  owed : KMap Nat := []
  /-- Flits that wait for a flit buffer of the partner (R499). -/
  tx : List (Nat × Bool × List Byte) := []
  deriving DecidableEq, Repr

/-- The power states and the pins of the module (R61). -/
structure Power where
  /-- Module state (R88, R173). -/
  phase : Phase := .off
  /-- Core rails on (R99, R100). -/
  rails : Bool := false
  /-- Rails turned off by their monitors (R101). -/
  railFaults : List (Nat × Nat) := []
  /-- J-power at or above 36 V (R62). -/
  jpower : Bool := true
  /-- Input condition (R95). -/
  input : InputCond := .inRange
  /-- Measured input voltage (R95, R635). -/
  vinCv : Nat := 5400
  /-- Measured input power (R104, R635). -/
  inW : Nat := 0
  /-- Accepted level of MOD_PWREN (R63). -/
  pwren : Bool := false
  /-- Accepted level of MOD_RESET_N (R61, R68). -/
  resetN : Bool := true
  /-- STEWARD_SEL[1:0] pins (R61, R71). -/
  selPin : BitVec 2 := 0
  /-- Steward port (R71, R634). -/
  steward : Fin 4 := 0
  /-- STEWARD_SEL warning of this start recorded (R72). -/
  selWarned : Bool := false
  /-- Thermal trip in progress (THERM_TRIP_N low) (R126, R75). -/
  tripped : Bool := false
  /-- Automatic restarts counted (R129). -/
  restarts : List Nat := []
  /-- Restart limit reached (R129). -/
  limited : Bool := false
  /-- A commanded start waits for the cooling condition (R130). -/
  waitCool : Bool := false
  /-- THERM_TRIP_N held low (R75). -/
  tripPin : Bool := false
  /-- STEWARD_SEL has been sampled since VAON came up (R71, R72). -/
  sampled : Bool := false
  /-- The next start waits the 30 s of R128, for the module was in the trip state (R130). -/
  waitTrip : Bool := false
  /-- Condition Start-up failed, until the next successful start (R73, R164). -/
  failed : Bool := false
  /-- Tick of the last trip (R126). -/
  tripAt : Nat := 0
  /-- Sources recorded for the sample of the last trip (R126). -/
  tripSrc : List TripSource := []
  deriving DecidableEq, Repr

/-- Temperatures, caps and the thermal controller (R108). -/
structure Therm where
  /-- THERM_CONFIG T_thr (R118, R635). -/
  tThr : Nat := 95
  /-- THERM_CONFIG input power cap (R104, R635). -/
  capW : Nat := 7500
  /-- On-die sensor readings (R108). -/
  sens : KMap Int := []
  /-- Raw model estimates (R110). -/
  est : KMap Int := []
  /-- Trims (R111). -/
  trim : KMap Int := []
  /-- Suspect sensors (R122). -/
  suspect : KMap Bool := []
  /-- Tick from which every raw estimate has exceeded the sensor by more than 8 degrees (R122). -/
  hotSince : KMap Nat := []
  /-- Measured rail power of each stack (R110). -/
  railMw : KMap Nat := []
  /-- Activity counters at the last model update (R110). -/
  activity : KMap Nat := []
  /-- Remote diode readings (R109). -/
  diode : KMap Int := []
  /-- Discarded readings (R83). -/
  diodeBad : KMap Nat := []
  /-- Pairs with a reading that was kept (R130). -/
  diodeRead : BitVec 36 := 0
  /-- Tick from which every diode has read below 70 degrees (R128). -/
  coolSince : Option Nat := none
  /-- Tick at which the present DIODE_FRAME frame began (R81). -/
  frameAt : Option Nat := none
  /-- Pairs that the thermal guard holds faulted (R83). -/
  diodeFault : BitVec 36 := 0
  /-- THERM_FLAGS Diode faults, set when a pair is declared faulted (R635). -/
  diodeFlags : BitVec 36 := 0
  /-- HBM3 temperature readouts (R108). -/
  hbmTemp : KMap Int := []
  /-- Inlet coolant temperature (R91). -/
  inlet : Int := 100
  /-- Outlet coolant temperature (R91). -/
  outlet : Int := 100
  /-- Inlet readings (R91). -/
  inletPast : List (Nat × Int) := []
  /-- Inlet sensor faulted (R91). -/
  inletFault : Bool := false
  /-- Thermal caps computed, CD regions (R114). -/
  caps : KMap Nat := []
  /-- Thermal caps computed, ML regions (R114). -/
  mlCaps : KMap Nat := []
  /-- Caps in force (R105, R635). -/
  force : KMap Nat := []
  /-- ML caps in force (R116). -/
  mlForce : KMap Nat := []
  deriving DecidableEq, Repr

/-- The Milestone lock and the reference clock (R147). -/
structure TimeLock where
  /-- TIME_SOURCE (R147, R636). -/
  source : BitVec 3 := 0
  /-- Lock state (R147, R636). -/
  lock : LockState := .free
  /-- Steering (R150, R636). -/
  steer : Int := 0
  /-- Reference offset (R137, R636). -/
  offset : Int := 0
  /-- Last phase error (R150, R636). -/
  phaseErr : Int := 0
  /-- Samples since the source was selected (R636). -/
  samples : Nat := 0
  /-- Consecutive samples within the lock band (R150). -/
  inBand : Nat := 0
  /-- Step 1 has run since the source was selected (R150). -/
  locked1 : Bool := false
  /-- Tick of the last sample (R150). -/
  lastSample : Nat := 0
  /-- Last PTM dialogue kept (R636). -/
  ptmValid : Bool := false
  /-- PPS_IN qualified (R78, R636). -/
  ppsOk : Bool := false
  /-- Last rising edge (R78). -/
  ppsLast : Option Nat := none
  /-- Consecutive good intervals (R78). -/
  ppsGood : Nat := 0
  /-- Pending PPS_SECONDS value (R149). -/
  ppsSec : Option Nat := none
  /-- Reference second of the next edge (R149). -/
  ppsNext : Nat := 0
  /-- The reference stands rejected for its rate (R151). -/
  rejected : Bool := false
  /-- Tick of the last PTM dialogue (R148). -/
  ptmAt : Nat := 0
  /-- Tick from which PTM dialogues have failed (R150). -/
  ptmFail : Option Nat := none
  /-- TCXO present (R163). -/
  tcxo : Bool := true
  /-- TCXO failures of the last hour (R164). -/
  tcxoFails : List Nat := []
  /-- Stays at step 1 until a power cycle (R164). -/
  tcxoStay : Bool := false
  deriving DecidableEq, Repr

/-- The start-up, out-of-service and isolation state of the module (R172). -/
structure Boot where
  /-- Kind of the present start (R172). -/
  kind : StartKind := .cold
  /-- Origin of the start (R172). -/
  origin : Nat := 0
  /-- Start-up steps ended (R173). -/
  ended : BitVec 12 := 0
  /-- Start-up steps in progress (R173). -/
  busy : BitVec 12 := 0
  /-- Steps on their repeat (R175). -/
  repeated : BitVec 12 := 0
  /-- Failing step (R634). -/
  failStep : Nat := 0
  /-- A step 7 that had not ended runs at the next start (R204). -/
  marchOwed : Bool := false
  /-- Start count (R560). -/
  startCount : Nat := 0
  /-- Out-of-service elements of this start (R179, R616). -/
  oosList : List OosEntry := []
  /-- Isolations of the last hour (R192). -/
  isoHist : List (BitVec 8 × Nat × Nat) := []
  /-- Dies isolated and not back in service (R191, R73). -/
  isolated : List (BitVec 8 × Nat) := []
  /-- Dies that stay out of service until the next start (R192). -/
  stayOut : List (BitVec 8 × Nat) := []
  /-- Dies away by a commanded reset and by no monitor (R188, R189). -/
  commanded : List (BitVec 8 × Nat) := []
  /-- Stacks whose reset takes the ML with the CD (R188, R189). -/
  wholeReset : BitVec 16 := 0
  /-- The module is a CLM-D16-LQ54-X (R2, R3). -/
  isX : Bool := false
  /-- Serial number in the identity certificate (R178, R181). -/
  serial : BitVec 64 := 0
  /-- Assembly record, copy 0 (R178). -/
  recA : FlashRec := FlashRec.factory
  /-- Assembly record, copy 1 (R178). -/
  recB : FlashRec := FlashRec.factory
  /-- Copy of the record applied at this start, true for copy 1 (R181). -/
  recUse : Option Bool := none
  /-- Overlay slot A (R178). -/
  overlayA : Option FlashRec := none
  /-- Overlay slot B (R178). -/
  overlayB : Option FlashRec := none
  /-- Overlay applied at this start (R181). -/
  overlayUse : Option Bool := none
  /-- Sequence of the overlay written since this start's step 3 (R177, R182). -/
  overlayNew : Option Nat := none
  /-- Sections that step 3 applied, the overlay's in place of the record's (R177, R181). -/
  applied : Option FlashRec := none
  /-- Results of first attempts whose failed elements are tried again (R175). -/
  firstTry : List (Nat × StepResult) := []
  /-- Vertical spare routing, with its copy in the island of the base tile (R494) (R488, R492). -/
  spares : List SpareRec := []
  /-- Delay settings of the vertical lanes, with their copy in the island of the base tile (R491, R494). -/
  delays : List (VLane × Nat) := []
  /-- Lanes that the next tuning tests first (R495). -/
  testFirst : List VLane := []
  /-- Spares that failed at this start (R492). -/
  badVSpares : List VLane := []
  /-- Groups whose eye event of this start has been recorded (R495). -/
  eyeWarned : List (VLane × Bool) := []
  /-- Last passing range of each group (R495). -/
  eyes : List (VLane × Nat) := []
  /-- Groups whose range has lain below 0.10 of a bit time since a tick (R495). -/
  eyeLow : List (VLane × Nat) := []
  /-- Corrected errors of each lane, counted over 1 s (R495). -/
  eyeCounts : List (VLane × Nat × Nat × Nat) := []
  /-- Lasers lit (R386). -/
  laserLit : BitVec 4 := 0
  deriving DecidableEq, Repr

/-- The module (R1). -/
structure State where
  /-- Milestone master count (R137). -/
  now : Nat := 0
  /-- VAON is up (R100). -/
  on : Bool := false
  /-- Power states and pins (R61). -/
  pw : Power := {}
  /-- Temperatures and caps (R108). -/
  th : Therm := {}
  /-- Time source and reference clock (R147). -/
  tm : TimeLock := {}
  /-- Start-up and isolation (R172). -/
  bt : Boot := {}
  /-- Stacks (R26). -/
  stks : KMap Stack := []
  /-- Regions (R134). -/
  regions : KMap Region := []
  /-- Clusters (R233). -/
  clusters : KMap Cluster := []
  /-- Cores (R205). -/
  cores : KMap Core := []
  /-- Endpoints (R30). -/
  eps : KMap EpState := []
  /-- Port dies (R32). -/
  dies : KMap PortDie := []
  /-- Pair links (R380). -/
  links : KMap Link := []
  /-- Lanes (R380). -/
  lanes : KMap Lane := []
  /-- HBM3 contents (R338, R339). -/
  hbm : Mem := []
  /-- Slices and pools (R311, R342). -/
  ml : Mem := []
  /-- Memory-layer words with an uncorrectable error (R327). -/
  mlBad : List Nat := []
  /-- HBM3 words with an uncorrectable error (R372). -/
  hbmBad : List Nat := []
  /-- Page map and loader (R344). -/
  pm : HbmDie := {}
  /-- Remote operations (R223, R368). -/
  ops : List RemOp := []
  /-- Attempts that still hold their line (R442). -/
  tails : List RemOp := []
  /-- The model's own serial number of the next operation or copy (R368). -/
  nextOp : Nat := 0
  /-- Partition blocks (R522). -/
  parts : KMap Part := []
  /-- Ports and gateways (R506). -/
  ports : KMap Port := []
  /-- Steward in hub 28 (R472). -/
  stewA : Steward := {}
  /-- Steward in hub 30 (R472). -/
  stewB : Steward := {}
  /-- Path each group uses fabric-wide (R381, R637). -/
  groups : BitVec 4 := 0
  /-- Token holder shown in PATH_STATE (R637). -/
  holder : BitVec 4 := 0
  /-- UCIe modules (R496). -/
  ucie : KMap Ucie := []
  /-- Turnpike class space in use (R449). -/
  ringSeg : KMap Nat := []
  /-- Open sites (R501). -/
  sites : KMap OpenSite := []
  /-- Event recorder (R618). -/
  evr : Recorder := {}
  /-- Ageing estimator (R611). -/
  age : Ageing := {}
  /-- The estimator before the sample of a tick (R629). -/
  ageBefore : Option (Nat × Ageing) := none
  /-- Pyhiet and sideband (R589). -/
  pyh : Pyhiet := {}
  /-- What the module has sent on its pins, ports, links and sideband (the model's own field (log 4)). -/
  out : List Output := []
  /-- Free-value counter: each open value the model needs is Config.free applied to it (the model's own field (log 5)). -/
  free : Nat := 0
  /-- Commands waiting, first in first out (the model's own field (log 1)). -/
  pending : List Instr := []
  deriving DecidableEq, Repr

/-- The module right after reset: J-power present, MOD_PWREN low, before its first start (R61, R62; logs 7, 8). -/
def State.reset : State := {}

end Sys2Proof.Machine
end

