-- ==== Sys2Proof/Machine/Ops.lean ====
section
/-!
DEFINITION. The shared operations of the module: sparse maps, byte memories, the accessors of its elements,
numbers of elements, outputs, free values, in-band interrupts and the event recorder's intake.
-/

namespace Sys2Proof.Machine

/-- The outcome of a command. -/
abbrev Res := Host.Outcome State Fault Refusal

/-! ### Sparse maps -/

/-- The element at a key, d where none is listed. -/
def kget {α : Type} (d : α) : KMap α → Nat → α
  | [], _ => d
  | (k, v) :: r, n => if k = n then v else kget d r n

/-- Remove a key. -/
def kdel {α : Type} (m : KMap α) (n : Nat) : KMap α := m.filter fun c => c.1 ≠ n

/-- Insert at a key, keeping the keys rising. -/
def kins {α : Type} : KMap α → Nat → α → KMap α
  | [], n, x => [(n, x)]
  | (k, v) :: r, n, x =>
    if n < k then (n, x) :: (k, v) :: r else if k = n then (n, x) :: r else (k, v) :: kins r n x

/-- Write at a key: writing the default removes the entry. -/
def kput {α : Type} [DecidableEq α] (d : α) (m : KMap α) (n : Nat) (x : α) : KMap α :=
  if x = d then kdel m n else kins m n x

/-- Change the element at a key. -/
def kmod {α : Type} [DecidableEq α] (d : α) (m : KMap α) (n : Nat) (f : α → α) : KMap α :=
  kput d m n (f (kget d m n))

/-! ### Byte memories -/

/-- The byte at an address. -/
def memGet (m : Mem) (a : Nat) : Byte := kget Mem.blank m a

/-- Write one byte. -/
def memPut (m : Mem) (a : Nat) (b : Byte) : Mem := kput Mem.blank m a b

/-- n bytes from an address, in rising order. -/
def memRead (m : Mem) (a : Nat) : Nat → List Byte
  | 0 => []
  | n + 1 => memGet m a :: memRead m (a + 1) n

/-- Write bytes from an address, in rising order. -/
def memWrite (m : Mem) (a : Nat) : List Byte → Mem
  | [] => m
  | b :: bs => memWrite (memPut m a b) (a + 1) bs

/-- Write the bytes whose enable is set. -/
def memWriteEn (m : Mem) (a : Nat) : List (Bool × Byte) → Mem
  | [] => m
  | (e, b) :: bs => memWriteEn (if e then memPut m a b else m) (a + 1) bs

/-- Zero every byte of a range. -/
def memZero (m : Mem) (lo n : Nat) : Mem := m.filter fun c => c.1 < lo ∨ lo + n ≤ c.1

/-- The number a little-endian byte string spells (R12). -/
def leNat : List Byte → Nat
  | [] => 0
  | b :: bs => b.toNat + 256 * leNat bs

/-- n bytes of a number, least significant first (R12). -/
def leBytes : Nat → Nat → List Byte
  | 0, _ => []
  | n + 1, x => BitVec.ofNat 8 x :: leBytes n (x / 256)

/-- n bytes of a byte string from an offset, zero past its end. -/
def slice (bs : List Byte) (off n : Nat) : List Byte :=
  let r := (bs.drop off).take n
  r ++ List.replicate (n - r.length) 0

/-- A little-endian field of a byte string. -/
def field (bs : List Byte) (off n : Nat) : Nat := leNat (slice bs off n)

/-- Bits hi..lo of a number. -/
def bits (x hi lo : Nat) : Nat := (x / 2 ^ lo) % 2 ^ (hi + 1 - lo)

/-- A set bit of a mask. -/
def hasBit {n : Nat} (m : BitVec n) (i : Nat) : Bool := m.getLsbD i

/-- A mask with one bit set or cleared. -/
def putBit {n : Nat} (m : BitVec n) (i : Nat) (b : Bool) : BitVec n :=
  if b then m ||| BitVec.ofNat n (2 ^ i) else m &&& ~~~ BitVec.ofNat n (2 ^ i)

/-- Set bits of a mask, counted. -/
def popCount {n : Nat} (m : BitVec n) : Nat :=
  ((List.range n).filter fun i => m.getLsbD i).length

/-- The numbers of the set bits of a mask, rising. -/
def bitList {n : Nat} (m : BitVec n) : List Nat := (List.range n).filter fun i => m.getLsbD i

/-- The value of a Boolean as a number. -/
def b2n (b : Bool) : Nat := if b then 1 else 0

/-- The first number below n that a test accepts. -/
def firstBelow (n : Nat) (f : Nat → Bool) : Option Nat := (List.range n).find? f

/-- Apply a function for each element of a list, in order. -/
def forEach {α σ : Type} (l : List α) (f : α → σ → σ) (s : σ) : σ := l.foldl (fun t a => f a t) s

/-! ### Numbers of elements (R26 to R33) -/

/-- The tile of a stack (R26). -/
def tileOfStack (st : StackId) : TileId := ⟨st.val / 4, by omega⟩

/-- The endpoint of a stack (R30). -/
def stackEp (st : StackId) : EpId := ⟨st.val, by omega⟩

/-- The endpoint of a port die k (R30). -/
def dieEp (k : Fin 8) : EpId := ⟨16 + k.val, by omega⟩

/-- The endpoint of a gateway (R30, R33). -/
def gwEp (t : PortId) : EpId := ⟨24 + t.val, by omega⟩

/-- The hub endpoint of a tile (R30). -/
def hubEp (t : TileId) : EpId := ⟨28 + t.val, by omega⟩

/-- The tile of an endpoint (R30). -/
def tileOfEp (e : EpId) : TileId :=
  if e.val < 16 then ⟨e.val / 4 % 4, by omega⟩
  else if e.val < 24 then ⟨(e.val - 16) / 2 % 4, by omega⟩
  else if e.val < 28 then ⟨(e.val - 24) % 4, by omega⟩
  else ⟨(e.val - 28) % 4, by omega⟩

/-- The stack of a stack endpoint. -/
def epStack (e : EpId) : Option StackId := if h : e.val < 16 then some ⟨e.val, h⟩ else none

/-- The port die of a port-die endpoint. -/
def epDie (e : EpId) : Option (Fin 8) :=
  if h : 16 ≤ e.val ∧ e.val < 24 then some ⟨e.val - 16, by omega⟩ else none

/-- The gateway of a gateway endpoint. -/
def epPort (e : EpId) : Option PortId :=
  if h : 24 ≤ e.val ∧ e.val < 28 then some ⟨e.val - 24, by omega⟩ else none

/-- The hub tile of a hub endpoint. -/
def epHub (e : EpId) : Option TileId :=
  if h : 28 ≤ e.val then some ⟨e.val - 28, by omega⟩ else none

/-- The port die that drives an HBM3 stack (R32). -/
def dieOfHbm (h : Fin 16) : Fin 8 := ⟨h.val / 2, by omega⟩

/-- The stack of a core (R28). -/
def coreStack (g : CoreId) : StackId := ⟨g.val / 1536, by omega⟩

/-- The logical cluster of a core (R28). -/
def coreCluster (g : CoreId) : ClusterNo := ⟨g.val % 1536 / 16, by omega⟩

/-- The number of a core in its cluster (R28). -/
def coreNo (g : CoreId) : Fin 16 := ⟨g.val % 16, by omega⟩

/-- A core's global number (R28). -/
def coreOf (st : StackId) (c : ClusterNo) (n : Fin 16) : CoreId :=
  ⟨st.val * 1536 + c.val * 16 + n.val, by omega⟩

/-- Every endpoint, stack, tile, port, partition, in rising order. -/
def allEps : List EpId := List.finRange 32
def allStacks : List StackId := List.finRange 16
def allTiles : List TileId := List.finRange 4
def allPorts : List PortId := List.finRange 4
def allParts : List PartId := List.finRange 16

/-- The modules of a UCIe partner (R496). -/
def modulesOf : LinkPartner → List Nat
  | .mp k => (List.range 8).map fun i => 19 * (k.val / 2) + 8 * (k.val % 2) + i
  | .hg t => [19 * t.val + 16]
  | .site t => [19 * t.val + 17, 19 * t.val + 18]

/-! ### Accessors -/

def State.ep (s : State) (e : EpId) : EpState := kget {} s.eps e.val
def State.modEp (s : State) (e : EpId) (f : EpState → EpState) : State := { s with eps := kmod {} s.eps e.val f }
def State.stack (s : State) (x : StackId) : Stack := kget {} s.stks x.val
def State.modStack (s : State) (x : StackId) (f : Stack → Stack) : State :=
  { s with stks := kmod {} s.stks x.val f }
def regionKey (x : StackId) (p : RegionNo) : Nat := 100 * x.val + p.val
def State.region (s : State) (x : StackId) (p : RegionNo) : Region := kget {} s.regions (regionKey x p)
def State.modRegion (s : State) (x : StackId) (p : RegionNo) (f : Region → Region) : State :=
  { s with regions := kmod {} s.regions (regionKey x p) f }
def clusterKey (x : StackId) (c : ClusterNo) : Nat := 96 * x.val + c.val
def State.cluster (s : State) (x : StackId) (c : ClusterNo) : Cluster := kget {} s.clusters (clusterKey x c)
def State.modCluster (s : State) (x : StackId) (c : ClusterNo) (f : Cluster → Cluster) : State :=
  { s with clusters := kmod {} s.clusters (clusterKey x c) f }
def State.core (s : State) (g : CoreId) : Core := kget {} s.cores g.val
def State.modCore (s : State) (g : CoreId) (f : Core → Core) : State := { s with cores := kmod {} s.cores g.val f }
def State.die (s : State) (k : Fin 8) : PortDie := kget {} s.dies k.val
def State.modDie (s : State) (k : Fin 8) (f : PortDie → PortDie) : State := { s with dies := kmod {} s.dies k.val f }
def linkKey (i j : EpId) : Nat := 32 * i.val + j.val
def State.link (s : State) (i j : EpId) : Link := kget {} s.links (linkKey i j)
def State.modLink (s : State) (i j : EpId) (f : Link → Link) : State :=
  { s with links := kmod {} s.links (linkKey i j) f }
def laneKey (l : LaneId) : Nat := 1024 * l.snd.val + 32 * l.rcv.val + l.plane.val
def State.lane (s : State) (l : LaneId) : Lane := kget {} s.lanes (laneKey l)
def State.modLane (s : State) (l : LaneId) (f : Lane → Lane) : State :=
  { s with lanes := kmod {} s.lanes (laneKey l) f }
def State.part (s : State) (p : PartId) : Part := kget {} s.parts p.val
def State.modPart (s : State) (p : PartId) (f : Part → Part) : State := { s with parts := kmod {} s.parts p.val f }
def State.port (s : State) (t : PortId) : Port := kget {} s.ports t.val
def State.modPort (s : State) (t : PortId) (f : Port → Port) : State := { s with ports := kmod {} s.ports t.val f }
def State.site (s : State) (t : TileId) : OpenSite := kget {} s.sites t.val
def State.modSite (s : State) (t : TileId) (f : OpenSite → OpenSite) : State :=
  { s with sites := kmod {} s.sites t.val f }
def State.ucieMod (s : State) (u : Nat) : Ucie := kget {} s.ucie u
def State.modUcie (s : State) (u : Nat) (f : Ucie → Ucie) : State := { s with ucie := kmod {} s.ucie u f }

/-- A convoy of a core. -/
def Core.cv (c : Core) (h : Fin 2) : Convoy := if h = 0 then c.c0 else c.c1
/-- Change a convoy of a core. -/
def Core.modCv (c : Core) (h : Fin 2) (f : Convoy → Convoy) : Core :=
  if h = 0 then { c with c0 := f c.c0 } else { c with c1 := f c.c1 }
def State.cv (s : State) (u : Cv) : Convoy := (s.core u.g).cv u.h
def State.modCv (s : State) (u : Cv) (f : Convoy → Convoy) : State := s.modCore u.g fun c => c.modCv u.h f

/-- Send something (log 4). -/
def State.emit (s : State) (o : Output) : State := { s with out := o :: s.out }

/-- The next free value, and the state that has taken it (log 5). -/
def State.freeBits (s : State) (w : Nat) : BitVec w := (Config.free s.free).setWidth w
def State.freeBytes (s : State) (n : Nat) : List Byte := (List.range n).map fun i => (Config.free (s.free + i)).setWidth 8
def State.tookFree (s : State) : State := { s with free := s.free + 1 }

/-- A Milestone copy of an endpoint (R137): the master count plus the endpoint's difference. -/
def State.copyNow (s : State) (e : EpId) : Nat := (s.now + (s.ep e).delta).toNat

/-- A cluster's Milestone copy (R137, R143): the master count plus the cluster's difference. -/
def State.clusterNow (s : State) (x : StackId) (c : ClusterNo) : Nat :=
  (s.now + (s.cluster x c).msDelta).toNat

/-! ### Partitions -/

/-- The stack mask, serving port and state of a partition block (R522, R641). -/
def Part.stackMask (p : Part) : BitVec 16 := p.shape.setWidth 16
def Part.servPort (p : Part) : PortId := ⟨(p.shape.toNat / 2 ^ 32) % 4, by omega⟩
def Part.siteMask (p : Part) : BitVec 4 := (p.shape >>> 36).setWidth 4

/-- The partition that holds a stack: the committed or tearing block whose mask names it (R522, R524). -/
def State.partOfStack (s : State) (x : StackId) : Option PartId :=
  allParts.find? fun p =>
    let b := s.part p
    (b.block = .committed ∨ b.block = .tearing) ∧ hasBit b.stackMask x.val

/-- The gateway endpoint of a partition (R33, R523). -/
def State.gwOf (s : State) (p : PartId) : EpId := gwEp (s.part p).servPort

/-- The stacks of a partition. -/
def State.stacksOf (s : State) (p : PartId) : List StackId :=
  allStacks.filter fun x => hasBit (s.part p).stackMask x.val

/-- The physical cluster that a logical cluster stands on, when the stack is mapped (R27). -/
def State.physOf (s : State) (x : StackId) (c : ClusterNo) : Option RegionNo :=
  ((List.finRange 100).filter fun p => hasBit (s.stack x).cmap p.val)[c.val]?

/-- The logical cluster on a physical cluster (R27). -/
def State.logOf (s : State) (x : StackId) (p : RegionNo) : Option ClusterNo :=
  (List.finRange 96).find? fun c => s.physOf x c = some p

/-! ### In-band interrupts (R597) -/

/-- Ask for in-band interrupt 0xE1 (true) or 0xE2 (false): sent at once when an address is held and the last one of that
code is 10 ms old, and merged into a waiting one otherwise. -/
def State.ibi (s : State) (e1 : Bool) : State :=
  let p := s.pyh
  let last := if e1 then p.ibiE1 else p.ibiE2
  let due := match last with | none => true | some t => t + 10000000 ≤ s.now
  if p.i3cAddr.isNone then s
  else if due && !p.i3cIgnored && p.up then
    { s with pyh := if e1 then { p with ibiE1 := some s.now } else { p with ibiE2 := some s.now }
             out := .ibi (if e1 then 0xE1 else 0xE2) :: s.out }
  else { s with pyh := { p with ibiPend := p.ibiPend ||| (if e1 then 1 else 2) } }

/-! ### The event recorder's intake -/

/-- What a recording rule gives the recorder (R618). -/
structure Ev where
  code : BitVec 16
  sev : Fin 4
  cls : BitVec 8 := 0
  num : Nat := 0
  part : Option PartId := none
  detail : BitVec 96 := 0
  deriving DecidableEq, Repr

/-- The lowest severity among entries that satisfy a bound, 4 when none does. -/
def lowestSev (l : List RecEntry) (bound : Nat) : Nat :=
  l.foldl (fun m e => if e.sev.val ≤ bound ∧ e.sev.val < m then e.sev.val else m) 4

/-- Remove the entry of a severity with the lowest sequence: the first one, for entries stand in sequence order. -/
def dropFirstSev : List RecEntry → Nat → List RecEntry
  | [], _ => []
  | e :: r, m => if e.sev.val = m then r else e :: dropFirstSev r m

/-- A lane's number as a lane. -/
def laneOfKey (k : Nat) : LaneId := { snd := ⟨k / 1024 % 32, by omega⟩, rcv := ⟨k / 32 % 32, by omega⟩, plane := ⟨k % 32, by omega⟩ }

/-- Place an entry in a store of a size, as R622 says; false when the new entry is dropped. -/
def placeIn (cap : Nat) (l : List RecEntry) (e : RecEntry) : List RecEntry × Bool :=
  if l.length < cap then (l ++ [e], true)
  else
    let m := lowestSev l e.sev.val
    if m = 4 then (l, false) else (dropFirstSev l m ++ [e], true)

/-- Saturating 32-bit count (R616). -/
def satInc (n : Nat) (k : Nat := 1) : Nat := min (n + k) 0xFFFFFFFF

/-- Place an entry in the recorder, or in the holding queue while a freeze lasts (R622, R625); a fatal entry asks for its
flash write at once (R627). -/
def Recorder.place (r : Recorder) (e : RecEntry) : Recorder :=
  let r := if e.sev = 3 then { r with fatalQ := r.fatalQ ++ [e] } else r
  if r.frozen then
    let (l, _) := placeIn 256 r.hold e
    { r with hold := l, holdDrops := if r.hold.length < 256 then r.holdDrops else satInc r.holdDrops }
  else
    let (l, ok) := placeIn 16384 r.entries e
    { r with entries := l, dropped := if ok then r.dropped else satInc r.dropped }

/-- A code's bucket at a tick, in 10^-9 tokens: rate tokens a second, at most the burst (R623). -/
def Recorder.level (r : Recorder) (code : Nat) (now : Nat) : Nat :=
  match r.buckets.find? (fun b => b.1 = code) with
  | none => min (r.burst * 1000000000) (r.idle.level + (now - r.idle.at_) * r.rate)
  | some (_, b) => min (r.burst * 1000000000) (b.level + (now - b.at_) * r.rate)

/-- The order of R621 among entries. -/
def RecEntry.before (a b : RecEntry) : Bool :=
  a.code.toNat < b.code.toNat || (a.code = b.code && (a.cls.toNat < b.cls.toNat || (a.cls = b.cls && a.num ≤ b.num)))

def RecEntry.insert (v : RecEntry) : List RecEntry → List RecEntry
  | [] => [v]
  | w :: r => if v.before w then v :: w :: r else w :: RecEntry.insert v r

/-- The entries of one tick stand in the order of R621, and take their sequence numbers in it. -/
def sortTick (now : Nat) (l : List RecEntry) : List RecEntry :=
  let here (e : RecEntry) : Bool := e.tick = now && !e.restored
  let same := l.filter here
  (l.filter fun e => !here e) ++ ((same.foldr RecEntry.insert []).zip same).map fun q => { q.1 with seq := q.2.seq }

/-- The entries of a tick in order, in the recorder, in its queue, and among those that wait for flash. -/
def Recorder.sort (r : Recorder) (now : Nat) : Recorder :=
  let es := sortTick now r.entries
  let hs := sortTick now r.hold
  let seqOf (e : RecEntry) : RecEntry := ((es ++ hs).find? fun x => { x with seq := 0, flushed := false } = { e with seq := 0, flushed := false }).getD e
  { r with entries := es, hold := hs, fatalQ := r.fatalQ.map fun e => { e with seq := (seqOf e).seq } }

/-- Offer one event to the recorder; in the tick of a clear the entry goes with the cleared ones (R618, R621 to R623, R625, R629). -/
def Recorder.offer (r : Recorder) (now : Nat) (v : Ev) : Recorder :=
  let r := { r with seq := (r.seq + 1) % 2 ^ 32 }
  let e : RecEntry := { tick := now, seq := r.seq, code := v.code, sev := v.sev, cls := v.cls, num := v.num,
                        part := v.part, detail := v.detail }
  if r.clearTick = some now then r
  else if v.sev = 3 ∨ v.code.toNat / 4096 = 0 then (r.place e).sort now
  else
    let lv := r.level v.code.toNat now
    if lv < 1000000000 then
      { r with buckets := kins r.buckets v.code.toNat { level := lv, at_ := now }
               suppressed := kmod 0 r.suppressed v.code.toNat satInc
               suppTotal := satInc r.suppTotal }
    else
      ({ r with buckets := kins r.buckets v.code.toNat { level := lv - 1000000000, at_ := now } }.place e).sort now

/-- Record one event: nothing while VAON is down; an error or fatal entry asks for interrupt 0xE1 (R597). -/
def State.record (s : State) (v : Ev) : State :=
  if s.on then
    let s := { s with evr := s.evr.offer s.now v }
    if v.sev.val ≥ 2 then s.ibi true else s
  else s

/-- The order of R621: code, then element class, then element number. -/
def Ev.before (a b : Ev) : Bool :=
  a.code.toNat < b.code.toNat || (a.code = b.code && (a.cls.toNat < b.cls.toNat ||
    (a.cls = b.cls && a.num ≤ b.num)))

/-- Insertion into a list in the order of R621. -/
def Ev.insert (v : Ev) : List Ev → List Ev
  | [] => [v]
  | w :: r => if v.before w then v :: w :: r else w :: Ev.insert v r

/-- Record the events of one tick, in the order of R621. -/
def State.recordAll (s : State) (vs : List Ev) : State :=
  (vs.foldr Ev.insert []).foldl (fun t v => t.record v) s

/-- Severities (R618). -/
def info : Fin 4 := 0
def warn : Fin 4 := 1
def err : Fin 4 := 2
def fatal : Fin 4 := 3

/-- Record an event of a code, severity and element. -/
def State.ev (s : State) (code : BitVec 16) (sev : Fin 4) (cls : BitVec 8 := 0) (num : Nat := 0)
    (part : Option PartId := none) (detail : BitVec 96 := 0) : State :=
  s.record { code, sev, cls, num, part, detail }

/-! ### Elements out of service and cluster maps (R179, R184, R185) -/

/-- An element is out of service for this start. The code of its cause is open (log 45). -/
def State.putOut (s : State) (cls : BitVec 8) (num : Nat) : State :=
  if s.bt.oosList.any fun x => x.cls = cls && x.num = num then s
  else
    { s with bt := { s.bt with
        oosList := s.bt.oosList ++ [{ cls, num, cause := s.freeBits 16, start := s.bt.startCount }] } : State }.tookFree

/-- Whether an element is out of service for this start. -/
def State.isOut (s : State) (cls : BitVec 8) (num : Nat) : Bool := s.bt.oosList.any fun x => x.cls = cls && x.num = num

/-- The map of a CD from an applied map and its failed clusters: each mapped one that fails is replaced by the lowest passing one that is
not mapped; none when fewer than 96 pass (R184, R185). -/
def remap (map : BitVec 100) (bad : List RegionNo) : Option (BitVec 100) :=
  let pass := (List.finRange 100).filter fun p => !bad.contains p
  if pass.length < 96 then none
  else
    let keep := pass.filter fun p => hasBit map p.val
    let spare := (pass.filter fun p => !hasBit map p.val).take (popCount map - keep.length)
    some ((keep ++ spare).foldl (fun m p => putBit m p.val true) 0)

/-- A region without power: it holds nothing and has no clock (R27, R167, R185). -/
def Region.unpowered (r : Region) : Region :=
  { r with depth := .poweredOff, arrived := false, clearing := false, stretching := false, mhz := 0, vcd := 0 }

/-- A stack is out of service: fewer than 96 clusters of its CD passed, or a die of it failed; its CD and ML stay unpowered (R185, R186). -/
def State.stackOut (s : State) (x : StackId) : State :=
  let s := (s.modStack x fun k => { k with oos := true }).putOut 0x01 x.val
  (List.finRange 100).foldl (fun s p => s.modRegion x p Region.unpowered) s

/-- The regions beneath a new map: the spares lose their power, and a former spare that is mapped is powered (R27, R184, R311). -/
def State.powerMap (s : State) (x : StackId) : State :=
  (List.finRange 100).foldl (fun s p =>
    if !hasBit (s.stack x).cmap p.val then s.modRegion x p Region.unpowered
    else if (s.region x p).depth = .poweredOff then s.modRegion x p fun r => { r with depth := .awake } else s) s

/-- The cluster map that step 3 applied to a CD (R184). -/
def State.appliedMap (s : State) (x : StackId) : BitVec 100 :=
  match s.bt.applied.bind fun a => a.maps[x.val]? with
  | some m => m.setWidth 100
  | none => (s.stack x).cmap

/-- The self-test's outcome for a stack: the clusters that failed, and the new map, or the stack out of service with an error
(R183 to R185). -/
def State.mapStack (s : State) (x : StackId) (bad : List RegionNo) : State :=
  let s := (List.finRange 100).foldl (fun s p =>
    if (s.region x p).testFailed = bad.contains p then s
    else s.modRegion x p fun r => { r with testFailed := bad.contains p }) s
  match remap (s.appliedMap x) bad with
  | some m => (s.modStack x fun k => { k with cmap := m }).powerMap x
  | none => (s.stackOut x).ev 0x3002 err 0x01 x.val

/-! ### The lock source (R147, R150) -/

/-- The lock source is lost: steering is frozen in HOLDOVER, with a warning (R150 step 4). -/
def State.sourceLost (s : State) : State :=
  if s.tm.lock = .locked || s.tm.lock = .acquire then
    { s with tm := { s.tm with lock := .holdover, inBand := 0 } }.ev 0x2005 warn
  else s

/-- PTM on a port is the selected source (R147). -/
def State.ptmOn (s : State) (t : PortId) : Bool := s.tm.source.toNat = t.val + 1

/-! ### Checksums -/

/-- One bit of a CRC of n bits, reflected, of polynomial p (already reflected). -/
def crcBit (p : Nat) (c : Nat) : Nat := if c % 2 = 1 then (c / 2) ^^^ p else c / 2

/-- CRC-32C of bytes: reflected polynomial of 0x1EDC6F41, initial ones, result inverted (R426). -/
def crc32c (bs : List Byte) : BitVec 32 :=
  let step (c : Nat) (b : Byte) : Nat :=
    let c := c ^^^ b.toNat
    crcBit 0x82F63B78 (crcBit 0x82F63B78 (crcBit 0x82F63B78 (crcBit 0x82F63B78
      (crcBit 0x82F63B78 (crcBit 0x82F63B78 (crcBit 0x82F63B78 (crcBit 0x82F63B78 c)))))))
  ~~~ BitVec.ofNat 32 (bs.foldl step 0xFFFFFFFF)

/-- A response message is queued, and interrupt 0xAE says so (R597). -/
def State.respond (s : State) (o : Output) : State := (s.emit o).emit (.ibi 0xAE)

/-- Whether the endpoint answers from its own hardware: Pyhiet restarts, or has not booted (R596). -/
def State.pyhDown (s : State) : Bool := !s.pyh.up || s.pyh.restarting

end Sys2Proof.Machine
end

