-- ==== Sys2Proof/Machine/Work.lean ====
section
/-!
DEFINITION. The work of a partition: packets put in an endpoint's send queue, completion records and their
MSI-X messages, the failure of a period, the end of a kernel, and the stop of a stack's cores.
-/

namespace Sys2Proof

/-- Whether an operation travels as a control packet (R428). -/
def POp.control : POp → Bool
  | .load | .readData | .store | .atomic | .copyRead | .copyData | .wmAdd | .drainMarker | .windowAudit => false
  | _ => true

end Sys2Proof

namespace Sys2Proof.Machine

/-! ### The Causeway queue (R468, R469) -/

/-- A state change of an endpoint's active controller waits for a record; the queue holds 64, and a change that finds it full is lost, which the
spec does not say (R469; DESIGN CHOICE, log 73). -/
def State.cwPut (s : State) (e : EpId) (k : CwSlot) : State :=
  s.modEp e fun x => { x with cwQueue := if x.cwQueue.length < 64 then x.cwQueue ++ [k] else x.cwQueue }

/-- The operations of the scoreboard: stores, atomics and waymark signals that a convoy has issued (R458). -/
def RemOp.onBoard (o : RemOp) : Bool :=
  (o.kind = .store || o.kind = .atomic || o.kind = .wmAdd) && match o.issuer with
    | .convoy _ => true
    | _ => false

/-- Whether a change clears the scoreboard entry of a sequence at a destination (R468, kind 0xC). -/
def clearsEntry (k : CwSlot) (d : EpId) (seq : BitVec 24) : Bool :=
  k.kind = 0xC && k.ep = d &&
  (k.value.setWidth 24 = seq || (k.value.getLsbD 56 && k.value.extractLsb' 28 24 = seq))

/-- An answer clears the scoreboard entry that it names, two clears to a change, where the last change waiting is a clear of the same destination
with room; the operation is kept beside the queue while its clear waits (R459, R469, kind 0xC). -/
def State.cwClear (s : State) (e d : EpId) (seq : BitVec 24) (mcast : Bool) (st : BitVec 4) : State :=
  let mine (o : RemOp) : Bool := o.snd = e && o.ackBy = d && o.onBoard && o.attempts.any fun a => a.sent && !a.answered && a.seq = seq && a.mcast = mcast
  match (s.ops ++ s.tails).find? mine with
  | none => s
  | some o =>
    let one : CwSlot := { kind := 0xC, ep := d, vc := 0, value := BitVec.ofNat 64 (seq.toNat + st.toNat * 2 ^ 24) }
    let s := s.modEp e fun x => { x with cwEnded := x.cwEnded ++ [o] }
    match (s.ep e).cwQueue.getLast? with
    | some k =>
      if k.kind = 0xC && k.ep = d && !k.value.getLsbD 56 then
        s.modEp e fun x => { x with cwQueue := x.cwQueue.dropLast ++
          [{ k with value := k.value ||| BitVec.ofNat 64 (seq.toNat * 2 ^ 28 + st.toNat * 2 ^ 52 + 2 ^ 56) }] }
      else s.cwPut e one
    | none => s.cwPut e one

/-! ### The send queue -/

/-- Change every listed element of a map whose key satisfies a test. -/
def kmapIf {α : Type} [DecidableEq α] (d : α) (m : KMap α) (f : Nat → Bool) (g : α → α) : KMap α :=
  m.foldr (fun (k, v) r => if f k then (if g v = d then kdel r k else (k, g v) :: r) else (k, v) :: r) []

/-- Put a packet in an endpoint's send queue (R432). -/
def State.enqueue (s : State) (e : EpId) (op : POp) (h : Hdr) (p : Payload) (ops : List Nat := []) : State :=
  let h := { h with hopSrc := e, origin := e }
  s.modEp e fun x => { x with outbox := x.outbox ++ [{ op, h, p, since := s.now, ops }] }

/-- Queue a control packet to one endpoint (R426). -/
def State.sendCtl (s : State) (e tgt : EpId) (op : POp) (p : Payload) (part : PartId := 0) (tag : BitVec 8 := 0) : State :=
  s.enqueue e op { hopDst := tgt, target := tgt, part, tag } p

/-- Queue a control packet to every other endpoint. -/
def State.sendAll (s : State) (e : EpId) (op : POp) (p : Payload) (part : PartId := 0) (tag : BitVec 8 := 0) : State :=
  forEach (allEps.filter (· ≠ e)) (fun t s => s.sendCtl e t op p part tag) s

/-- An entry of the send queue without the operations that a test names; none when it served no other. -/
def TxEntry.without (x : TxEntry) (f : Nat → Bool) : Option TxEntry :=
  if x.ops.any f then
    let r := x.ops.filter fun n => !f n
    if r.isEmpty then none else some { x with ops := r }
  else some x

/-- Take back the packets of operations that a test names by serial, not yet sent. -/
def State.dropQueued (s : State) (f : Nat → Bool) : State :=
  { s with eps := kmapIf {} s.eps (fun _ => true) fun e => { e with outbox := e.outbox.filterMap (·.without f) } }

/-- Forget operations: they and their packets not yet sent are discarded (R241). -/
def State.dropOps (s : State) (f : RemOp → Bool) : State :=
  let gone := (s.ops.filter f).map (·.serial)
  if gone.isEmpty then s
  else { s with ops := s.ops.filter fun o => !f o, tails := s.tails.filter fun o => !f o }.dropQueued fun n => gone.contains n

/-! ### Completion records (R543 to R545) -/

/-- The 32 bytes of a completion record with a phase (R543). -/
def Compl.bytes (c : Compl) (phase : Bool) : List Byte :=
  [BitVec.ofNat 8 (b2n phase + 2 * b2n c.last), BitVec.ofNat 8 c.d.typ, BitVec.ofNat 8 c.status,
   BitVec.ofNat 8 c.detail] ++ leBytes 2 c.d.slot ++ leBytes 1 c.d.ring ++ leBytes 1 c.lowCap ++
  leBytes 4 c.value ++ leBytes 2 c.core ++ leBytes 2 c.margin ++ leBytes 8 c.tick ++ leBytes 8 c.handle.toNat

/-- Entries of a ring (R531). -/
def Ring.entries (r : Ring) : Nat := 2 ^ (r.size + 6)
def CRing.entries (r : CRing) : Nat := 2 ^ (r.size + 6)

/-- Send the MSI-X message of a completion ring, or keep it until its moderation has passed (R545). -/
def State.msix (s : State) (p : PartId) (r : Nat) : State :=
  let b := s.part p
  if hasBit b.irq r then
    let t := b.servPort
    let v := 64 * p.val + r
    let q := s.port t
    if kget 0 q.msixNext v ≤ s.now then
      (s.modPort t fun q =>
        { q with msixNext := kput 0 q.msixNext v (s.now + (kget {} b.crings r).moder)
                 msixPend := q.msixPend.filter (· ≠ v) }).emit (.msix t v)
    else s.modPort t fun q => { q with msixPend := if q.msixPend.contains v then q.msixPend else q.msixPend ++ [v] }
  else s

/-- Whether a completion ring has room for a record (R543). -/
def CRing.room (r : CRing) : Bool := r.enabled && (r.write - r.head).toNat < r.entries

/-- Write a completion record in its ring, which has room (R543). -/
def State.writeCompl (s : State) (p : PartId) (c : Compl) : State :=
  let b := s.part p
  let r := kget {} b.crings c.d.cring
  let phase := r.write.toNat / r.entries % 2 = 0
  let s := s.modPart p fun b => { b with crings := kput {} b.crings c.d.cring { r with write := r.write + 1 } }
  (s.emit (.hostWrite b.servPort (r.base + 32 * (r.write.toNat % r.entries)) (c.bytes phase))).msix p c.d.cring

/-- Whether a gateway can write to its host: link up, in D0, its IDE not insecure (R511, R512, R587). -/
def State.hostUp (s : State) (t : PortId) : Bool :=
  let q := s.port t
  q.linkUp && !q.d3 && !q.isolated && q.ide ≠ 2

/-- Whether a register access of a port reaches the module: its link is up, and MOD_RESET_N is released (R68, R511). -/
def State.barUp (s : State) (t : PortId) : Bool := s.on && s.pw.resetN && s.hostUp t

/-- Complete: write the record, or let it wait where the ring is full, the port's link is down, or another record of the
ring waits (R537, R543). The last record of a descriptor retires it (R536). -/
def State.complete (s : State) (p : PartId) (c : Compl) : State :=
  let s := if c.last then s.modPart p fun b =>
      { b with descs := b.descs.filter fun x => !(x.d.ring = c.d.ring && x.d.slot = c.d.slot) } else s
  let b := s.part p
  if (kget {} b.crings c.d.cring).room && s.hostUp b.servPort && !(b.compl.any fun x => x.d.cring = c.d.cring) then s.writeCompl p c
  else s.modPart p fun b => { b with compl := b.compl ++ [c] }

/-- Complete a descriptor with a status and detail at the present tick. -/
def State.finish (s : State) (p : PartId) (d : DescRef) (status : Nat) (detail : Nat := 0) (value : Nat := 0)
    (core : Nat := 0xFFFF) : State :=
  s.complete p { d, last := true, status, detail, value, core, tick := s.copyNow (s.gwOf p) }

/-! ### Periods -/

/-- The tag of a period (R453). -/
def periodTag (n : Nat) : BitVec 8 := BitVec.ofNat 8 (1 + n % 255)

/-- Change the periods of a partition that satisfy a test. -/
def State.modPeriods (s : State) (p : PartId) (f : Period → Bool) (g : Period → Period) : State :=
  s.modPart p fun b => { b with periods := b.periods.map fun x => if f x then g x else x }

/-- The running period of a partition. -/
def Part.running (b : Part) : Option Period := b.periods.find? fun x => x.stage = .running

/-- The gateway sends PERIOD_FAIL to every endpoint and stops accepting the tag itself (R453, R552). -/
def State.gatewayFail (s : State) (p : PartId) (no : Nat) (tick : Nat) : State :=
  let g := s.gwOf p
  let s := s.sendAll g .periodFail (.fail (periodTag no) tick) p
  let s := s.modEp g fun e =>
    { e with tags := kmod {} e.tags p.val fun t => { t with wins := t.wins.filter (·.tag ≠ periodTag no) } }
  s.modPeriods p (·.no = no) fun x =>
    if x.sentFail.any (fun y => y.1 = g) then x else { x with sentFail := x.sentFail ++ [(g, s.now, 1)] }

/-- A cause fails a period of a partition: it is noted, and PERIOD_FAIL is multicast once (R244, R552). -/
def State.failNo (s : State) (p : PartId) (no : Nat) (f : PFail) : State :=
  match (s.part p).periods.find? (fun x => x.no = no && x.stage ≠ .noticed) with
  | none => s
  | some x =>
    let s := s.modPeriods p (·.no = no) fun y => { y with fails := y.fails ++ [f] }
    if x.fails.isEmpty then s.gatewayFail p no f.tick else s

/-- A cause fails the period of a partition that runs at its tick, the deadline tick included (R194, R244, R552, R557). -/
def State.failPeriod (s : State) (p : PartId) (f : PFail) : State :=
  match (s.part p).periods.find? (fun x => x.stage ≠ .noticed && f.tick ≤ x.deadline) with
  | none => s
  | some x => s.failNo p x.no f

/-! ### Cores that stop -/

/-- The cores of a stack that the state lists. -/
def State.coresOf (s : State) (x : StackId) : List CoreId :=
  (List.finRange 24576).filter fun g => s.cores.any (fun k => k.1 = g.val) && g.val / 1536 = x.val

/-- The listed cores of a stack, by number: those whose key lies in the stack's range. -/
def State.coreKeys (s : State) (x : StackId) : List Nat :=
  (s.cores.filter fun k => k.1 / 1536 = x.val).map (·.1)

/-- A convoy stops as at a deadline (R241): one that has not halted is idle from then on (log 23). -/
def Convoy.stop (c : Convoy) : Convoy :=
  { c with run := match c.run with
      | .halted => .halted
      | .haltedFlag => .haltedFlag
      | _ => .idle }

/-- A core stops: both convoys, and its queued copies are discarded (R241). -/
def Core.stop (c : Core) : Core := 
  { c with c0 := c.c0.stop, c1 := c.c1.stop, queue := [], flying := [], outs := [] }

/-- An operation that a core of a stack issued. -/
def RemOp.ofStack (o : RemOp) (x : StackId) : Bool :=
  match o.issuer with
  | .convoy u => u.g.val / 1536 = x.val
  | .copy g _ => g.val / 1536 = x.val
  | _ => false

/-- The clusters of a stack leave their mode; tick registers read 0 outside a period (R234). -/
def State.setModes (s : State) (x : StackId) (mode : BitVec 4) : State :=
  { s with clusters := kmapIf {} s.clusters (fun k => k / 96 = x.val) fun c =>
      { c with mode := mode, period := 0, start := 0, deadline := 0, tag := 0, done := if c.mode = 1 then c.period else c.done } }

/-- Every core of a stack stops as at a deadline, and its operations are discarded (R241). -/
def State.stopStack (s : State) (x : StackId) (mode : BitVec 4 := 0) : State :=
  let s := { s with cores := kmapIf {} s.cores (fun k => k / 1536 = x.val) Core.stop }
  (s.setModes x mode).dropOps fun o => o.ofStack x

/-! ### Kernels -/

/-- Whether every started convoy of a partition has halted (R237, R245). -/
def State.allHalted (s : State) (p : PartId) : Bool :=
  s.cores.all fun (k, c) =>
    !(hasBit (s.part p).stackMask (k / 1536)) ||
    ([c.c0, c.c1].all fun v => !v.started || (v.run = .halted || v.run = .haltedFlag || v.run = .idle))

/-- A kernel ends: every core stops, the partition is idle, and the completion record is written (R237, R245). A fault of
a convoy governs the record unless STOP or the tick limit ended the kernel without one. Copies and operations not yet sent are discarded at every
end, as R241 has it for a stop, which R245 leaves open for a kernel whose convoys have halted (R245, R246; DESIGN CHOICE, log 78). -/
def State.endKernel (s : State) (p : PartId) (status detail : Nat) : State :=
  match (s.part p).kernel with
  | none => s
  | some k =>
    let s := forEach (s.stacksOf p) (fun x s => s.stopStack x) s
    let s := s.modPart p fun b => { b with kernel := none, work := if b.work = .freeRun then .idle else b.work }
    match k.fault with
    | some (bit, core, _) => s.finish p k.d 0x0F bit 0 core
    | none => s.finish p k.d status detail

/-- The lowest set bit of the failing flags in a mask (R242). -/
def firstFailing (f : BitVec 16) : Nat := (firstBelow 16 fun i => hasBit (f &&& 0x1F40) i).getD 0

/-- A convoy of a core fails the partition's work with flags: the running period in scheduled mode (R244), or the
convoy alone in free-run, whose kernel ends when every started convoy has halted (R245). -/
def State.failWork (s : State) (g : CoreId) (f : BitVec 16) : State :=
  match s.partOfStack (coreStack g) with
  | none => s
  | some p =>
    let b := s.part p
    match b.kernel with
    | some k =>
      let tk := s.now
      let s := s.modPart p fun b => { b with kernel := some { k with fault :=
        match k.fault with
        | none => some (firstFailing f, g.val, tk)
        | some (bit, core, t) => if t = tk ∧ g.val < core then some (firstFailing f, g.val, tk) else some (bit, core, t) } }
      if s.allHalted p then s.endKernel p 0 0 else s
    | none => s.failPeriod p { status := 0x05, detail := firstFailing f, core := g.val,
                               tick := s.clusterNow (coreStack g) (coreCluster g) }

end Sys2Proof.Machine
end

