-- ==== Sys2Proof/Machine/Flags.lean ====
section
/-!
DEFINITION. The sticky flags of a convoy (R242) and what setting a failing one does (R244, R245).
-/

namespace Sys2Proof.Machine

/-- The flags of R242 as masks. -/
def flNV : BitVec 16 := 0x0001
def flDZ : BitVec 16 := 0x0002
def flOF : BitVec 16 := 0x0004
def flUF : BitVec 16 := 0x0008
def flNX : BitVec 16 := 0x0010
def flSAT : BitVec 16 := 0x0020
def flXO : BitVec 16 := 0x0040
def flIL : BitVec 16 := 0x0100
def flAF : BitVec 16 := 0x0200
def flRF : BitVec 16 := 0x0400
def flPS : BitVec 16 := 0x0800
def flWS : BitVec 16 := 0x1000

/-- The flags that fail the work (R242). -/
def failingFlags : BitVec 16 := 0x1F40

/-- The flags that the module set in a tick (R18). -/
def Convoy.freshIn (c : Convoy) (now : Nat) : BitVec 16 := if c.freshAt = now then c.fresh else 0

/-- OR flags into a convoy at a tick; one that runs halts at once when a failing flag is among them (R18, R244, R245). -/
def Convoy.flagged (c : Convoy) (now : Nat) (f : BitVec 16) : Convoy :=
  let c := { c with flags := c.flags ||| f, fresh := c.freshIn now ||| f, freshAt := now }
  if f &&& failingFlags = 0 then c else { c with run := .haltedFlag }

/-- A convoy that no longer keeps its partner waiting at FENCE.CORE (R272). -/
def CvRun.fenced : CvRun → Bool
  | .waitCore => true
  | .idle => true
  | .halted => true
  | .haltedFlag => true
  | _ => false

/-- Convoys that wait at FENCE.CORE resume when the other has reached it, or is idle or halted (R272). -/
def Core.settle (c : Core) : Core :=
  let go (a b : Convoy) : Convoy := if a.run = .waitCore && b.run.fenced then { a with run := .running } else a
  { c with c0 := go c.c0 c.c1, c1 := go c.c1 c.c0 }

/-- A convoy raises flags: they stick, and a failing one halts it and fails the work (R242, R244, R245). -/
def State.raise (s : State) (u : Cv) (f : BitVec 16) : State :=
  if f = 0 then s
  else
    let s := s.modCore u.g fun k => (k.modCv u.h fun c => c.flagged s.now f).settle
    if f &&& failingFlags = 0 then s else s.failWork u.g f

end Sys2Proof.Machine
end

