-- ==== Sys2Proof/Machine/Operands.lean ====
section
/-!
DEFINITION. The operand forms of instructions: register classes (R214, R215, R250), the active mask (R211), the
checks of an encoding (R251), the interlock of registers with remote writes (R208), and the issue of one instruction.
-/

namespace Sys2Proof

/-- The guard is not p7 inverted. -/
def Guard.ok (g : Guard) : Bool := !(g.pred = 7 && g.inv)
/-- The guard that an unguarded opcode must carry. -/
def Guard.unguarded (g : Guard) : Bool := g.pred = 7 && !g.inv
/-- The rounding code of format A. -/
def FA.rnd (f : FA) : BitVec 3 := f.mods.setWidth 3

end Sys2Proof

namespace Sys2Proof.Machine

/-! ### Registers -/

/-- Key of a thread register: lane and register (R205). -/
def vKey (lane : Fin 32) (r : Nat) : Nat := 64 * lane.val + r

/-- v[r] of a lane. -/
def Convoy.vGet (c : Convoy) (lane : Fin 32) (r : Nat) : BitVec 32 := kget 0 c.v (vKey lane r)
/-- Write v[r] of a lane. -/
def Convoy.vPut (c : Convoy) (lane : Fin 32) (r : Nat) (x : BitVec 32) : Convoy :=
  { c with v := kput 0 c.v (vKey lane r) x }

/-- s[r]: 63 names the zero register (R250). -/
def Convoy.sGet (c : Convoy) (r : BitVec 6) : BitVec 64 := if r = 63 then 0 else kget 0 c.s r.toNat
/-- Write s[r]: writes to the zero register are discarded (R250). -/
def Convoy.sPut (c : Convoy) (r : BitVec 6) (x : BitVec 64) : Convoy :=
  if r = 63 then c else { c with s := kput 0 c.s r.toNat x }

/-- The mask of p[r]: p7 reads 1 in every lane (R215). -/
def Convoy.pGet (c : Convoy) (r : Nat) : BitVec 32 := if r = 7 then 0xFFFFFFFF else kget 0 c.p r
/-- Write the active lanes of p[r]: writes to p7 are ignored (R215). -/
def Convoy.pPut (c : Convoy) (r : Nat) (active x : BitVec 32) : Convoy :=
  if r = 7 then c else { c with p := kput 0 c.p r ((kget 0 c.p r &&& ~~~active) ||| (x &&& active)) }

/-- The lanes of a mask, rising. -/
def lanesOf (m : BitVec 32) : List (Fin 32) := (List.finRange 32).filter fun l => m.getLsbD l.val

/-- A mask from a test of each lane. -/
def maskOf (f : Fin 32 → Bool) : BitVec 32 :=
  (List.finRange 32).foldl (fun m l => if f l then m ||| BitVec.ofNat 32 (2 ^ l.val) else m) 0

/-- A 64-bit thread value: a register pair, low half first (R214). -/
def Convoy.v64 (c : Convoy) (l : Fin 32) (r : Nat) : BitVec 64 := c.vGet l (r + 1) ++ c.vGet l r
/-- Write a register pair. -/
def Convoy.v64Put (c : Convoy) (l : Fin 32) (r : Nat) (x : BitVec 64) : Convoy :=
  (c.vPut l r (x.setWidth 32)).vPut l (r + 1) ((x >>> 32).setWidth 32)

/-- An XS256 octet, least significant register first (R214). -/
def Convoy.v256 (c : Convoy) (l : Fin 32) (r : Nat) : BitVec 256 :=
  (List.range 8).foldr (fun i acc => acc <<< 32 ||| (c.vGet l (r + i)).setWidth 256) 0
/-- Write an octet. -/
def Convoy.v256Put (c : Convoy) (l : Fin 32) (r : Nat) (x : BitVec 256) : Convoy :=
  (List.range 8).foldl (fun c i => c.vPut l (r + i) ((x >>> (32 * i)).setWidth 32)) c

/-- The top of the predicate stack. -/
def Convoy.top (c : Convoy) : BitVec 32 := c.stack.headD 0

/-- The active mask of a guard (R211). -/
def Convoy.active (c : Convoy) (g : Guard) : BitVec 32 :=
  let m := c.pGet g.pred.toNat
  c.top &&& (if g.inv then ~~~m else m)

/-! ### Checks of R251 -/

/-- A valid s register field (R250). -/
def okS (r : BitVec 6) : Bool := r.toNat < 32 || r = 63
/-- A valid p register field (R250). -/
def okP (r : BitVec 6) : Bool := r.toNat < 8
/-- A valid tile field (R250). -/
def okTile (r : BitVec 6) : Bool := r.toNat < 8
/-- An even register, for a pair (R214). -/
def okPair (r : BitVec 6) : Bool := r.toNat % 2 = 0
/-- A register that is a multiple of 8, for an octet (R214). -/
def okOctet (r : BitVec 6) : Bool := r.toNat % 8 = 0
/-- Only the modifier bits of a mask are used (R251, R256). -/
def okMods (m used : BitVec 16) : Bool := m &&& ~~~used = 0
/-- A rounding code that an opcode that rounds accepts (R254). -/
def okRnd (r : BitVec 3) : Bool := r.toNat < 6

/-! ### Interlock and issue -/

/-- How many registers one element of a size fills. -/
def regsOfSize (n : Nat) : Nat := if n = 32 then 8 else if n = 8 then 2 else 1

/-- The thread registers that a remote operation has still to write. -/
def RemOp.destRegs (o : RemOp) : List Nat :=
  match o.dests with
  | [] => []
  | d :: _ => (List.range (regsOfSize d.size)).map (· + o.reg.toNat)

/-- Whether a pending remote write names one of the registers (R208). -/
def State.busyRegs (s : State) (u : Cv) (regs : List Nat) : Bool :=
  s.ops.any fun o => o.issuer = .convoy u && o.destRegs.any fun r => regs.contains r

/-- Whether an acquire operation of the convoy is open (R267). -/
def State.acquiring (s : State) (u : Cv) : Bool :=
  s.ops.any fun o => o.issuer = .convoy u && o.order.getLsbD 0

/-- The registers from r that a value of n registers fills. -/
def vRange (r : BitVec 6) (n : Nat := 1) : List Nat := (List.range n).map (· + r.toNat)

/-- The convoy can issue: it runs, or is stalled on a full queue or tracker (R207, R208). -/
def Convoy.issues (c : Convoy) : Bool := c.run = .running || c.run = .stalled

/-- A core's cluster copy has reached the deadline of its period: nothing issues from then on, and nothing resumes (R241, R246). -/
def State.atDeadline (s : State) (g : CoreId) : Bool :=
  let k := s.cluster (coreStack g) (coreCluster g)
  k.mode = 1 && k.deadline ≤ s.clusterNow (coreStack g) (coreCluster g)

/-- Whether the region of a cluster is awake; work that finds it asleep waits for its clock (R40, R167). -/
def State.awakeAt (s : State) (x : StackId) (c : ClusterNo) : Bool :=
  match s.physOf x c with
  | some p => (s.region x p).depth = .awake
  | none => true

/-- Work or traffic for a cluster whose region sleeps asks for its wake (R40, R169). -/
def State.callCluster (s : State) (x : StackId) (c : ClusterNo) : State :=
  match s.physOf x c with
  | some p => s.modRegion x p fun r => { r with arrived := true }
  | none => s

/-- A convoy may issue in this step: it runs, its region's clock runs, and its period's deadline has not come (R40, R207, R208, R241). -/
def State.mayIssue (s : State) (u : Cv) : Bool :=
  (s.cv u).issues && !s.atDeadline u.g && s.awakeAt (coreStack u.g) (coreCluster u.g)

/-- Issue one instruction: the check of R251 comes before the guard and sets IL alone; a register with a pending write
stalls the convoy (R208), which leaves the state as it is; else the instruction has its effect. -/
def issue (u : Cv) (ok : Bool) (regs : List Nat) (body : State → State) (s : State) : State :=
  if s.mayIssue u then
    if !ok then s.raise u flIL
    else if s.busyRegs u regs then s
    else body s
  else s

/-- The program counter moves to the next instruction, if no failing flag has halted the convoy (R247). -/
def State.advance (s : State) (u : Cv) : State :=
  s.modCv u fun c => if c.issues then { c with pc := c.pc + 1, run := .running, stall := none, granted := none } else c

/-- The target of a branch: one before the program's start lies outside it, past every program (R271). -/
def target (pc : Nat) (off : BitVec 25) : Nat :=
  let t : Int := pc + off.toInt
  if t < 0 then 2 ^ 25 else t.toNat

/-- The convoy branches by a signed offset from the present instruction (R247, R271). -/
def State.branch (s : State) (u : Cv) (off : BitVec 25) : State :=
  s.modCv u fun c => if c.issues then { c with pc := target c.pc off, run := .running } else c

/-- An instruction that changes its own convoy and raises flags, then goes on. -/
def cvEffect (u : Cv) (f : Convoy → Convoy × BitVec 16) (s : State) : State :=
  let (c, fl) := f (s.cv u)
  ((s.modCv u fun _ => c).raise u fl).advance u

/-- Write one register in each active lane. -/
def Convoy.lanes (c : Convoy) (g : Guard) (dest : BitVec 6) (f : Fin 32 → BitVec 32) : Convoy :=
  (lanesOf (c.active g)).foldl (fun d l => d.vPut l dest.toNat (f l)) c

/-- Write a predicate in each active lane. -/
def Convoy.preds (c : Convoy) (g : Guard) (dest : BitVec 6) (f : Fin 32 → Bool) : Convoy :=
  c.pPut dest.toNat (c.active g) (maskOf f)

/-- A uniform effect: it acts once when a lane is active, and not at all otherwise (R252). -/
def Convoy.uniform (c : Convoy) (g : Guard) (f : Convoy → Convoy) : Convoy :=
  if c.active g = 0 then c else f c

end Sys2Proof.Machine
end

