-- ==== Sys2Proof/Machine/Float.lean ====
section
/-!
DEFINITION. Floating-point formats, exact values and their rounding (R275 to R277, R284, R285, R289, R290), the
stochastic-rounding generators (R286 to R288), and the correctly rounded functions of R289 on exact values.
-/

namespace Sys2Proof.Machine

/-! ### Formats (R275) -/

/-- A format: exponent and mantissa bits, bias, whether the top exponent field holds infinities and NaNs, whether its
NaNs can signal, the encoding of the largest finite magnitude, and the canonical NaN (R275, R277). -/
structure Fmt where
  exp : Nat
  mant : Nat
  bias : Nat
  ieee : Bool
  signals : Bool
  maxEnc : Nat
  canon : Nat
  deriving DecidableEq, Repr

def fp64 : Fmt := ⟨11, 52, 1023, true, true, 0x7FEFFFFFFFFFFFFF, 0x7FF8000000000000⟩
def fp32 : Fmt := ⟨8, 23, 127, true, true, 0x7F7FFFFF, 0x7FC00000⟩
def bf16 : Fmt := ⟨8, 7, 127, true, true, 0x7F7F, 0x7FC0⟩
def fp16 : Fmt := ⟨5, 10, 15, true, true, 0x7BFF, 0x7E00⟩
def e4m3 : Fmt := ⟨4, 3, 7, false, false, 0x7E, 0x7F⟩
def e5m2 : Fmt := ⟨5, 2, 15, true, false, 0x7B, 0x7E⟩
def e3m2 : Fmt := ⟨3, 2, 3, false, false, 0x1F, 0⟩
def e2m3 : Fmt := ⟨2, 3, 1, false, false, 0x1F, 0⟩
def e2m1 : Fmt := ⟨2, 1, 1, false, false, 0x7, 0⟩

/-- Bits below the sign. -/
def Fmt.low (F : Fmt) : Nat := F.exp + F.mant
/-- The exponent of the unit in the last place of a subnormal. -/
def Fmt.qmin (F : Fmt) : Int := 1 - F.bias - F.mant

/-- A value: NaN (signalling or not), an infinity, or (-1)^neg * m * 2^e. -/
inductive FVal where
  | nan (sig : Bool)
  | inf (neg : Bool)
  | fin (neg : Bool) (m : Nat) (e : Int)
  deriving DecidableEq, Repr

/-- The value that bits encode (R275, R277). -/
def Fmt.decode (F : Fmt) (x : Nat) : FVal :=
  let neg := x / 2 ^ F.low % 2 = 1
  let ef := x / 2 ^ F.mant % 2 ^ F.exp
  let mf := x % 2 ^ F.mant
  if F.ieee && ef = 2 ^ F.exp - 1 then
    if mf = 0 then .inf neg else .nan (F.signals && mf < 2 ^ (F.mant - 1))
  else if F = e4m3 && x % 128 = 127 then .nan false
  else if ef = 0 then .fin neg mf F.qmin
  else .fin neg (mf + 2 ^ F.mant) (ef - F.bias - F.mant)

/-- The bits of a signed magnitude. -/
def Fmt.signed (F : Fmt) (neg : Bool) (enc : Nat) : Nat := b2n neg * 2 ^ F.low + enc

/-! ### Rounding (R254, R284, R285) -/

/-- Round m * 2^e, with a positive excess below one unit of 2^e when sticky, to a multiple of 2^q: the multiple and whether
it is inexact. Mode as the rounding code, r the draw of mode 5. -/
def roundAt (mode : Nat) (r : Nat) (neg : Bool) (m : Nat) (e q : Int) (sticky : Bool) : Nat × Bool :=
  let sh := (q - e).toNat
  let mag := if q ≤ e then m * 2 ^ (e - q).toNat else m / 2 ^ sh
  let rem := if q ≤ e then 0 else m % 2 ^ sh
  let inexact := rem ≠ 0 || sticky
  let up : Bool := inexact && (
    if mode = 0 then 2 ^ sh < 2 * rem || (2 * rem = 2 ^ sh && (sticky || mag % 2 = 1))
    else if mode = 2 then neg
    else if mode = 3 then !neg
    else if mode = 4 then 2 ^ sh ≤ 2 * rem
    else if mode = 5 then r < 2 ^ 32 * rem / 2 ^ sh
    else false)
  (mag + b2n up, inexact)

/-- The quantum of a value in a format. -/
def Fmt.quantum (F : Fmt) (m : Nat) (e : Int) : Int := max ((m.log2 : Int) + e - F.mant) F.qmin

/-- The magnitude encoding of a rounded value, as if the exponent field had no end. -/
def Fmt.enc (F : Fmt) (mag : Nat) (q : Int) : Nat := mag + (q - F.qmin).toNat * 2 ^ F.mant

/-- Whether a value lies beyond the largest finite one. -/
def Fmt.beyond (F : Fmt) (m : Nat) (e : Int) (sticky : Bool) : Bool :=
  let q := F.quantum m e
  let (t, i) := roundAt 1 0 false m e q sticky
  F.maxEnc < F.enc t q || (F.enc t q = F.maxEnc && i)

/-- Tiny after rounding: rounded with no end to the exponent, the magnitude lies below the smallest normal (R290; log 26). -/
def Fmt.tiny (F : Fmt) (mode r : Nat) (neg : Bool) (m : Nat) (e : Int) (sticky : Bool) : Bool :=
  let q := (m.log2 : Int) + e - F.mant
  q < F.qmin && !(q + 1 = F.qmin && (roundAt mode r neg m e q sticky).1 = 2 ^ (F.mant + 1))

/-- Whether an overflow in a mode goes to infinity (R289). -/
def overInf (mode : Nat) (neg : Bool) : Bool :=
  if mode = 1 then false else if mode = 2 then neg else if mode = 3 then !neg else true

/-- Round a non-zero exact value into a format: bits and flags. Stochastic rounding beyond the largest finite value is RNE
(R285). Where sat holds, a value that rounds past the largest finite one becomes it, with SAT and NX. -/
def Fmt.round (F : Fmt) (sat : Bool) (mode r : Nat) (neg : Bool) (m : Nat) (e : Int) (sticky : Bool) : Nat × BitVec 16 :=
  let mode := if mode = 5 && F.beyond m e sticky then 0 else mode
  let q := F.quantum m e
  let (mag, inex) := roundAt mode r neg m e q sticky
  let enc := F.enc mag q
  if F.maxEnc < enc then
    if sat then (F.signed neg F.maxEnc, flSAT ||| flNX)
    else (F.signed neg (if overInf mode neg then F.maxEnc + 1 else F.maxEnc), flOF ||| flNX)
  else (F.signed neg enc,
    if inex then flNX ||| (if F.tiny mode r neg m e sticky then flUF else 0) else 0)

/-! ### Exact results -/

/-- The exact result of an operation: NaN, an infinity, a signed zero, or a non-zero number with its excess. -/
inductive Raw where
  | nan
  | inf (neg : Bool)
  | zero (neg : Bool)
  | num (neg : Bool) (m : Nat) (e : Int) (sticky : Bool)
  deriving DecidableEq, Repr

/-- Round an exact result into a format (R277, R289). -/
def Fmt.result (F : Fmt) (mode r : Nat) : Raw → Nat × BitVec 16
  | .nan => (F.canon, 0)
  | .inf n => (F.signed n (F.maxEnc + 1), 0)
  | .zero n => (F.signed n 0, 0)
  | .num n m e st => F.round false mode r n m e st

/-- A number as a raw result, zero with the sign given. -/
def Raw.ofNum (neg : Bool) (m : Nat) (e : Int) (sticky : Bool := false) : Raw :=
  if m = 0 && !sticky then .zero neg else .num neg m e sticky

/-- A signed integer times 2^e; zero takes the sign given. -/
def Raw.ofInt (n : Int) (e : Int) (zneg : Bool) : Raw :=
  if n = 0 then .zero zneg else .num (n < 0) n.natAbs e false

/-- A finite value as an integer multiple of 2^e0. -/
def scaled (neg : Bool) (m : Nat) (e e0 : Int) : Int :=
  let x : Int := m * 2 ^ (e - e0).toNat
  if neg then -x else x

/-- Whether a value is a NaN, and whether it signals. -/
def FVal.isNan : FVal → Bool
  | .nan _ => true
  | _ => false
def FVal.isSig : FVal → Bool
  | .nan s => s
  | _ => false
/-- A value with its sign changed, and its absolute value (R256). -/
def FVal.negate : FVal → FVal
  | .nan s => .nan s
  | .inf n => .inf !n
  | .fin n m e => .fin (!n) m e
def FVal.abs : FVal → FVal
  | .nan s => .nan s
  | .inf _ => .inf false
  | .fin _ m e => .fin false m e
def FVal.isZero : FVal → Bool
  | .fin _ 0 _ => true
  | _ => false
def FVal.isNeg : FVal → Bool
  | .nan _ => false
  | .inf n => n
  | .fin n _ _ => n

/-- Exact sum (R289): a zero of unlike signs is +0, and -0 under RDN. -/
def addRaw (mode : Nat) : FVal → FVal → Raw × BitVec 16
  | .inf a, .inf b => if a = b then (.inf a, 0) else (.nan, flNV)
  | .inf a, _ => (.inf a, 0)
  | _, .inf b => (.inf b, 0)
  | .fin n m e, .fin n' m' e' =>
    let e0 := min e e'
    (Raw.ofInt (scaled n m e e0 + scaled n' m' e' e0) e0
      (if m = 0 && m' = 0 && n = n' then n else mode = 2), 0)
  | _, _ => (.nan, 0)

/-- Exact product. -/
def mulRaw : FVal → FVal → Raw × BitVec 16
  | .inf a, y => if y.isZero then (.nan, flNV) else (.inf (a != y.isNeg), 0)
  | x, .inf b => if x.isZero then (.nan, flNV) else (.inf (x.isNeg != b), 0)
  | .fin n m e, .fin n' m' e' => (Raw.ofNum (n != n') (m * m') (e + e'), 0)
  | _, _ => (.nan, 0)

/-- A raw product as a value to add to. -/
def Raw.toVal : Raw → FVal
  | .nan => .nan false
  | .inf n => .inf n
  | .zero n => .fin n 0 0
  | .num n m e _ => .fin n m e

/-- Any NaN operand gives the canonical NaN, with NV when one signals (R277, R290). -/
def nanGuard (xs : List FVal) (k : Raw × BitVec 16) : Raw × BitVec 16 :=
  if xs.any FVal.isNan then (.nan, if xs.any FVal.isSig then flNV else 0) else k

/-- Exact fused product and sum, one rounding to come (R289). -/
def fmaRaw (mode : Nat) (x y z : FVal) : Raw × BitVec 16 :=
  let p := mulRaw x y
  if x.isNan || y.isNan || z.isNan then
    (.nan, if x.isSig || y.isSig || z.isSig then flNV
      else if !x.isNan && !y.isNan && p.1 = .nan && Config.fmaQuietInvalid then flNV else 0)
  else match p with
    | (.nan, f) => (.nan, f)
    | (r, _) => addRaw mode r.toVal z

/-- Extra bits of quotients and roots. -/
def guardBits : Nat := 192

/-- Exact quotient to well past the rounding bit, with its excess (R289). -/
def divRaw : FVal → FVal → Raw × BitVec 16
  | .inf a, .inf _ => (.nan, flNV)
  | .inf a, y => (.inf (a != y.isNeg), 0)
  | x, .inf b => (.zero (x.isNeg != b), 0)
  | .fin n m e, .fin n' m' e' =>
    if m' = 0 then if m = 0 then (.nan, flNV) else (.inf (n != n'), flDZ)
    else if m = 0 then (.zero (n != n'), 0)
    else
      let k := guardBits + m'.log2
      (.num (n != n') (m * 2 ^ k / m') (e - e' - k) (m * 2 ^ k % m' ≠ 0), 0)
  | _, _ => (.nan, 0)

/-- Newton's iteration for the integer square root, from above. -/
def isqrtStep : Nat → Nat → Nat → Nat
  | 0, _, x => x
  | k + 1, n, x => let y := (x + n / x) / 2; if y < x then isqrtStep k n y else x

/-- The integer square root. -/
def isqrt (n : Nat) : Nat := if n = 0 then 0 else isqrtStep (n.log2 + 8) n (2 ^ (n.log2 / 2 + 1))

/-- Square root (R289): of -0 it is -0, of other negatives invalid. -/
def sqrtRaw : FVal → Raw × BitVec 16
  | .inf false => (.inf false, 0)
  | .inf true => (.nan, flNV)
  | .fin n m e =>
    if m = 0 then (.zero n, 0)
    else if n then (.nan, flNV)
    else
      let k : Nat := 2 * guardBits + (e % 2).toNat
      let x := m * 2 ^ k
      let r := isqrt x
      (.num false r ((e - k) / 2) (r * r ≠ x), 0)
  | .nan _ => (.nan, 0)

/-- Reciprocal square root: of a zero an infinity of its sign with DZ, of other negatives invalid (R289). -/
def rsqrtRaw : FVal → Raw × BitVec 16
  | .inf false => (.zero false, 0)
  | .inf true => (.nan, flNV)
  | .fin n m e =>
    if m = 0 then (.inf n, flDZ)
    else if n then (.nan, flNV)
    else
      let k : Nat := 2 * (guardBits + m.log2) + (e % 2).toNat
      let r := isqrt (2 ^ k / m)
      (.num false r (-((e + k) / 2)) (r * r * m ≠ 2 ^ k), 0)
  | .nan _ => (.nan, 0)

/-- Working bits of EXP2 and LOG2. -/
def expBits : Nat := 320

/-- 2^f for the bits of f from bit i down, f a fraction of i bits above 2^-expBits: the product of iterated square roots. -/
def exp2Frac : Nat → Nat → Nat → Nat → Nat
  | 0, _, _, acc => acc
  | i + 1, f, root, acc =>
    let root := isqrt (root * 2 ^ expBits)
    exp2Frac i f root (if f / 2 ^ i % 2 = 1 then acc * root / 2 ^ expBits else acc)

/-- 2^x (R289): exact for integers, else the product over the bits of the fraction (log 27). -/
def exp2Raw : FVal → Raw × BitVec 16
  | .inf n => (if n then .zero false else .inf false, 0)
  | .nan _ => (.nan, 0)
  | .fin n m e =>
    if m = 0 then (.num false 1 0 false, 0)
    else if (m.log2 : Int) + e > 13 then
      (if n then .num false 1 (-(2 ^ 14)) true else .num false 1 (2 ^ 14) true, 0)
    else if (m.log2 : Int) + e < -100 then
      (if n then .num false (2 ^ expBits - 1) (-expBits) true else .num false (2 ^ expBits) (-expBits) true, 0)
    else
      let x := scaled n m (e + expBits) 0
      let k := x / 2 ^ expBits
      let f := (x % 2 ^ expBits).toNat
      if f = 0 then (.num false 1 k false, 0)
      else
        let y := exp2Frac expBits f (2 ^ (expBits + 1)) (2 ^ expBits)
        (.num false (y / 2 ^ 16) (k - expBits + 16) true, 0)

/-- Fraction bits of a base-2 logarithm, by repeated squaring of y, a number in [1, 2) of w fraction bits. -/
def log2Frac (w : Nat) : Nat → Nat → Nat → Nat
  | 0, _, acc => acc
  | k + 1, y, acc =>
    let z := y * y / 2 ^ w
    if 2 ^ (w + 1) ≤ z then log2Frac w k (z / 2) (2 * acc + 1) else log2Frac w k z (2 * acc)

/-- log2 x (R289): exact for powers of two, else 300 fraction bits (log 27). -/
def log2Raw : FVal → Raw × BitVec 16
  | .inf false => (.inf false, 0)
  | .inf true => (.nan, flNV)
  | .nan _ => (.nan, 0)
  | .fin n m e =>
    if m = 0 then (.inf true, flDZ)
    else if n then (.nan, flNV)
    else
      let k : Int := (m.log2 : Int) + e
      if m = 2 ^ m.log2 then (Raw.ofInt k 0 false, 0)
      else
        let l := log2Frac 700 300 (m * 2 ^ (700 - m.log2)) 0
        let t : Int := k * 2 ^ 300 + l
        if 0 ≤ t then (.num false t.toNat (-300) true, 0) else (.num true (-t - 1).toNat (-300) true, 0)

/-! ### Generators (R287, R288) -/

/-- One draw: the generator's next state and the 32 bits drawn (R287). -/
def drawStep (g : BitVec 64) : BitVec 64 × BitVec 32 :=
  let g := g + 0x9E3779B97F4A7C15
  let z := (g ^^^ (g >>> 30)) * 0xBF58476D1CE4E5B9
  let z := (z ^^^ (z >>> 27)) * 0x94D049BB133111EB
  let z := z ^^^ (z >>> 31)
  (g, (z >>> 32).setWidth 32)

/-- The seed of a thread's generator (R288). -/
def seedGen (seed : BitVec 64) (g t : Nat) : BitVec 64 :=
  seed ^^^ (BitVec.ofNat 64 (g * 64 + t) * 0xD1B54A32D192ED03)

/-- Draw from a lane's generator. -/
def Convoy.draw (c : Convoy) (l : Fin 32) : Convoy × Nat :=
  let (g, d) := drawStep (kget 0 c.gens l.val)
  ({ c with gens := kput 0 c.gens l.val g }, d.toNat)

/-- Draw when the mode is stochastic. -/
def Convoy.drawIf (c : Convoy) (mode : Nat) (l : Fin 32) : Convoy × Nat := if mode = 5 then c.draw l else (c, 0)

end Sys2Proof.Machine
end

