-- ==== Sys2Proof/Machine/Integer.lean ====
section
/-!
DEFINITION. Integer, predicate and lane instructions (R257).
-/

namespace Sys2Proof.Machine

/-! ### Shared forms -/

/-- Modifier bits of R256. -/
def mdU2 : BitVec 16 := 0x0200
def mdUns : BitVec 16 := 0x0100
def mdSat : BitVec 16 := 0x0080
def mdLane : BitVec 16 := 0x7C00

/-- The second source of a register form: a thread register, or the low half of an s register in every lane (R256). -/
def Convoy.src2 (c : Convoy) (f : FA) (l : Fin 32) : BitVec 32 :=
  if f.mods.getLsbD 9 then (c.sGet f.src2).setWidth 32 else c.vGet l f.src2.toNat

/-- The check of a register form of two or three integer sources (R251, R256). -/
def okInt (f : FA) (used : BitVec 16) (three : Bool := false) : Bool :=
  f.gd.ok && f.typ = 0xC && okMods f.mods used && (three || f.src3 = 0) && (!f.mods.getLsbD 9 || okS f.src2)

/-- The check of an immediate form (R251, R257). -/
def okIntImm (f : FB) (shift : Bool) : Bool :=
  f.gd.ok && f.typ = 0xC && f.rnd = 0 && (!shift || f.imm.toNat < 32)

/-- The thread registers that a register form names. -/
def intRegs (f : FA) : List Nat :=
  [f.dest.toNat, f.src1.toNat] ++ (if f.mods.getLsbD 9 then [] else [f.src2.toNat])

/-- An integer operation of two sources in each active lane, in either form. The operation sees Unsigned and Saturate. -/
def intBin (u : Cv) (x : FAB) (used : BitVec 16) (op : Bool → Bool → BitVec 32 → BitVec 32 → BitVec 32)
    (shift : Bool := false) : State → State :=
  match x with
  | .reg f => issue u (okInt f used) (intRegs f) <| cvEffect u fun c =>
      (c.lanes f.gd f.dest fun l => op (f.mods.getLsbD 8) (f.mods.getLsbD 7) (c.vGet l f.src1.toNat) (c.src2 f l), 0)
  | .imm f => issue u (okIntImm f shift) [f.dest.toNat, f.src1.toNat] <| cvEffect u fun c =>
      (c.lanes f.gd f.dest fun l => op false false (c.vGet l f.src1.toNat) (f.imm.signExtend 32), 0)

/-- A register form with one thread source (R257). -/
def intUn (u : Cv) (f : FA) (op : BitVec 32 → BitVec 32) : State → State :=
  issue u (okInt f 0 && f.src2 = 0) [f.dest.toNat, f.src1.toNat] <| cvEffect u fun c =>
    (c.lanes f.gd f.dest fun l => op (c.vGet l f.src1.toNat), 0)

/-- Clamp an exact result to INT32 or UINT32 (R256). -/
def clamp32 (uns : Bool) (x : Int) : BitVec 32 :=
  if uns then BitVec.ofInt 32 (max 0 (min x 4294967295)) else BitVec.ofInt 32 (max (-2147483648) (min x 2147483647))

/-- An operand as the integer it stands for. -/
def int32 (uns : Bool) (x : BitVec 32) : Int := if uns then x.toNat else x.toInt

/-- Wrap, or clamp under Saturate (R256, R278). -/
def wrapOrClamp (uns sat : Bool) (x : Int) : BitVec 32 := if sat then clamp32 uns x else BitVec.ofInt 32 x

/-- Bits set in a word, and zeros above the highest (R257). -/
def popc32 (x : BitVec 32) : BitVec 32 := BitVec.ofNat 32 (popCount x)
def clz32 (x : BitVec 32) : BitVec 32 :=
  BitVec.ofNat 32 (match (List.range 32).find? fun i => x.getLsbD (31 - i) with | some i => i | none => 32)

/-- A comparison of integers (R257, R258, R261). -/
def cmpInt (k : Cmp) (a b : Int) : Bool :=
  match k with
  | .eq => a = b
  | .ne => a ≠ b
  | .lt => a < b
  | .le => a ≤ b
  | .gt => b < a
  | .ge => b ≤ a

/-- A predicate operation; the modifier bit of a uniform src2 is reserved in it, which the spec leaves open (R256, R257; DESIGN CHOICE, log 76). -/
def predBin (u : Cv) (f : FA) (one : Bool) (op : BitVec 32 → BitVec 32 → BitVec 32) : State → State :=
  issue u (okInt f 0 && okP f.dest && okP f.src1 && okP f.src2 && (!one || f.src2 = 0)) [] <| cvEffect u fun c =>
    (c.pPut f.dest.toNat (c.active f.gd) (op (c.pGet f.src1.toNat) (c.pGet f.src2.toNat)), 0)

/-! ### Meanings -/

def execIntAdd (u : Cv) (x : FAB) (s : State) : Res :=
  .next (intBin u x (mdU2 ||| mdUns ||| mdSat) (fun n t a b => wrapOrClamp n t (int32 n a + int32 n b)) false s)

def execIntSub (u : Cv) (x : FAB) (s : State) : Res :=
  .next (intBin u x (mdU2 ||| mdUns ||| mdSat) (fun n t a b => wrapOrClamp n t (int32 n a - int32 n b)) false s)

def execIntMul (u : Cv) (x : FAB) (s : State) : Res :=
  .next (intBin u x (mdU2 ||| mdUns) (fun _ _ a b => a * b) false s)

def execMulhi (u : Cv) (f : FA) (s : State) : Res :=
  .next (intBin u (.reg f) (mdU2 ||| mdUns)
    (fun n _ a b => BitVec.ofInt 32 (int32 n a * int32 n b / 4294967296)) false s)

def execMad (u : Cv) (f : FA) (s : State) : Res :=
  .next (issue u (okInt f (mdU2 ||| mdUns ||| mdSat) true) (f.src3.toNat :: intRegs f) (cvEffect u fun c =>
    let n := f.mods.getLsbD 8
    (c.lanes f.gd f.dest fun l => wrapOrClamp n (f.mods.getLsbD 7)
      (int32 n (c.vGet l f.src1.toNat) * int32 n (c.src2 f l) + int32 n (c.vGet l f.src3.toNat)), 0)) s)

def execIntMin (u : Cv) (x : FAB) (s : State) : Res :=
  .next (intBin u x (mdU2 ||| mdUns) (fun n _ a b => if int32 n b < int32 n a then b else a) false s)

def execIntMax (u : Cv) (x : FAB) (s : State) : Res :=
  .next (intBin u x (mdU2 ||| mdUns) (fun n _ a b => if int32 n a < int32 n b then b else a) false s)

def execIntAnd (u : Cv) (x : FAB) (s : State) : Res :=
  .next (intBin u x mdU2 (fun _ _ a b => a &&& b) false s)

def execIntOr (u : Cv) (x : FAB) (s : State) : Res :=
  .next (intBin u x mdU2 (fun _ _ a b => a ||| b) false s)

def execIntXor (u : Cv) (x : FAB) (s : State) : Res :=
  .next (intBin u x mdU2 (fun _ _ a b => a ^^^ b) false s)

def execIntShl (u : Cv) (x : FAB) (s : State) : Res :=
  .next (intBin u x mdU2 (fun _ _ a b => a <<< (b.toNat % 32)) true s)

def execIntShr (u : Cv) (x : FAB) (s : State) : Res :=
  .next (intBin u x (mdU2 ||| mdUns)
    (fun n _ a b => if n then a >>> (b.toNat % 32) else a.sshiftRight (b.toNat % 32)) true s)

def execPopc (u : Cv) (f : FA) (s : State) : Res := .next (intUn u f popc32 s)

def execClz (u : Cv) (f : FA) (s : State) : Res := .next (intUn u f clz32 s)

def execIntCmp (u : Cv) (k : Cmp) (x : FAB) (s : State) : Res :=
  .next (match x with
    | .reg f => issue u (okInt f (mdU2 ||| mdUns) && okP f.dest) ((intRegs f).drop 1) (cvEffect u fun c =>
        let n := f.mods.getLsbD 8
        (c.preds f.gd f.dest fun l => cmpInt k (int32 n (c.vGet l f.src1.toNat)) (int32 n (c.src2 f l)), 0)) s
    | .imm f => issue u (okIntImm f false && okP f.dest) [f.src1.toNat] (cvEffect u fun c =>
        (c.preds f.gd f.dest fun l => cmpInt k (c.vGet l f.src1.toNat).toInt f.imm.toInt, 0)) s)

def execSel (u : Cv) (f : FA) (s : State) : Res :=
  .next (issue u (okInt f mdU2 true && okP f.src3) (intRegs f) (cvEffect u fun c =>
    (c.lanes f.gd f.dest fun l =>
      if (c.pGet f.src3.toNat).getLsbD l.val then c.vGet l f.src1.toNat else c.src2 f l, 0)) s)

def execIntMov (u : Cv) (x : FAB) (s : State) : Res :=
  .next (match x with
    | .reg f => intUn u f id s
    | .imm f => issue u (okIntImm f false && f.src1 = 0) [f.dest.toNat] (cvEffect u fun c =>
        (c.lanes f.gd f.dest fun _ => f.imm.signExtend 32, 0)) s)

def execMovSv (u : Cv) (f : FA) (s : State) : Res :=
  .next (issue u (okInt f 0 && f.src2 = 0 && okS f.src1) [f.dest.toNat] (cvEffect u fun c =>
    (c.lanes f.gd f.dest fun _ => (c.sGet f.src1).setWidth 32, 0)) s)

def execMovVs (u : Cv) (f : FA) (s : State) : Res :=
  .next (issue u (okInt f mdLane && f.src2 = 0 && okS f.dest) [f.src1.toNat] (cvEffect u fun c =>
    (c.uniform f.gd fun c => c.sPut f.dest
      ((c.vGet ⟨f.mods.toNat / 1024 % 32, by omega⟩ f.src1.toNat).setWidth 64), 0)) s)

def execShfl (u : Cv) (f : FA) (s : State) : Res :=
  .next (issue u (okInt f mdU2) (intRegs f) (cvEffect u fun c =>
    (c.lanes f.gd f.dest fun l => c.vGet ⟨(c.src2 f l).toNat % 32, by omega⟩ f.src1.toNat, 0)) s)

def execVote (u : Cv) (f : FA) (s : State) : Res :=
  .next (issue u (okInt f 0 && f.src2 = 0 && okP f.src1 && okS f.dest) [] (cvEffect u fun c =>
    (c.uniform f.gd fun d => d.sPut f.dest ((c.active f.gd &&& c.pGet f.src1.toNat).setWidth 64), 0)) s)

def execPand (u : Cv) (f : FA) (s : State) : Res := .next (predBin u f false (· &&& ·) s)

def execPor (u : Cv) (f : FA) (s : State) : Res := .next (predBin u f false (· ||| ·) s)

def execPxor (u : Cv) (f : FA) (s : State) : Res := .next (predBin u f false (· ^^^ ·) s)

def execPnot (u : Cv) (f : FA) (s : State) : Res := .next (predBin u f true (fun a _ => ~~~a) s)

end Sys2Proof.Machine
end

