-- ==== Sys2Proof/Machine/VecFp.lean ====
section
/-!
DEFINITION. Vector floating-point instructions (R259, R289 to R294).
-/

namespace Sys2Proof.Machine

/-- The format of a vector type code (R253). -/
def vecFmt (t : BitVec 4) : Option Fmt :=
  if t = 0 then some fp64 else if t = 1 then some fp32 else if t = 2 then some bf16 else if t = 3 then some fp16 else none

/-- Read an element of a format from a lane: a pair for FP64, the low bits otherwise (R214, R259). -/
def Convoy.fGet (c : Convoy) (F : Fmt) (l : Fin 32) (r : BitVec 6) : Nat :=
  if F = fp64 then (c.v64 l r.toNat).toNat else (c.vGet l r.toNat).toNat % 2 ^ (F.low + 1)

/-- Write an element: bits above a narrow result are cleared (R259). -/
def Convoy.fPut (c : Convoy) (F : Fmt) (l : Fin 32) (r : BitVec 6) (x : Nat) : Convoy :=
  if F = fp64 then c.v64Put l r.toNat (BitVec.ofNat 64 x) else c.vPut l r.toNat (BitVec.ofNat 32 x)

/-- Registers that one element of a format fills. -/
def fWidth (F : Fmt) : Nat := if F = fp64 then 2 else 1

/-- A register that can hold an element of a format (R214). -/
def okF (F : Fmt) (r : BitVec 6) : Bool := F ≠ fp64 || okPair r

/-- Modifier bits that floating point uses (R256). -/
def mdFp : BitVec 16 := 0x0250
def mdFp1 : BitVec 16 := 0x0050
def mdNeg3 : BitVec 16 := 0x0020
def mdRnd : BitVec 16 := 0x0007

/-- src1 after Absolute and Negate (R256; Absolute acts first, log 28). -/
def Convoy.fSrc1 (c : Convoy) (F : Fmt) (f : FA) (l : Fin 32) : FVal :=
  let x := F.decode (c.fGet F l f.src1)
  let x := if f.mods.getLsbD 6 then x.abs else x
  if f.mods.getLsbD 4 then x.negate else x

/-- src2: a thread register, or an s register in every lane (R256). -/
def Convoy.fSrc2 (c : Convoy) (F : Fmt) (f : FA) (l : Fin 32) : FVal :=
  F.decode (if f.mods.getLsbD 9 then (c.sGet f.src2).toNat % 2 ^ (F.low + 1) else c.fGet F l f.src2)

/-- The value of a floating-point immediate (R259). -/
def fImm (F : Fmt) (i : BitVec 25) : Nat :=
  if F = fp64 then i.toNat * 2 ^ 39 else if F = fp32 then i.toNat * 2 ^ 7 else i.toNat % 65536

/-- An immediate that the type lists (R251, R259). -/
def okFImm (F : Fmt) (i : BitVec 25) : Bool := F = fp64 || F = fp32 || i.toNat < 65536

/-- A register form's check: type, modifiers, registers, and the rounding code. -/
def okFp (F : Fmt) (f : FA) (used : BitVec 16) (rounds : Bool) : Bool :=
  f.gd.ok && okMods f.mods (used ||| mdRnd) && (if rounds then okRnd f.rnd else f.rnd = 0) && okF F f.src1 &&
  (if f.mods.getLsbD 9 then okS f.src2 else okF F f.src2)

/-- An immediate form's check. -/
def okFpImm (F : Fmt) (f : FB) (rounds : Bool) : Bool :=
  f.gd.ok && (if rounds then okRnd f.rnd else f.rnd = 0) && okF F f.src1 && okFImm F f.imm

/-- The registers that a register form names. -/
def fpRegs (F : Fmt) (f : FA) (dest : Bool) (three : Bool := false) : List Nat :=
  let w := fWidth F
  (if dest then vRange f.dest w else []) ++ vRange f.src1 w ++ (if f.mods.getLsbD 9 then [] else vRange f.src2 w) ++
  (if three then vRange f.src3 w else [])

/-- Round one lane's exact result into its register, drawing when the operation rounds (R286). -/
def fpLane (F : Fmt) (rounds : Bool) (mode : Nat) (dest : BitVec 6) (op : Fin 32 → Raw × BitVec 16)
    (st : Convoy × BitVec 16) (l : Fin 32) : Convoy × BitVec 16 :=
  let (c, r) := if rounds then st.1.drawIf mode l else (st.1, 0)
  let (raw, f1) := op l
  let (x, f2) := F.result mode r raw
  (c.fPut F l dest x, st.2 ||| f1 ||| f2)

/-- An operation that yields a value in each active lane. Operands are read before any lane is written. -/
def fpEach (F : Fmt) (rounds : Bool) (mode : Nat) (g : Guard) (dest : BitVec 6) (c : Convoy)
    (op : Fin 32 → Raw × BitVec 16) : Convoy × BitVec 16 :=
  (lanesOf (c.active g)).foldl (fpLane F rounds mode dest op) (c, 0)

/-- A value as an exact result, a NaN as the canonical one. -/
def FVal.raw : FVal → Raw
  | .nan _ => .nan
  | .inf n => .inf n
  | .fin n m e => Raw.ofNum n m e

/-- A two-source operation in either form; the operation sees the rounding mode. -/
def fpBin (u : Cv) (x : FAB) (rounds : Bool) (op : Nat → FVal → FVal → Raw × BitVec 16) (s : State) : State :=
  match x with
  | .reg f => match vecFmt f.typ with
    | none => issue u false [] id s
    | some F => issue u (okFp F f mdFp rounds && f.src3 = 0 && okF F f.dest) (fpRegs F f true) (cvEffect u fun c =>
        let mode := f.rnd.toNat
        fpEach F rounds mode f.gd f.dest c fun l => op mode (c.fSrc1 F f l) (c.fSrc2 F f l)) s
  | .imm f => match vecFmt f.typ with
    | none => issue u false [] id s
    | some F => issue u (okFpImm F f rounds && okF F f.dest) (vRange f.dest (fWidth F) ++ vRange f.src1 (fWidth F))
        (cvEffect u fun c =>
          let mode := f.rnd.toNat
          fpEach F rounds mode f.gd f.dest c fun l => op mode (F.decode (c.fGet F l f.src1)) (F.decode (fImm F f.imm))) s

/-- A one-source operation that rounds. -/
def fpUn (u : Cv) (f : FA) (op : FVal → Raw × BitVec 16) (s : State) : State :=
  match vecFmt f.typ with
  | none => issue u false [] id s
  | some F => issue u (okFp F f mdFp1 true && f.src2 = 0 && f.src3 = 0 && okF F f.dest)
      (vRange f.dest (fWidth F) ++ vRange f.src1 (fWidth F)) (cvEffect u fun c =>
        fpEach F true f.rnd.toNat f.gd f.dest c fun l =>
          let x := c.fSrc1 F f l
          nanGuard [x] (op x)) s

/-- An ordering of values that are not NaN: -1, 0 or 1; zeros are equal. -/
def FVal.order : FVal → FVal → Int
  | .inf a, .inf b => if a = b then 0 else if a then -1 else 1
  | .inf a, _ => if a then -1 else 1
  | _, .inf b => if b then 1 else -1
  | .fin n m e, .fin n' m' e' =>
    let e0 := min e e'
    let x := scaled n m e e0
    let y := scaled n' m' e' e0
    if x < y then -1 else if y < x then 1 else 0
  | _, _ => 0

/-- Minimum or maximum (R291): -0 below +0; one NaN gives the other operand; a signalling NaN sets NV. -/
def minMaxRaw (mx : Bool) (x y : FVal) : Raw × BitVec 16 :=
  let f := if x.isSig || y.isSig then flNV else 0
  if x.isNan && y.isNan then (.nan, f)
  else if x.isNan then (y.raw, f)
  else if y.isNan then (x.raw, f)
  else
    let o := x.order y
    let xLess : Bool := o < 0 || (o = 0 && x.isNeg)
    ((if xLess != mx then x else y).raw, f)

/-- Ordered comparison (R292), and unordered. -/
def cmpFp (k : Option Cmp) (x y : FVal) : Bool × BitVec 16 :=
  let sig := x.isSig || y.isSig
  let nan := x.isNan || y.isNan
  match k with
  | none => (nan, if sig then flNV else 0)
  | some k =>
    let quiet := match k with
      | .eq => true
      | .ne => true
      | _ => false
    (!nan && cmpInt k (x.order y) 0, if (if quiet then sig else nan) then flNV else 0)

/-- A comparison in either form, writing a predicate. -/
def fpCmp (u : Cv) (k : Option Cmp) (x : FAB) (s : State) : State :=
  match x with
  | .reg f => match vecFmt f.typ with
    | none => issue u false [] id s
    | some F => issue u (okFp F f mdFp false && f.src3 = 0 && okP f.dest) (fpRegs F f false) (cvEffect u fun c =>
        let r l := cmpFp k (c.fSrc1 F f l) (c.fSrc2 F f l)
        (c.preds f.gd f.dest fun l => (r l).1, (lanesOf (c.active f.gd)).foldl (fun fl l => fl ||| (r l).2) 0)) s
  | .imm f => match vecFmt f.typ with
    | none => issue u false [] id s
    | some F => issue u (okFpImm F f false && okP f.dest) (vRange f.src1 (fWidth F)) (cvEffect u fun c =>
        let r l := cmpFp k (F.decode (c.fGet F l f.src1)) (F.decode (fImm F f.imm))
        (c.preds f.gd f.dest fun l => (r l).1, (lanesOf (c.active f.gd)).foldl (fun fl l => fl ||| (r l).2) 0)) s

/-! ### Meanings -/

def execFAdd (u : Cv) (x : FAB) (s : State) : Res :=
  .next (fpBin u x true (fun m a b => nanGuard [a, b] (addRaw m a b)) s)

def execFSub (u : Cv) (x : FAB) (s : State) : Res :=
  .next (fpBin u x true (fun m a b => nanGuard [a, b] (addRaw m a b.negate)) s)

def execFMul (u : Cv) (x : FAB) (s : State) : Res :=
  .next (fpBin u x true (fun _ a b => nanGuard [a, b] (mulRaw a b)) s)

def execFma (u : Cv) (f : FA) (s : State) : Res :=
  .next (match vecFmt f.typ with
    | none => issue u false [] id s
    | some F => issue u (okFp F f (mdFp ||| mdNeg3) true && okF F f.src3 && okF F f.dest) (fpRegs F f true true)
        (cvEffect u fun c =>
          let mode := f.rnd.toNat
          fpEach F true mode f.gd f.dest c fun l =>
            let z := F.decode (c.fGet F l f.src3)
            fmaRaw mode (c.fSrc1 F f l) (c.fSrc2 F f l) (if f.mods.getLsbD 5 then z.negate else z)) s)

def execFMin (u : Cv) (x : FAB) (s : State) : Res := .next (fpBin u x false (fun _ => minMaxRaw false) s)

def execFMax (u : Cv) (x : FAB) (s : State) : Res := .next (fpBin u x false (fun _ => minMaxRaw true) s)

def execDiv (u : Cv) (f : FA) (s : State) : Res :=
  .next (fpBin u (.reg f) true (fun _ a b => nanGuard [a, b] (divRaw a b)) s)

def execSqrt (u : Cv) (f : FA) (s : State) : Res := .next (fpUn u f sqrtRaw s)

def execRcp (u : Cv) (f : FA) (s : State) : Res := .next (fpUn u f (divRaw (.fin false 1 0)) s)

def execRsqrt (u : Cv) (f : FA) (s : State) : Res := .next (fpUn u f rsqrtRaw s)

def execExp2 (u : Cv) (f : FA) (s : State) : Res := .next (fpUn u f exp2Raw s)

def execLog2 (u : Cv) (f : FA) (s : State) : Res := .next (fpUn u f log2Raw s)

def execFCmp (u : Cv) (k : Cmp) (x : FAB) (s : State) : Res := .next (fpCmp u (some k) x s)

def execCmpUn (u : Cv) (f : FA) (s : State) : Res := .next (fpCmp u none (.reg f) s)

def execFMov (u : Cv) (f : FB) (s : State) : Res :=
  .next (match vecFmt f.typ with
    | none => issue u false [] id s
    | some F => issue u (okFpImm F f false && f.src1 = 0 && okF F f.dest) (vRange f.dest (fWidth F)) (cvEffect u fun c =>
        ((lanesOf (c.active f.gd)).foldl (fun d l => d.fPut F l f.dest (fImm F f.imm)) c, 0)) s)

end Sys2Proof.Machine
end

