-- ==== Sys2Proof/Machine/Xs256.lean ====
section
/-!
DEFINITION. XS256 exact sums (R261, R301, R305).
-/

namespace Sys2Proof.Machine

/-- The result of an exact integer in 256 bits, and whether it left the signed range (R305). -/
def xsWrap (n : Int) : BitVec 256 × Bool := (BitVec.ofInt 256 n, n < -(2 : Int) ^ 255 || (2 : Int) ^ 255 ≤ n)

/-- The check of the class: type 0xD, octets, no src3, no modifier (R251, R261). -/
def okXs (f : FA) : Bool :=
  f.gd.ok && f.typ = 0xD && f.mods = 0 && f.src3 = 0 && okOctet f.src1 && okOctet f.src2

/-- An XS256 operation in each active lane; XO when a result leaves the signed range (R305). -/
def xsOp (u : Cv) (f : FA) (ok : Bool) (op : BitVec 256 → BitVec 256 → Int) : State → State :=
  issue u (okXs f && okOctet f.dest && ok) (vRange f.dest 8 ++ vRange f.src1 8 ++ vRange f.src2 8) <| cvEffect u fun c =>
    let r (l : Fin 32) := xsWrap (op (c.v256 l f.src1.toNat) (c.v256 l f.src2.toNat))
    let ls := lanesOf (c.active f.gd)
    (ls.foldl (fun d l => d.v256Put l f.dest.toNat (r l).1) c, if ls.any fun l => (r l).2 then flXO else 0)

def execXadd (u : Cv) (f : FA) (s : State) : Res := .next (xsOp u f true (fun a b => a.toInt + b.toInt) s)

def execXsub (u : Cv) (f : FA) (s : State) : Res := .next (xsOp u f true (fun a b => a.toInt - b.toInt) s)

def execXneg (u : Cv) (f : FA) (s : State) : Res := .next (xsOp u f (f.src2 = 0) (fun a _ => -a.toInt) s)

def execXmov (u : Cv) (f : FA) (s : State) : Res := .next (xsOp u f (f.src2 = 0) (fun a _ => a.toInt) s)

def execXzero (u : Cv) (f : FA) (s : State) : Res :=
  .next (xsOp u f (f.src1 = 0 && f.src2 = 0) (fun _ _ => 0) s)

def execXcmp (u : Cv) (k : Cmp) (f : FA) (s : State) : Res :=
  .next (issue u (okXs f && okP f.dest) (vRange f.src1 8 ++ vRange f.src2 8) (cvEffect u fun c =>
    (c.preds f.gd f.dest fun l => cmpInt k (c.v256 l f.src1.toNat).toInt (c.v256 l f.src2.toNat).toInt, 0)) s)

end Sys2Proof.Machine
end

