-- ==== Sys2Proof/Machine/Conversion.lean ====
section
/-!
DEFINITION. Conversions between formats (R260): floating point, integers, MX blocks (R280 to R283) and XS256
(R302 to R306).
-/

namespace Sys2Proof.Machine

/-- The element format of a floating-point or MX type code (R275). -/
def eltFmt (t : BitVec 4) : Option Fmt :=
  match t.toNat with
  | 0 => some fp64
  | 1 => some fp32
  | 2 => some bf16
  | 3 => some fp16
  | 4 => some e4m3
  | 5 => some e5m2
  | 6 => some e4m3
  | 7 => some e3m2
  | 8 => some e2m3
  | 9 => some e2m1
  | _ => none

/-- An MX type code (R253). -/
def isMx (t : BitVec 4) : Bool := 6 ≤ t.toNat && t.toNat ≤ 9

/-- The range of an integer type, and its bits (R278). -/
def intRange (t : BitVec 4) : Option (Int × Int × Nat) :=
  match t.toNat with
  | 0xA => some (-128, 127, 8)
  | 0xB => some (0, 255, 8)
  | 0xC => some (-2147483648, 2147483647, 32)
  | 0xE => some (-8, 7, 4)
  | _ => none

/-- The value of an integer type's low bits. -/
def intVal (lo : Int) (n : Nat) (x : Nat) : Int :=
  let y : Int := x % 2 ^ n
  if lo < 0 && 2 ^ (n - 1) ≤ y then y - 2 ^ n else y

/-- An integer as a value. -/
def FVal.ofInt (i : Int) : FVal := .fin (i < 0) i.natAbs 0

/-- Whether a conversion's pair of types is one the opcode accepts (R260, R303). -/
def okPair2 (src dst : BitVec 4) : Bool :=
  src ≠ 0xF && dst ≠ 0xF && src ≠ dst && !(isMx src && isMx dst) &&
  (src ≠ 0xD || [0, 1, 2, 3, 0xC].contains dst.toNat) &&
  (dst ≠ 0xD || [0, 1, 2, 3, 4, 5, 0xA, 0xB, 0xC, 0xE].contains src.toNat)

/-- Registers that one element of a type fills. -/
def typeRegs (t : BitVec 4) : Nat := if t = 0 then 2 else if t = 0xD then 8 else 1

/-- A register that can hold an element of a type (R214). -/
def okTypeReg (t : BitVec 4) (r : BitVec 6) : Bool :=
  if t = 0 then okPair r else if t = 0xD then okOctet r else true

/-- The exact-sum window that a convoy's bundle or kernel image gives an index, when it is valid (R302). -/
def State.window (s : State) (u : Cv) (i : Nat) : Option (BitVec 64) :=
  match s.partOfStack (coreStack u.g) with
  | none => none
  | some p =>
    let b := s.part p
    let t := match b.kernel with
      | some k => k.image.windows
      | none => match b.bundle with
        | some x => x.windows
        | none => []
    match t[i]? with
    | some w => if w.getLsbD 63 then some w else none
    | none => none

/-- Window base W and headroom H of an entry (R302). -/
def winBase (w : BitVec 64) : Int := (w.setWidth 16).toInt
def winRoom (w : BitVec 64) : Nat := bits w.toNat 23 16

/-- Read a lane's source as a value. An MX element is scaled; XS256 is N * 2^W. -/
def Convoy.convSrc (c : Convoy) (src : BitVec 4) (r : BitVec 6) (scale : Nat) (w : BitVec 64) (l : Fin 32) : FVal :=
  if src = 0xD then
    let n := (c.v256 l r.toNat).toInt
    .fin (n < 0) n.natAbs (winBase w)
  else match intRange src with
    | some (lo, _, n) => FVal.ofInt (intVal lo n (c.vGet l r.toNat).toNat)
    | none => match eltFmt src with
      | none => .nan false
      | some F =>
        let x := F.decode (if F = fp64 then (c.v64 l r.toNat).toNat else (c.vGet l r.toNat).toNat)
        if isMx src then
          if scale = 255 then .nan false
          else match x with
            | .fin n m e => .fin n m (e + scale - 127)
            | y => y
        else x

/-- Convert into an integer format (R293): NaN gives 0 with NV, also the NaN of an MX element or scale, of which R283 says "no flag" (DESIGN CHOICE,
log 76); an infinity gives a limit. Stochastic rounding of a magnitude beyond the
format's largest value is rounding to nearest (R285, R310). -/
def toInt (lo hi : Int) (mode r : Nat) : FVal → Int × BitVec 16
  | .nan _ => (0, flNV)
  | .inf n => (if n then lo else hi, flNV ||| flSAT ||| flNX)
  | .fin n m e =>
    let (t, i) := roundAt 1 0 false m e 0 false
    let mode := if mode = 5 && (hi < t || ((t : Int) = hi && i)) then 0 else mode
    let (mag, inex) := roundAt mode r n m e 0 false
    let x : Int := if n then -(mag : Int) else mag
    if x < lo then (lo, flSAT ||| flNX) else if hi < x then (hi, flSAT ||| flNX) else (x, if inex then flNX else 0)

/-- Convert into a floating-point format (R293). FP8 saturates finite values beyond its largest one, with SAT and NX (log 29); an infinity into E4M3
sets SAT alone, where R290 could ask for NX too (DESIGN CHOICE, log 76). -/
def toFp (F : Fmt) (mode r : Nat) : FVal → Nat × BitVec 16
  | .nan s => (F.canon, if s then flNV else 0)
  | .inf n => if F = e4m3 then (F.signed n F.maxEnc, flSAT) else (F.signed n (F.maxEnc + 1), 0)
  | .fin n m e =>
    if m = 0 then (F.signed n 0, 0)
    else if (F = e4m3 || F = e5m2) && F.beyond m e false then (F.signed n F.maxEnc, flSAT ||| flNX)
    else F.round false mode r n m e false

/-- Convert into XS256 (R304). -/
def toXs (w : BitVec 64) : FVal → BitVec 256 × BitVec 16
  | .nan _ => (0, flNV ||| flXO)
  | .inf _ => (0, flNV ||| flXO)
  | .fin n m e =>
    let (mag, inex) := roundAt 0 0 n m (e - winBase w) 0 false
    let x : Int := if n then -(mag : Int) else mag
    (BitVec.ofInt 256 x, (if 2 ^ (255 - winRoom w) ≤ mag then flXO else 0) ||| (if inex then flNX else 0))

/-- The largest exponent of an MX element format (R281). -/
def emax (F : Fmt) : Int := if F = e4m3 then 8 else if F = e5m2 then 15 else if F = e3m2 then 4 else 2

/-- The shared exponent of a block (R282): none when a value is NaN or infinite, some none when all are zero. -/
def mxExp (F : Fmt) (vs : List FVal) : Option (Option Int) :=
  if vs.any fun v => match v with
    | .fin _ _ _ => false
    | _ => true
  then none
  else
    let es := vs.filterMap fun v => match v with
      | .fin _ m e => if m = 0 then none else some ((m.log2 : Int) + e)
      | _ => none
    match es with
    | [] => some none
    | x :: r => some (some (min (max ((r.foldl max x) - emax F) (-127)) 127))

/-- One element of a block, rounded and saturated (R282). -/
def mxElt (F : Fmt) (e : Int) (mode r : Nat) : FVal → Nat × BitVec 16
  | .fin n m x => if m = 0 then (F.signed n 0, 0) else F.round true mode r n m (x - e) false
  | _ => (0, 0)

/-- Encode the active lanes as one block (R260, R282). -/
def mxEncode (c : Convoy) (F : Fmt) (mode : Nat) (f : FA) (val : Fin 32 → FVal) : Convoy × BitVec 16 :=
  let ls := lanesOf (c.active f.gd)
  if ls.isEmpty then (c, 0)
  else
    let put (g : Nat → Fin 32 → Nat × BitVec 16) : Convoy × BitVec 16 :=
      ls.foldl (fun st l =>
        let (d, r) := st.1.drawIf mode l
        let (x, fl) := g r l
        (d.vPut l f.dest.toNat (BitVec.ofNat 32 x), st.2 ||| fl)) (c, 0)
    match mxExp F (ls.map val) with
    | none => let (d, _) := put fun _ _ => (0, 0); (d.sPut f.src3 0xFF, flNV)
    | some none => let (d, _) := put fun _ _ => (0, 0); (d.sPut f.src3 0x7F, 0)
    | some (some e) =>
      let (d, fl) := put fun r l => mxElt F e mode r (val l)
      (d.sPut f.src3 (BitVec.ofInt 64 (e + 127)), fl)

/-- One lane of a conversion into a format other than MX. -/
def convLane (dst : BitVec 4) (w : BitVec 64) (mode : Nat) (dest : BitVec 6) (val : Fin 32 → FVal)
    (st : Convoy × BitVec 16) (l : Fin 32) : Convoy × BitVec 16 :=
  if dst = 0xD then
    let (x, fl) := toXs w (val l)
    (st.1.v256Put l dest.toNat x, st.2 ||| fl)
  else
    let (c, r) := st.1.drawIf mode l
    match intRange dst with
    | some (lo, hi, n) =>
      let (x, fl) := toInt lo hi mode r (val l)
      (c.vPut l dest.toNat (BitVec.ofNat 32 (x % 2 ^ n).toNat), st.2 ||| fl)
    | none => match eltFmt dst with
      | none => st
      | some F =>
        let (x, fl) := toFp F mode r (val l)
        (c.fPut F l dest x, st.2 ||| fl)

/-- What src3 must be for a pair of types (R260). -/
def okSrc3 (src dst : BitVec 4) (r : BitVec 6) : Bool :=
  if isMx src || isMx dst then okS r else if src = 0xD || dst = 0xD then true else r = 0

/-- A conversion: the minor opcode names the source type, the type field the destination type (R260). A window that is not valid raises IL where a
lane is active (R302; log 58). -/
def execConversion (u : Cv) (src : BitVec 4) (f : FA) (s : State) : Res :=
  let dst := f.typ
  let xs := src = 0xD || dst = 0xD
  let win := s.window u f.src3.toNat
  .next (issue u (f.gd.ok && okMods f.mods mdRnd && f.src2 = 0 && okPair2 src dst && okSrc3 src dst f.src3 &&
      (if dst = 0xD then f.rnd = 0 else okRnd f.rnd) && okTypeReg src f.src1 && okTypeReg dst f.dest &&
      (!xs || win.isSome || (s.cv u).active f.gd = 0))
    (vRange f.dest (typeRegs dst) ++ vRange f.src1 (typeRegs src)) (cvEffect u fun c =>
      let w := win.getD 0
      let val := c.convSrc src f.src1 ((c.sGet f.src3).toNat % 256) w
      match isMx dst, eltFmt dst with
      | true, some F => mxEncode c F f.rnd.toNat f val
      | _, _ => (lanesOf (c.active f.gd)).foldl (convLane dst w f.rnd.toNat f.dest val) (c, 0)) s)

end Sys2Proof.Machine
end

