-- ==== Sys2Proof/Machine/Oscillator.lean ====
section
/-!
DEFINITION. The adaptive oscillators and the supply loops of the regions: the frequency a region runs at, the supply it is given, the cycles in
which it issues, and its highest allowed frequency (R115, R153 to R157, R162, R165, R167).
-/

/-- The vertical links of a region pass the check of a wake when no group shows an error (R494). -/
def Sys2Proof.WakeCheck.linksOk (c : Sys2Proof.WakeCheck) : Bool := c.prbsErrors = 0

namespace Sys2Proof.Machine

/-- Whether a region runs on the mesh: its oscillator failed, or its partition is in mesh mode (R162, R165). -/
def State.meshNow (s : State) (x : StackId) (p : RegionNo) : Bool :=
  (s.region x p).onMesh || (match s.partOfStack x with
    | some q => (s.part q).timing.getLsbD 16
    | none => false)

/-! ### The running frequency (R115, R153, R154) -/

/-- Cycles of every 64 in which a region issues at 1.20 GHz under a cap (R115). -/
def issueCount (cap : Nat) : Nat := min 64 (64 * cap * 18 / 1200)

/-- Whether cycle i of a window of 64 allows issue, for n issuing cycles (R115). -/
def issuesIn (n i : Nat) : Bool := i * n / 64 < (i + 1) * n / 64

/-- The accesses that a slice or pool port grants in a window of 64 cycles under a cap, and the part of them kept for the DMA side while it waits
(R116). -/
def portGrants (cap : Nat) : Nat := 64 * cap / 100
def dmaGrants (cap : Nat) : Nat := portGrants cap / 8

/-- The operating target of a region in MHz: its partition's, else 1,800 (R153). -/
def State.opTarget (s : State) (x : StackId) : Nat :=
  match s.partOfStack x with
  | some q => 1500 + 50 * bits (s.part q).timing.toNat 3 0
  | none => 1800

/-- The limits of a stack's VCD in mV: 600 to 900, which the rail trims of the applied record may narrow (R99, R154, R179). -/
def State.vcdLimits (s : State) (x : StackId) : Nat × Nat :=
  match (s.bt.applied.map (·.trims)).bind fun l => l.find? fun r => r.rail = x.val with
  | some r => (max 600 r.low, min 900 r.high)
  | none => (600, 900)

/-- The target of a region: its operating target, lowered by a cap below 100 % to C x 1.80 GHz, at least 1.20 GHz, and never above its highest
allowed frequency (R115, R153). -/
def State.target (s : State) (x : StackId) (p : RegionNo) : Nat :=
  let cap := kget 100 s.th.force (regionKey x p)
  let t := if cap < 100 then min (s.opTarget x) (max 1200 (18 * cap)) else s.opTarget x
  min t (s.region x p).maxMhz

/-- The region's clock and supply follow its depth, the mesh, its target and its cap. On the mesh it runs at 1.20 GHz and 0.85 V, and its cap
acts on the issue alone. Else the supply loop settles within its limits, and the oscillator runs as fast as the replica paths allow there, up
to the target (R115, R153, R154, R162, R167; log 66). -/
def State.setClock (s : State) (x : StackId) (p : RegionNo) : State :=
  let k := regionKey x p
  let cap := kget 100 s.th.force k
  let t := s.target x p
  let (lo, hi) := s.vcdLimits x
  let v := max lo (min hi (Config.supplyFor k t))
  let mesh := s.meshNow x p
  s.modRegion x p fun r =>
    match r.depth with
    | .poweredOff => { r with mhz := 0, vcd := 0 }
    | .clockStopped | .ramping => { r with mhz := 0, vcd := 600 }
    | .awake =>
      if mesh then { r with mhz := 1200, vcd := 850, issueN := issueCount cap }
      else { r with mhz := min t (Config.replicaMhz k v), vcd := v, issueN := if 1200 ≤ 18 * cap then 64 else issueCount cap }

/-- The clocks of every powered region of a stack. -/
def State.setClocks (s : State) (x : StackId) : State :=
  (List.finRange 100).foldl (fun s p => if hasBit (s.stack x).cmap p.val then s.setClock x p else s) s

/-! ### The highest allowed frequency (R156, R157, R162) -/

/-- The highest allowed frequency drops by 50 MHz, with its warning, and an error once it lies below 1.50 GHz (R156, R157). -/
def State.lowerMax (s : State) (x : StackId) (p : RegionNo) : State :=
  let f := (s.region x p).maxMhz
  let s := (s.modRegion x p fun r => { r with maxMhz := f - 50 }).ev 0x2008 warn 0x09 (regionKey x p)
  let s := if 1500 ≤ f && f < 1550 then s.ev 0x2009 err 0x09 (regionKey x p) else s
  s.setClock x p

/-- The highest multiple of 50 MHz from 1.50 to 2.10 GHz at which a margin measured at a clock converts to at least 4 % (R156). -/
def freshMax (margin : Int) (mhz : Nat) : Option Nat :=
  ((List.range 13).map fun i => 2100 - 50 * i).find? fun f => (f : Int) * (100000 - margin) ≤ 96000 * mhz

/-- The oscillator self-check: at a start the highest frequency is set afresh, at a wake it can only fall; a region that fails runs on the
mesh until the next start (R156, R162). -/
def State.oscCheck (s : State) (x : StackId) (p : RegionNo) (c : WakeCheck) (start : Bool) : State :=
  match (if c.oscOk then freshMax c.margin c.mhz else none) with
  | some f => s.modRegion x p fun r => { r with maxMhz := if start then f else min r.maxMhz f, margin := c.margin, marginAt := (c.mhz, 900) }
  | none => s.modRegion x p fun r => { r with onMesh := true, margin := c.margin, marginAt := (c.mhz, 900) }

end Sys2Proof.Machine
end

