-- ==== Sys2Proof/Machine/Coding.lean ====
section
/-!
DEFINITION. What a lane carries: pilots, margins, lane markers, RS codewords and the blocks of packets (R378, R385, R388, R398 to R402), and the
records of a Causeway (R467, R468).
-/

namespace Sys2Proof.Machine

/-! ### Lines, pilots and margins (R377, R378, R385, R388, R391) -/

/-- The line of a pair (R378). -/
def lineOf (i j : EpId) : Fin 32 := ⟨(j.val + 32 - i.val) % 32, by omega⟩

/-- The sender that a receiver hears on a line (R378). -/
def senderOn (j : EpId) (k : Fin 32) : EpId := ⟨(j.val + 32 - k.val) % 32, by omega⟩

/-- The pilot of a line, in kHz (R385). -/
def pilotKhz (k : Fin 32) : Nat := 1000 + 25 * k.val

/-- The margin of a lane in 0.01 dB at a received power in 0.01 dBm: against a sensitivity of −18 dBm (R388). -/
def marginOf (cdBm : Int) : Int := cdBm + 1800

/-- The middle one of some readings; of no reading, a value below every threshold (R391). -/
def median (l : List Int) : Int :=
  let s := l.foldr (fun x m => m.takeWhile (· ≤ x) ++ [x] ++ m.dropWhile (· ≤ x)) []
  s.getD (s.length / 2) (-10000)

/-! ### Lane markers (R400) -/

/-- CRC-32C over bits, from the lowest upward. The spec does not give the order of the bits (DESIGN CHOICE, log 68). -/
def crc32cBits {n : Nat} (w : BitVec n) : BitVec 32 :=
  ~~~ BitVec.ofNat 32 ((List.range n).foldl (fun c i => crcBit 0x82F63B78 (c ^^^ b2n (w.getLsbD i))) 0xFFFFFFFF)

/-- The sync field of a lane marker. -/
def markerSync : BitVec 40 := 0x96F0C3A52D

/-- The 170 bits of a lane marker from i to j on a plane (R400). -/
def markerWord (i j : EpId) (p : PlaneNo) (epoch : BitVec 8) (mask : BitVec 32) (width : BitVec 3) (path : Bool) (count : Nat) : BitVec 170 :=
  let hi : BitVec 138 := markerSync ++ BitVec.ofNat 5 i.val ++ BitVec.ofNat 5 j.val ++ BitVec.ofNat 5 p.val ++ BitVec.ofNat 5 (lineOf i j).val ++
    epoch ++ mask ++ width ++ BitVec.ofBool path ++ 0#18 ++ BitVec.ofNat 16 count
  hi ++ crc32cBits hi

/-- The fields of a lane marker. -/
def mkSrc (w : BitVec 170) : Nat := (w.extractLsb' 125 5).toNat
def mkDst (w : BitVec 170) : Nat := (w.extractLsb' 120 5).toNat
def mkPlane (w : BitVec 170) : Nat := (w.extractLsb' 115 5).toNat
def mkLine (w : BitVec 170) : Nat := (w.extractLsb' 110 5).toNat
def mkEpoch (w : BitVec 170) : BitVec 8 := w.extractLsb' 102 8
def mkMask (w : BitVec 170) : BitVec 32 := w.extractLsb' 70 32
def mkWidth (w : BitVec 170) : BitVec 3 := w.extractLsb' 67 3
def mkPath (w : BitVec 170) : Bool := w.getLsbD 66

/-- A marker that a receiver's lane expects: its sync and CRC, its own number, the lane's plane and line, and the sender that R378 gives for that
line (R400). -/
def markerGood (j : EpId) (p : PlaneNo) (k : Fin 32) (w : BitVec 170) : Bool :=
  w.extractLsb' 130 40 = markerSync && w.extractLsb' 0 32 = crc32cBits (w.extractLsb' 32 138) &&
  mkSrc w = (senderOn j k).val && mkDst w = j.val && mkPlane w = p.val && mkLine w = k.val

/-- The lanes of a mask, ascending. -/
def lanesIn (m : BitVec 32) : List PlaneNo := (List.finRange 32).filter fun p => hasBit m p.val

/-- The marker interval of a mask in sixteenths of a tick: 255 codewords of 5,440 bits at 32 Gb/s a lane, and 170 bit times (R400, R402). -/
def markerInterval (mask : BitVec 32) : Nat := 16 * 43350 / (lanesIn mask).length + 85

/-! ### Rings (R392, R393) -/

/-- The dips in the search window, from the nearest to the heater baseline outward (R393). -/
def dipsNear (base : Int) (window : Option (Int × Nat)) (dips : List Dip) : List Dip :=
  let inside := dips.filter fun d => d.uw ≤ 2000 && match window with
    | some (c, w) => (d.uw - c).natAbs ≤ w
    | none => true
  let far (d : Dip) : Nat := ((d.uw : Int) - base).natAbs
  inside.foldr (fun d m => m.takeWhile (fun e => decide (far e ≤ far d)) ++ [d] ++ m.dropWhile (fun e => decide (far e ≤ far d))) []

/-- The dip at which a ring locks: of those in the search window, the dips are tried from the nearest to the heater baseline outward until one at
which the loop's error stays within ±2 GHz shows the pilot of the ring's line (R393). -/
def acquire (base : Int) (line : Fin 32) (window : Option (Int × Nat)) (dips : List Dip) : Option Dip :=
  (dipsNear base window dips).find? fun d => d.errMHz ≤ 2000 && d.khz = pilotKhz line

/-- The heater setting midway between the two dips nearest the ring's line, where a sweep finds two (R394). -/
def midway (base : Int) (window : Option (Int × Nat)) (dips : List Dip) : Option Nat :=
  match dipsNear base window dips with
  | a :: b :: _ => some ((a.uw + b.uw) / 2)
  | _ => none

/-! ### Codewords (R398, R403) -/

/-- RS(544,514): symbols of a codeword, those that carry data, and how many in error are corrected. -/
def codeSymbols : Nat := 544
def dataSymbols : Nat := 514
def codeCorrects : Nat := (codeSymbols - dataSymbols) / 2

/-- Blocks of 257 bits in a codeword. -/
def codeBlocks : Nat := dataSymbols * 10 / 257

/-- The lane that carries a symbol, counted from a round boundary: round-robin over the mask's lanes in ascending plane order (R398). -/
def symbolLane (mask : BitVec 32) (n : Nat) : Option PlaneNo := (lanesIn mask)[n % (lanesIn mask).length]?

/-- The symbols in error of a codeword that begins at a round boundary, where each listed lane delivers no valid symbol (R398, R413). -/
def deadSymbols (mask : BitVec 32) (dead : List PlaneNo) : Nat :=
  ((List.range codeSymbols).filter fun n => (symbolLane mask n).any dead.contains).length

/-- A codeword that its code does not correct is lost (R398, R403). -/
def codewordLost (bad : Nat) : Bool := codeCorrects < bad

/-! ### Lanes that deliver nothing (R413, R650) -/

/-- The group of a plane (R377). -/
def groupOf (p : PlaneNo) : GroupNo := ⟨p.val / 8, by omega⟩

/-- The path a lane's receiver uses for it. -/
def State.pathOf (s : State) (l : LaneId) : Bool := hasBit (s.ep l.rcv).drivers (groupOf l.plane).val

/-- A lane's failure on a path; a ring's counts on both (R650). -/
def Lane.failOn (k : Lane) (path : Bool) : Option (BitVec 8) := k.ring <|> if path then k.failB else k.failA

/-- The paths on which a lane is unusable, with the causes that a report gives: a failure, or on both a hold until the next start, and on the path in
use a test that is still owed, which counts as a marker not seen (R410, R415, R420, R616; log 64). -/
def Lane.badOn (k : Lane) (inUse : Bool) : List (Bool × BitVec 8) :=
  [false, true].filterMap fun path =>
    match k.failOn path with
    | some c => some (path, c)
    | none => if k.held || (k.untested && path = inUse) then some (path, 1) else none

/-- A lane that delivers no valid symbol: its sender's laser is dark, no light arrives, or one of its rings is not locked to its line (R413). -/
def State.laneDark (s : State) (l : LaneId) : Bool :=
  let k := s.lane l
  !hasBit s.bt.laserLit (tileOfEp l.snd).val || k.relocking ≠ 0 || k.parked ≠ 0 || k.modBad || k.ring.isSome || k.failOn (s.pathOf l) = some 0

/-- Whether every codeword on the link from i to j is lost: a lane of its mask leaves more bad symbols in each than its code corrects (R398,
R413). -/
def State.codewordsLost (s : State) (i j : EpId) : Bool :=
  let m := (s.link i j).mask
  let dead := (lanesIn m).filter fun p => s.laneDark { snd := i, rcv := j, plane := p }
  !dead.isEmpty && codewordLost (deadSymbols m dead)

end Sys2Proof.Machine

/-- A packet none of whose codewords was lost and whose CRC matches (R403, R452). -/
def Sys2Proof.Arr.intact (a : Sys2Proof.Arr) : Bool := a.codewords.all (fun n => !Sys2Proof.Machine.codewordLost n) && a.crcErr = 0

/-- A packet without a reserved operation code or reserved field (R428, R452). -/
def Sys2Proof.Arr.clean (a : Sys2Proof.Arr) : Bool := a.rsv = 0 && a.code.isNone

/-- What a lane's test requires: its marker and pilot, a median margin of at least 1.5 dB over five readings, and at most some bit errors (R389,
R391, R409, R414). -/
def Sys2Proof.LaneTest.passes (t : Sys2Proof.LaneTest) (l : Sys2Proof.LaneId) (errors : Nat) : Bool :=
  Sys2Proof.Machine.markerGood l.rcv l.plane (Sys2Proof.Machine.lineOf l.snd l.rcv) t.marker &&
  t.khz = Sys2Proof.Machine.pilotKhz (Sys2Proof.Machine.lineOf l.snd l.rcv) && t.cdBm.length = 5 &&
  150 ≤ Sys2Proof.Machine.median (t.cdBm.map Sys2Proof.Machine.marginOf) && t.errors ≤ errors

namespace Sys2Proof.Machine

/-! ### Blocks (R399) -/

/-- A block: its header bit and its 32 bytes. -/
abbrev Block := Bool × List Byte

/-- An idle block. -/
def idleBlock : Block := (false, List.replicate 32 0)

/-- The blocks of a packet: the first has header bit 1, and bytes after the packet's end are zero (R399). -/
def packetBlocks (bs : List Byte) : List Block :=
  (List.range ((bs.length + 31) / 32)).map fun i => (decide (i = 0), slice bs (32 * i) 32)

/-- The length of the packet that begins with some bytes: 64 B on VC 0, else header, payload and trailer (R399, R423, R425). -/
def packetLen (b : List Byte) : Nat := if bits (field b 0 1) 6 5 = 0 then 64 else 40 + field b 0xA 2 % 8192

/-- A receiver's place in a stream: the bytes of a packet in progress, and the packets received. -/
structure BlockRx where
  part : Option (List Byte) := none
  done : List (List Byte) := []
  deriving DecidableEq, Repr

/-- One block at a receiver: one with header bit 1 begins a packet, and one with header bit 0 outside a packet is ignored (R399). -/
def BlockRx.take (r : BlockRx) (b : Block) : BlockRx :=
  let go (x : List Byte) : BlockRx :=
    if packetLen x ≤ x.length then { part := none, done := r.done ++ [x.take (packetLen x)] } else { r with part := some x }
  if b.1 then go b.2
  else match r.part with
    | some x => go (x ++ b.2)
    | none => r

/-! ### Causeway records (R467, R468) -/

/-- CRC-16 of polynomial 0x1021 over bits, highest first, from 0xFFFF (R467). -/
def crc16Bits {n : Nat} (w : BitVec n) : BitVec 16 :=
  BitVec.ofNat 16 ((List.range n).foldl (fun c i =>
    let x := c ^^^ (b2n (w.getLsbD (n - 1 - i)) * 0x8000)
    if 0x8000 ≤ x then (2 * x % 0x10000) ^^^ 0x1021 else 2 * x) 0xFFFF)

/-- The record count and the slots of a record; whether its Check is right (R467). -/
def cwCountOf (w : BitVec 512) : Nat := (w.extractLsb' 496 16).toNat
def cwCheckOk (w : BitVec 512) : Bool := w.extractLsb' 0 16 = crc16Bits (w.extractLsb' 16 496)

/-- A slot of a record, 0 to 5 (R467, R468). -/
def cwSlotOf (w : BitVec 512) (i : Nat) : CwSlot :=
  let v : BitVec 80 := w.extractLsb' (416 - 80 * i) 80
  { kind := v.extractLsb' 76 4, ep := (v.extractLsb' 71 5).toFin, vc := v.extractLsb' 69 2, value := v.extractLsb' 0 64 }

/-- The record of a count and of up to six slots (R467). -/
def cwRecordOf (count : Nat) (l : List CwSlot) : BitVec 512 :=
  let slot (i : Nat) : BitVec 80 := match l[i]? with
    | some k => k.kind ++ BitVec.ofNat 5 k.ep.val ++ k.vc ++ 0#5 ++ k.value
    | none => 0
  let hi : BitVec 496 := BitVec.ofNat 16 count ++ slot 0 ++ slot 1 ++ slot 2 ++ slot 3 ++ slot 4 ++ slot 5
  hi ++ crc16Bits hi

/-! ### UCIe flits (R499) -/

/-- The 256 bytes of a flit: its count, the first start, the credits it returns for a VC, and up to 240 packet bytes (R499). -/
def flitBytes (count first vc credits : Nat) (body : List Byte) : List Byte :=
  let b := leBytes 2 count ++ leBytes 1 first ++ leBytes 1 (64 * vc + credits) ++ body ++ List.replicate (240 - body.length) 0 ++
    List.replicate 8 0
  b ++ leBytes 4 (crc32c b).toNat

/-- The pieces of a packet that flits carry; each packet starts a flit, which the spec leaves open (R499; DESIGN CHOICE, log 77). -/
def flitPieces (vc : Nat) : Nat → Bool → List Byte → List (Nat × Bool × List Byte)
  | 0, _, _ => []
  | n + 1, start, b => if b.isEmpty then [] else (vc, start, b.take 240) :: flitPieces vc n false (b.drop 240)

/-- The flits that wait at a module go out while the partner has one of its 64 buffers of their VC free; each returns the buffers freed for one VC
(R499). -/
def State.sendFlits (s : State) (u : Nat) : Nat → State
  | 0 => s
  | n + 1 =>
    let m := s.ucieMod u
    match m.tx with
    | [] => s
    | (vc, start, body) :: r =>
      if 64 ≤ kget 0 m.credits vc then s
      else
        let (rv, rn) := ((m.owed.find? fun q => 0 < q.2).map fun q => (q.1, min 63 q.2)).getD (0, 0)
        let s := s.modUcie u fun m =>
          { m with sent := (m.sent + 1) % 65536, tx := r, credits := kmod 0 m.credits vc (· + 1), owed := kmod 0 m.owed rv (· - rn) }
        (s.emit (.flit u (flitBytes m.sent (if start then 0 else 0xFF) rv rn body))).sendFlits u n

/-- A packet crosses to a module's partner as flits, where the module is up (R499). -/
def State.toPartner (s : State) (u vc : Nat) (bytes : List Byte) : State :=
  if !(s.ucieMod u).up then s
  else
    let s := s.modUcie u fun m => { m with tx := m.tx ++ flitPieces vc bytes.length true bytes }
    s.sendFlits u (s.ucieMod u).tx.length

end Sys2Proof.Machine
end

