-- ==== Sys2Proof/Machine/LocalMem.lean ====
section
/-!
DEFINITION. Slices and pools as a core reaches them (R220, R264 to R266, R313 to R328), and cluster control
space (R231 to R234) with the handover of slice ownership (R324 to R326).
-/

namespace Sys2Proof.Machine

/-! ### Places -/

/-- Memory-layer key of a slice byte and of a pool byte: the offset o of R342. -/
def sliceKey (x : StackId) (c : ClusterNo) (n b : Nat) : Nat := x.val * 2 ^ 29 + c.val * 2 ^ 22 + n * 2 ^ 18 + b
def poolKey (x : StackId) (c : ClusterNo) (b : Nat) : Nat :=
  x.val * 2 ^ 29 + (96 + c.val / 4) * 2 ^ 22 + c.val % 4 * 2 ^ 20 + b

/-- Zero a range of the memory layer: a clear writes good check bits too (R329, R330). -/
def State.zeroMl (s : State) (lo n : Nat) : State :=
  { s with ml := memZero s.ml lo n, mlBad := s.mlBad.filter fun w => 8 * w < lo || lo + n ≤ 8 * w }

/-- Zero the slices and the pool of a logical cluster. -/
def State.zeroCluster (s : State) (x : StackId) (c : ClusterNo) : State :=
  (s.zeroMl (sliceKey x c 0 0) (2 ^ 22)).zeroMl (poolKey x c 0) (2 ^ 20)

/-- Where a memory-layer key lies: stack, cluster, and the slice's core, none for the pool (R342). -/
structure MlPlace where
  stack : StackId
  cluster : ClusterNo
  core : Option (Fin 16)
  deriving DecidableEq, Repr

/-- The place of a memory-layer offset; none in cluster fields 120 to 127 (R342). -/
def mlPlace (o : Nat) : Option MlPlace :=
  let x : StackId := ⟨o / 2 ^ 29 % 16, by omega⟩
  let f := o / 2 ^ 22 % 128
  if h : f < 96 then some ⟨x, ⟨f, h⟩, some ⟨o / 2 ^ 18 % 16, by omega⟩⟩
  else if h2 : f < 120 then some ⟨x, ⟨4 * (f - 96) + o / 2 ^ 20 % 4, by omega⟩, none⟩
  else none

/-- The local address map: the key that a local address reaches (R264). -/
def localKey (g : CoreId) (a : BitVec 64) : Option Nat :=
  let x := coreStack g
  let c := coreCluster g
  let n := a.toNat
  if n < 0x40000 then some (sliceKey x c (coreNo g).val n)
  else if 0x100000 ≤ n ∧ n < 0x200000 then some (poolKey x c (n - 0x100000))
  else if 0x400000 ≤ n ∧ n < 0x800000 then some (sliceKey x c ((n - 0x400000) / 0x40000) (n % 0x40000))
  else none

/-! ### Ownership (R322, R323) -/

/-- Who issued an access: a core (itself or a copy of it), the gateway, or another agent of the fabric (R322). -/
inductive Agent where
  | core (g : CoreId)
  | gateway
  | fabric
  deriving DecidableEq, Repr

/-- Whether an owner value allows an agent on the slice of a core (R322; log 30). -/
def ownerAllows (owner : BitVec 2) (x : StackId) (c : ClusterNo) (n : Fin 16) : Agent → Bool
  | .gateway => owner = 3
  | .fabric => owner = 2
  | .core g =>
    let same : Bool := coreStack g = x && coreCluster g = c
    if owner = 0 then same && coreNo g = n else if owner = 1 then same else if owner = 2 then !same else false

/-- What happens to an access: it is made, refused, or stalls (R323, R331, R337, R196). -/
inductive Access where
  | ok | refused | stall
  deriving DecidableEq, Repr

/-- Rows that a march tests in a bank, spare rows among them (R311, R333). -/
def marchRows (core : Option (Fin 16)) : Nat := if core.isSome then 1032 else 4128

/-- A march has taken a place's bank from its port: a destructive one for its whole length, which the spec does not say (DESIGN CHOICE,
log 67); a preserving one row after row, 172 ticks for each, between which the accesses that waited in the last row are granted. since is the
tick from which the access waits (R333, R334, R337). -/
def State.marchTakes (s : State) (pl : MlPlace) (since : Option Nat) : Bool :=
  let k := s.stack pl.stack
  let row (t : Nat) : Nat := (t - k.marchAt) / 172
  match k.marching with
  | none => false
  | some false => true
  | some true => row s.now < marchRows pl.core && !since.any fun t => row t < row s.now

/-- Whether an access to a place waits: its ML is in reset, its region sleeps or is under a clear, or a march has its bank (R169, R196, R331,
R334). -/
def State.mlStalled (s : State) (pl : MlPlace) (since : Option Nat := none) : Bool :=
  (s.stack pl.stack).mlLost || s.marchTakes pl since ||
  match s.physOf pl.stack pl.cluster with
  | some p => (s.region pl.stack p).clearing || (s.region pl.stack p).depth ≠ .awake
  | none => false

/-- The check of an access at the port: a pool has no owner (R319); during a handover the new owner stalls and every
other agent is refused, but for what the present owner had waiting when a handover that the next one follows at once gave it the slice (R324,
R326, R337). -/
def State.mlAccess (s : State) (a : Agent) (key : Nat) (since : Option Nat := none) : Access :=
  match mlPlace key with
  | none => .refused
  | some pl =>
    if s.mlStalled pl since then .stall
    else match pl.core with
      | none => .ok
      | some n =>
        let w := kget {} (s.cluster pl.stack pl.cluster).owners n.val
        match w.target with
        | some t =>
          if ownerAllows t pl.stack pl.cluster n a then .stall
          else if ownerAllows w.owner pl.stack pl.cluster n a && w.grace.any fun g => since.any (· ≤ g) then .ok else .refused
        | none => if ownerAllows w.owner pl.stack pl.cluster n a then .ok else .refused

/-- The check for a convoy's own access: one that a handover's step 4 has granted is made whatever owner follows (R324, R326). -/
def State.cvAccess (s : State) (u : Cv) (key : Nat) : Access :=
  let c := s.cv u
  match s.mlAccess (.core u.g) key (c.stall.map (·.1)) with
  | .stall => .stall
  | r => if c.granted.any fun k => k / 2 ^ 18 = key / 2 ^ 18 then .ok else r

/-- A convoy's access stalls: the convoy stays at its instruction, waiting from this tick if it did not wait before. -/
def State.stallAt (s : State) (u : Cv) (key : Nat) : State :=
  s.modCv u fun c => { c with stall := some ((c.stall.map (·.1)).getD s.now, key) }

/-! ### SECDED (R314, R327, R328) -/

/-- The 8 B words that a byte range touches. -/
def wordsOf (key n : Nat) : List Nat := if n = 0 then [] else (List.range ((key + n - 1) / 8 - key / 8 + 1)).map (· + key / 8)

/-- Words found bad join the known ones; corrected words are counted in their region (R314). -/
def State.mlFound (s : State) (e : Ecc) (key : Nat) : State :=
  let s := { s with mlBad := s.mlBad ++ e.bad.filter fun w => !s.mlBad.contains w }
  if e.corrected = 0 then s
  else match mlPlace key with
    | none => s
    | some pl => match s.physOf pl.stack pl.cluster with
      | none => s
      | some p => s.modRegion pl.stack p fun r => { r with mlErrors := satInc r.mlErrors e.corrected }

/-- Whether a read of a range finds an uncorrectable word. -/
def State.mlHasBad (s : State) (key n : Nat) : Bool := (wordsOf key n).any fun w => s.mlBad.contains w

/-- The row of a place's byte (R312). -/
def mlRow (pl : MlPlace) (key : Nat) : Nat :=
  match pl.core with
  | some n => n.val * 1024 + key % 2 ^ 18 / 256
  | none => 16384 + key % 2 ^ 20 / 256

/-- Record the error event that names stack, region and row (R327; its place in the entry, log 31). -/
def State.mlErrorEvent (s : State) (key : Nat) : State :=
  match mlPlace key with
  | none => s
  | some pl =>
    let p := ((s.physOf pl.stack pl.cluster).map (·.val)).getD 0
    s.ev 0x5001 err 0x09 (100 * pl.stack.val + p) (s.partOfStack pl.stack) (BitVec.ofNat 96 (mlRow pl key))

/-- The parts of a range that lie in one line each: the accesses that reach it (R313). -/
def linePieces (key n : Nat) : List (Nat × Nat) :=
  if n = 0 then [] else (List.range ((key + n - 1) / 64 - key / 64 + 1)).map fun i =>
    let lo := max key (64 * (key / 64 + i))
    (lo, min (key + n) (64 * (key / 64 + i + 1)) - lo)

/-- The events of a read of a range: one for each access that finds an uncorrectable word, with the row of that word (R327; log 31). -/
def State.mlErrorEvents (s : State) (key n : Nat) : State :=
  (linePieces key n).foldl (fun s k => if s.mlHasBad k.1 k.2 then s.mlErrorEvent k.1 else s) s

/-- Whole words written replace their errors (R328). -/
def State.mlCleared (s : State) (key n : Nat) : State :=
  { s with mlBad := s.mlBad.filter fun w => !(key ≤ 8 * w && 8 * w + 8 ≤ key + n) }

/-- A write that covers part of a word reads that word first (R328). -/
def partialWords (key n : Nat) : List Nat :=
  (wordsOf key n).filter fun w => !(key ≤ 8 * w && 8 * w + 8 ≤ key + n)

/-! ### Element addresses (R265) -/

/-- Bits of an element of a type in memory, 0 for the reserved code (R265). -/
def eltBits (t : BitVec 4) : Nat :=
  match t.toNat with
  | 0 => 64
  | 1 => 32
  | 2 => 16
  | 3 => 16
  | 7 => 6
  | 8 => 6
  | 9 => 4
  | 0xC => 32
  | 0xD => 256
  | 0xE => 4
  | 0xF => 0
  | _ => 8

/-- A packed type (R265). -/
def isPacked (t : BitVec 4) : Bool := eltBits t = 6 || eltBits t = 4

/-- The element address of a lane (R265). -/
def eltAddr (c : Convoy) (f : FX) (l : Fin 32) : BitVec 64 :=
  if f.ien then
    c.sGet f.base + (c.vGet l f.index.toNat).signExtend 64 * BitVec.ofNat 64 ([1, 4, 8, 32].getD f.iscale.toNat 1) +
      f.off.signExtend 64
  else c.sGet f.base + BitVec.ofNat 64 (l.val * (eltBits f.typ / 8)) + f.off.signExtend 64

/-- The checks of a format X memory word. Index scale bits without an index are reserved too, which the spec leaves open (R251, R265, R266; DESIGN
CHOICE, log 76). -/
def okX (f : FX) : Bool :=
  f.gd.ok && eltBits f.typ ≠ 0 && okS f.base && (f.ien || (f.index = 0 && f.iscale = 0)) &&
  !(isPacked f.typ && f.ien) &&
  (if f.typ = 0 then okPair f.data else if f.typ = 0xD then okOctet f.data else true)

/-- The checks of a word with one s register and an offset (R266). -/
def okXs1 (f : FX) : Bool :=
  f.gd.ok && f.typ = 0 && okS f.base && okS f.data && !f.ien && f.index = 0 && f.iscale = 0 && f.order = 0

/-- Registers that an element fills in a lane. -/
def eltRegs (t : BitVec 4) : Nat := if t = 0 then 2 else if t = 0xD then 8 else 1

/-- Place an element's number in a lane's registers, low bits first, the rest cleared (R266). -/
def Convoy.eltPut (c : Convoy) (t : BitVec 4) (l : Fin 32) (r : BitVec 6) (x : Nat) : Convoy :=
  if t = 0 then c.v64Put l r.toNat (BitVec.ofNat 64 x)
  else if t = 0xD then c.v256Put l r.toNat (BitVec.ofNat 256 x)
  else c.vPut l r.toNat (BitVec.ofNat 32 x)

/-- A lane's element: the low bits of its registers (R265). -/
def Convoy.eltGet (c : Convoy) (t : BitVec 4) (l : Fin 32) (r : BitVec 6) : Nat :=
  if t = 0 then (c.v64 l r.toNat).toNat
  else if t = 0xD then (c.v256 l r.toNat).toNat
  else (c.vGet l r.toNat).toNat % 2 ^ eltBits t

/-- The bytes that a lane touches: first byte address and count. A packed element lies in the one or two bytes
that hold its bits (R279). -/
def laneBytes (c : Convoy) (f : FX) (l : Fin 32) : BitVec 64 × Nat :=
  let n := eltBits f.typ
  if isPacked f.typ then
    (eltAddr c { f with typ := 0xA } 0 + BitVec.ofNat 64 (n * l.val / 8), (n * l.val % 8 + n + 7) / 8)
  else (eltAddr c f l, n / 8)

/-- Natural alignment of a lane's element; a packed array is aligned to 8 B or 16 B (R220, R265). -/
def aligned (c : Convoy) (f : FX) (l : Fin 32) : Bool :=
  if isPacked f.typ then (eltAddr c { f with typ := 0xA } 0).toNat % (if eltBits f.typ = 6 then 8 else 16) = 0
  else (eltAddr c f l).toNat % (eltBits f.typ / 8) = 0

/-! ### Loads and stores of slices and pools (R266) -/

/-- One active lane's access: its lane, the key of its first byte, and its bytes. -/
abbrev LaneKey := Fin 32 × Nat × Nat

/-- The accesses of the active lanes, or none where a lane is misaligned or a byte of it lies outside the map (R220, R264). -/
def laneKeys (g : CoreId) (c : Convoy) (f : FX) : Option (List LaneKey) :=
  (lanesOf (c.active f.gd)).foldr (fun l acc =>
    let (a, n) := laneBytes c f l
    match acc, localKey g a, localKey g (a + BitVec.ofNat 64 (n - 1)) with
    | some r, some k, some _ => if aligned c f l then some ((l, k, n) :: r) else none
    | _, _, _ => none) (some [])

/-- The distinct lines that lanes touch, in order of first touch: one access for each (R220). -/
def lanesLines (ks : List LaneKey) : List Nat := (ks.flatMap fun k => (linePieces k.2.1 k.2.2).map (·.1 / 64)).eraseDups

/-- The words of a line that lanes touch. -/
def lineWords (ks : List LaneKey) (ln : Nat) : List Nat := (ks.flatMap fun k => wordsOf k.2.1 k.2.2).filter (· / 8 = ln)

/-- A lane touches a line. -/
def onLine (k : LaneKey) (ln : Nat) : Bool := (linePieces k.2.1 k.2.2).any (·.1 / 64 = ln)

/-- The first of the accesses that stalls. -/
def State.stalledLine (s : State) (u : Cv) (ks : List LaneKey) : Option Nat :=
  ((lanesLines ks).map (64 * ·)).find? fun k => s.cvAccess u k = .stall

/-- The lines whose access is refused, and those whose access finds a word that fails it (R323, R327, R328, R337). -/
def State.badLines (s : State) (u : Cv) (ks : List LaneKey) (fails : Nat → Bool) : List Nat × List Nat :=
  let refused := (lanesLines ks).filter fun ln => s.cvAccess u (64 * ln) = .refused
  (refused, (lanesLines ks).filter fun ln => !refused.contains ln && (lineWords ks ln).any fun w => s.mlBad.contains w && fails w)

/-- The events of the lines found in error: each names the row of its first bad word. -/
def State.lineEvents (s : State) (ks : List LaneKey) (lines : List Nat) : State :=
  lines.foldl (fun s ln => match (lineWords ks ln).find? s.mlBad.contains with
    | some w => s.mlErrorEvent (8 * w)
    | none => s) s

/-- The number that bytes from a key spell. -/
def State.mlNum (s : State) (key n : Nat) : Nat := leNat (memRead s.ml key n)

/-- The element that a lane loads. -/
def State.laneElt (s : State) (f : FX) (k : LaneKey) : Nat :=
  let b := eltBits f.typ
  if isPacked f.typ then s.mlNum k.2.1 k.2.2 / 2 ^ (b * k.1.val % 8) % 2 ^ b else s.mlNum k.2.1 k.2.2

/-- A memory instruction of a core that waits while an earlier acquire is open (R267). -/
def issueMem (u : Cv) (ok : Bool) (regs : List Nat) (body : State → State) : State → State :=
  issue u ok regs fun s => if s.acquiring u then s else body s

/-- The accesses of a local memory instruction: AF and none where a lane is misaligned or outside the map; a stall; else the body (R220,
R264). -/
def laneAccesses (u : Cv) (f : FX) (body : List LaneKey → State → State) : State → State :=
  issueMem u (okX f && f.order = 0) (vRange f.data (eltRegs f.typ) ++ (if f.ien then [f.index.toNat] else [])) fun s =>
    match laneKeys u.g (s.cv u) f with
    | none => (s.raise u flAF).advance u
    | some ks => match s.stalledLine u ks with
      | some k => s.stallAt u k
      | none => body ks s

/-- LD: a lane gets its element when every access it needs delivers data (R220, R266, R323, R327). -/
def ldLocal (u : Cv) (f : FX) (e : Ecc) : State → State :=
  laneAccesses u f fun ks s =>
    let s := s.mlFound e ((ks.head?.map (·.2.1)).getD 0)
    let (refused, bad) := s.badLines u ks fun _ => true
    let s := s.lineEvents ks bad
    let good := ks.filter fun k => !(refused ++ bad).any (onLine k)
    let c := good.foldl (fun c k => c.eltPut f.typ k.1 f.data (s.laneElt f k)) (s.cv u)
    ((s.modCv u fun _ => c).raise u (if (refused ++ bad).isEmpty then 0 else flAF)).advance u

/-- The bits of memory that a lane's store replaces: the first, and how many (R265, R266). -/
def laneBits (f : FX) (k : LaneKey) : Nat × Nat :=
  let b := eltBits f.typ
  (8 * k.2.1 + (if isPacked f.typ then b * k.1.val % 8 else 0), b)

/-- Whether the lanes together replace a whole word (R220, R328). -/
def wholeWord (f : FX) (ks : List LaneKey) (w : Nat) : Bool :=
  (List.range 64).all fun i => ks.any fun k => (laneBits f k).1 ≤ 64 * w + i && 64 * w + i < (laneBits f k).1 + (laneBits f k).2

/-- One lane of a store, in rising lane order, so the highest lane's value stays; nothing is written in a line that was refused (R266). -/
def stLane (u : Cv) (f : FX) (no : List Nat) (s : State) (k : LaneKey) : State :=
  let (_, key, n) := k
  let sub := (laneBits f k).1 % 8
  let w := eltBits f.typ
  let old := s.mlNum key n
  let new := old - old / 2 ^ sub % 2 ^ w * 2 ^ sub + (s.cv u).eltGet f.typ k.1 f.data * 2 ^ sub
  { s with ml := memWriteEn s.ml key ((leBytes n new).mapIdx fun i b => (!no.contains ((key + i) / 64), b)) }

/-- ST: an access that replaces part of a word reads that word first, and one that is refused or finds an error there writes nothing (R266,
R323, R328). -/
def stLocal (u : Cv) (f : FX) (e : Ecc) : State → State :=
  laneAccesses u f fun ks s =>
    let s := s.mlFound e ((ks.head?.map (·.2.1)).getD 0)
    let (refused, bad) := s.badLines u ks fun w => !wholeWord f ks w
    let s := s.lineEvents ks bad
    let no := refused ++ bad
    let s := ks.foldl (stLane u f no) s
    let s := { s with mlBad := s.mlBad.filter fun w => no.contains (w / 8) || !((lineWords ks (w / 8)).contains w && wholeWord f ks w) }
    (s.raise u (if no.isEmpty then 0 else flAF)).advance u

/-- The address of a one-register word (R266). -/
def uniAddr (c : Convoy) (f : FX) : BitVec 64 := c.sGet f.base + f.off.signExtend 64

/-- A range of bytes for the whole convoy: its key, when aligned and inside the map. -/
def rangeKey (g : CoreId) (a : BitVec 64) (n al : Nat) : Option Nat :=
  if a.toNat % al = 0 then match localKey g a, localKey g (a + BitVec.ofNat 64 (n - 1)) with
    | some k, some k' => if k' = k + (n - 1) then some k else none
    | _, _ => none
  else none

/-- LD.U: 8 bytes into an s register (R266). -/
def ldU (u : Cv) (f : FX) (e : Ecc) : State → State :=
  issueMem u (okXs1 f) [] fun s =>
    let c := s.cv u
    if c.active f.gd = 0 then s.advance u
    else match rangeKey u.g (uniAddr c f) 8 8 with
      | none => (s.raise u flAF).advance u
      | some k => match s.cvAccess u k with
        | .stall => s.stallAt u k
        | .refused => (s.raise u flAF).advance u
        | .ok =>
          let s := s.mlFound e k
          if s.mlHasBad k 8 then ((s.mlErrorEvent k).raise u flAF).advance u
          else (s.modCv u fun c => c.sPut f.data (BitVec.ofNat 64 (s.mlNum k 8))).advance u

/-- ST.U: an s register into 8 bytes (R266). -/
def stU (u : Cv) (f : FX) : State → State :=
  issueMem u (okXs1 f) [] fun s =>
    let c := s.cv u
    if c.active f.gd = 0 then s.advance u
    else match rangeKey u.g (uniAddr c f) 8 8 with
      | none => (s.raise u flAF).advance u
      | some k => match s.cvAccess u k with
        | .stall => s.stallAt u k
        | .refused => (s.raise u flAF).advance u
        | .ok => (({ s with ml := memWrite s.ml k (leBytes 8 (c.sGet f.data).toNat) }).mlCleared k 8).advance u

/-! ### Cluster control space (R233, R234) -/

/-- The state code of CORE_STATUS (R234; fences show as running, log 22). -/
def CvRun.code : CvRun → Nat
  | .idle => 0
  | .running => 1
  | .waitWm _ _ => 2
  | .waitBar _ => 3
  | .stalled => 4
  | .halted => 5
  | .haltedFlag => 6
  | .waitFence _ _ => 1
  | .waitCore => 1

/-- The registers as read, by offset (R232 to R234). -/
def State.ctlRead (s : State) (x : StackId) (c : ClusterNo) (off : Nat) : BitVec 64 :=
  let k := s.cluster x c
  if off = 0 then
    let mesh := match s.physOf x c with
      | some p => (s.region x p).onMesh
      | none => false
    BitVec.ofNat 64 ((coreOf x c 0).val * 2 ^ 16 + c.val * 2 ^ 8 + x.val * 2 ^ 4 + b2n mesh)
  else if off = 0x008 then BitVec.ofNat 64 (k.period % 2 ^ 32 * 2 ^ 32 + k.mode.toNat)
  else if off = 0x010 then BitVec.ofNat 64 k.start
  else if off = 0x018 then BitVec.ofNat 64 k.deadline
  else if off < 0x040 then
    let b := kget {} k.barriers ((off - 0x020) / 8)
    BitVec.ofNat 64 (b.generation.toNat * 2 ^ 16 + b.arrived.toNat * 2 ^ 8 + b.participants.toNat)
  else if off < 0x0C0 then
    let w := kget {} k.owners ((off - 0x040) / 8)
    BitVec.ofNat 64 (w.handovers.toNat * 2 ^ 8 + w.owner.toNat)
  else if off < 0x140 then
    let r := s.core (coreOf x c ⟨(off - 0x0C0) / 8 % 16, by omega⟩)
    BitVec.ofNat 64 (b2n r.split80 * 2 ^ 24 + r.c1.stack.length * 2 ^ 16 + r.c0.stack.length * 2 ^ 8 +
      r.c1.run.code * 2 ^ 4 + r.c0.run.code)
  else if off < 0x1C0 then
    let r := s.core (coreOf x c ⟨(off - 0x140) / 8 % 16, by omega⟩)
    BitVec.ofNat 64 (r.c1.flags.toNat * 2 ^ 16 + r.c0.flags.toNat)
  else 0

/-- Whether the 16 offsets of a core or the control space itself is meant: an aligned offset inside it (R266). -/
def okCtl (a : BitVec 64) : Bool := a.toNat ≤ 0xFF8 && a.toNat % 8 = 0

/-- A write of an Owner field: one that names the present owner completes at once, and one that comes during a handover waits behind it
(R324, R326). -/
def SliceOwner.write (w : SliceOwner) (t : BitVec 2) : SliceOwner :=
  match w.target with
  | some _ => { w with nextTarget := w.nextTarget ++ [t] }
  | none => if t = w.owner then w else { w with target := some t, grace := none }

/-- Step 3 of the handover in progress: the new owner, and one handover more (R324). -/
def SliceOwner.done (w : SliceOwner) (now : Nat) : SliceOwner :=
  match w.target with
  | none => w
  | some t => { w with owner := t, handovers := w.handovers + 1, target := none, grace := some now }

/-- After step 4 the next waiting write is taken; those that name the present owner complete at once (R324, R326). -/
def SliceOwner.nextUp (w : SliceOwner) : SliceOwner :=
  let r := w.nextTarget.dropWhile (· = w.owner)
  { w with target := r.head?, nextTarget := r.drop 1 }

/-- The owner fields after an ML reset: every one 0b00, no handover in progress, the counts kept (R235, R337). -/
def SliceOwner.mlReset (w : SliceOwner) : SliceOwner := { handovers := w.handovers }

/-- Change the owner word of one slice. -/
def State.modOwner (s : State) (x : StackId) (c : ClusterNo) (n : Nat) (f : SliceOwner → SliceOwner) : State :=
  s.modCluster x c fun k => { k with owners := kmod {} k.owners n f }

/-- A W1C write clears a convoy's flags, but for those that the module sets in the same tick (R18, R234). -/
def Convoy.clearFlags (c : Convoy) (now : Nat) (v : BitVec 16) : Convoy := { c with flags := c.flags &&& ~~~(v &&& ~~~c.freshIn now) }

/-- A write by a core, and the flags it raises (R232, R234, R236). -/
def State.ctlWrite (s : State) (x : StackId) (c : ClusterNo) (off : Nat) (v : BitVec 64) : State × BitVec 16 :=
  if 0x020 ≤ off ∧ off < 0x040 then
    let n := (off - 0x020) / 8
    let b := kget {} (s.cluster x c).barriers n
    let p : BitVec 6 := v.setWidth 6
    if 32 < p.toNat ∨ b.arrived ≠ 0 then (s, flAF)
    else (s.modCluster x c fun k => { k with barriers := kput {} k.barriers n { b with participants := p } }, 0)
  else if 0x040 ≤ off ∧ off < 0x0C0 then (s.modOwner x c ((off - 0x040) / 8) fun w => w.write (v.setWidth 2), 0)
  else if 0x140 ≤ off ∧ off < 0x1C0 then
    (s.modCore (coreOf x c ⟨(off - 0x140) / 8 % 16, by omega⟩) fun r =>
      { r with c0 := r.c0.clearFlags s.now (v.setWidth 16), c1 := r.c1.clearFlags s.now ((v >>> 16).setWidth 16) }, 0)
  else (s, 0)

/-! ### Meanings -/

def execLd (u : Cv) (f : FX) (e : Ecc) (s : State) : Res := .next (ldLocal u f e s)

def execSt (u : Cv) (f : FX) (e : Ecc) (s : State) : Res := .next (stLocal u f e s)

def execLdU (u : Cv) (f : FX) (e : Ecc) (s : State) : Res := .next (ldU u f e s)

def execStU (u : Cv) (f : FX) (s : State) : Res := .next (stU u f s)

def execLdc (u : Cv) (f : FX) (s : State) : Res :=
  .next (issueMem u (okXs1 f) [] (fun s =>
    let c := s.cv u
    let a := uniAddr c f
    if c.active f.gd = 0 then s.advance u
    else if okCtl a then
      (s.modCv u fun c => c.sPut f.data (s.ctlRead (coreStack u.g) (coreCluster u.g) a.toNat)).advance u
    else (s.raise u flAF).advance u) s)

def execStc (u : Cv) (f : FX) (s : State) : Res :=
  .next (issueMem u (okXs1 f) [] (fun s =>
    let c := s.cv u
    let a := uniAddr c f
    if c.active f.gd = 0 then s.advance u
    else if okCtl a then
      let (s, fl) := s.ctlWrite (coreStack u.g) (coreCluster u.g) a.toNat (c.sGet f.data)
      (s.raise u fl).advance u
    else (s.raise u flAF).advance u) s)

/-- A slice or pool access that an ML reset has stalled for 2 µs ends with an access fault (R45, R196). -/
def execSliceAccessTimeout (u : Cv) (s : State) : Res :=
  .next (match (s.cv u).stall with
    | some (t, _) =>
      if (s.stack (coreStack u.g)).mlLost && t + 2000 ≤ s.now then (s.modCv u fun c => { c with stall := none }).raise u flAF else s
    | none => s)

end Sys2Proof.Machine
end

