-- ==== Sys2Proof/Machine/Control.lean ====
section
/-!
DEFINITION. Control flow (R271), synchronisation inside a cluster (R236, R272), waymarks of the own core (R226,
R227, R270), identity, flags and outputs (R273, R551), and encodings that no core runs (R251, R255).
-/

namespace Sys2Proof.Machine

/-! ### Checks -/

/-- Format B words that name no register and round nothing (R251, R271). -/
def okCtlB (f : FB) : Bool := f.gd.ok && f.typ = 0 && f.rnd = 0 && f.dest = 0 && f.src1 = 0

/-- A word that must be unguarded. -/
def okCtlU (f : FB) : Bool := okCtlB f && f.gd.unguarded

/-! ### The predicate stack (R211 to R213) -/

/-- Push an entry; PS where the stack is full. -/
def pushOp (u : Cv) (f : FB) (entry : Convoy → BitVec 32) (s : State) : State :=
  let c := s.cv u
  let e := entry c
  if 32 ≤ c.stack.length then (s.raise u flPS).advance u
  else
    let s := s.modCv u fun c => { c with stack := e :: c.stack }
    if e = 0 then s.branch u f.imm else s.advance u

def execNopI (u : Cv) (f : FB) (s : State) : Res :=
  .next (issue u (okCtlB f && f.imm = 0) [] (fun s => s.advance u) s)

def execBra (u : Cv) (f : FB) (s : State) : Res :=
  .next (issue u (okCtlB f) [] (fun s =>
    let c := s.cv u
    if c.active f.gd = c.top then s.branch u f.imm else s.advance u) s)

def execBraAny (u : Cv) (f : FB) (s : State) : Res :=
  .next (issue u (okCtlB f) [] (fun s =>
    if (s.cv u).active f.gd ≠ 0 then s.branch u f.imm else s.advance u) s)

def execIfI (u : Cv) (f : FB) (s : State) : Res :=
  .next (issue u (okCtlB f) [] (pushOp u f fun c => c.active f.gd) s)

def execElseI (u : Cv) (f : FB) (s : State) : Res :=
  .next (issue u (okCtlU f) [] (fun s =>
    match (s.cv u).stack with
    | t :: b :: r =>
      let e := b &&& ~~~t
      let s := s.modCv u fun c => { c with stack := e :: b :: r }
      if e = 0 then s.branch u f.imm else s.advance u
    | _ => s.raise u flIL) s)

def execEndif (u : Cv) (f : FB) (s : State) : Res :=
  .next (issue u (okCtlU f && f.imm = 0) [] (fun s =>
    match (s.cv u).stack with
    | _ :: b :: r => (s.modCv u fun c => { c with stack := b :: r }).advance u
    | _ => s.raise u flIL) s)

/-- LOOP pushes the top entry; where it is zero R213 sends the convoy to the matching ENDLOOP (log 33). -/
def execLoop (u : Cv) (f : FB) (s : State) : Res :=
  .next (issue u (okCtlU f) [] (pushOp u f Convoy.top) s)

def execBreakI (u : Cv) (f : FB) (s : State) : Res :=
  .next (issue u (okCtlB f) [] (fun s =>
    let c := s.cv u
    let e := c.top &&& ~~~c.active f.gd
    let s := s.modCv u fun c => { c with stack := e :: c.stack.drop 1 }
    if e = 0 then s.branch u f.imm else s.advance u) s)

def execEndloop (u : Cv) (f : FB) (s : State) : Res :=
  .next (issue u (okCtlU f) [] (fun s =>
    if (s.cv u).top ≠ 0 then s.branch u f.imm
    else match (s.cv u).stack with
      | _ :: b :: r => (s.modCv u fun c => { c with stack := b :: r }).advance u
      | _ => s.raise u flIL) s)

/-- HALT: the convoy halts; a free-run kernel whose started convoys have all halted ends (R237, R271). -/
def execHalt (u : Cv) (f : FB) (s : State) : Res :=
  .next (issue u (okCtlU f && f.imm = 0) [] (fun s =>
    let s := s.modCore u.g fun k => (k.modCv u.h fun c => { c with pc := c.pc + 1, run := .halted }).settle
    match s.partOfStack (coreStack u.g) with
    | none => s
    | some p => if (s.part p).kernel.isSome && s.allHalted p then s.endKernel p 0 0 else s) s)

/-! ### Barriers and fences (R236, R272, R458) -/

/-- Convoys of a cluster that wait at a barrier resume. -/
def State.releaseBar (s : State) (x : StackId) (c : ClusterNo) (n : Fin 4) : State :=
  let lo := (coreOf x c 0).val
  let go (v : Convoy) : Convoy := if v.run = .waitBar n then { v with run := .running } else v
  { s with cores := kmapIf {} s.cores (fun k => lo ≤ k && k < lo + 16) fun k => { k with c0 := go k.c0, c1 := go k.c1 } }

def execBarSync (u : Cv) (f : FB) (s : State) : Res :=
  .next (issue u (okCtlU f && f.imm.toNat < 4) [] (fun s =>
    let x := coreStack u.g
    let c := coreCluster u.g
    let n : Fin 4 := ⟨f.imm.toNat % 4, by omega⟩
    let b := kget {} (s.cluster x c).barriers n.val
    if b.participants = 0 then s.raise u flIL
    else if (b.arrived + 1).toNat < b.participants.toNat then
      let s := s.modCluster x c fun k => { k with barriers := kput {} k.barriers n.val { b with arrived := b.arrived + 1 } }
      s.modCv u fun v => { v with pc := v.pc + 1, run := .waitBar n }
    else
      let b := { b with arrived := 0, generation := b.generation + 1 }
      let s := s.modCluster x c fun k => { k with barriers := kput {} k.barriers n.val b }
      (s.advance u).releaseBar x c n) s)

def execFenceCore (u : Cv) (f : FB) (s : State) : Res :=
  .next (issue u (okCtlU f && f.imm = 0) [] (fun s =>
    s.modCore u.g fun k => (k.modCv u.h fun c => { c with pc := c.pc + 1, run := .waitCore }).settle) s)

/-- The writes of a convoy, still open, toward endpoints of a mask; one whose check is held has no endpoint yet, and counts (R350, R458). -/
def State.covered (s : State) (u : Cv) (mask : BitVec 32) : Bool :=
  s.ops.any fun o => o.issuer = .convoy u && (o.kind = .store || o.kind = .atomic || o.kind = .wmAdd) &&
    (!o.placed || hasBit mask o.tgt.val)

/-- A convoy that waits at a FENCE resumes when no covered write is open, before its deadline (R274, R459). -/
def State.settleFence (s : State) (u : Cv) : State :=
  match (s.cv u).run with
  | .waitFence mask _ => if s.covered u mask || s.atDeadline u.g then s else s.modCv u fun c => { c with run := .running }
  | _ => s

def execFence (u : Cv) (f : FB) (s : State) : Res :=
  .next (issue u (f.gd.ok && f.gd.unguarded && f.typ = 0 && f.rnd = 0 && f.dest = 0 && f.imm.toNat < 2 &&
      (if f.imm = 1 then okS f.src1 else f.src1 = 0)) [] (fun s =>
    let mask : BitVec 32 := if f.imm = 1 then ((s.cv u).sGet f.src1).setWidth 32 else 0xFFFFFFFF
    (s.modCv u fun c => { c with pc := c.pc + 1, run := .waitFence mask false }).settleFence u) s)

/-! ### Waymarks (R226, R227, R270) -/

/-- Convoys of a core whose waymark target is reached resume, unless the deadline has come (R227, R246). -/
def Core.wakeWm (k : Core) (late : Bool) : Core :=
  let go (v : Convoy) : Convoy := match v.run with
    | .waitWm w t => if t.toNat ≤ (kget 0 k.wm w.toNat).toNat then { v with run := .running } else v
    | _ => v
  if late then k else { k with c0 := go k.c0, c1 := go k.c1 }

/-- Add to a waymark, saturating with WS in convoy 0 (R226). -/
def State.wmAdd (s : State) (g : CoreId) (w : BitVec 6) (n : Nat) : State :=
  let x := (kget 0 (s.core g).wm w.toNat).toNat + n
  let y : BitVec 32 := BitVec.ofNat 32 (min x 0xFFFFFFFF)
  let s := s.modCore g fun k => Core.wakeWm { k with wm := kput 0 k.wm w.toNat y } (s.atDeadline g)
  if 0xFFFFFFFF < x then s.raise { g, h := 0 } flWS else s

/-- Set a waymark (R226). -/
def State.wmSet (s : State) (g : CoreId) (w : BitVec 6) (x : BitVec 32) : State :=
  s.modCore g fun k => Core.wakeWm { k with wm := kput 0 k.wm w.toNat x } (s.atDeadline g)

/-- The 64-bit sum of an s register and the unsigned immediate (R270). -/
def wmOperand (c : Convoy) (f : FB) : BitVec 64 := c.sGet f.src1 + f.imm.setWidth 64

/-- The checks of a waymark word with an s register source. -/
def okWm (f : FB) : Bool := f.gd.ok && f.typ = 0 && f.rnd = 0 && okS f.src1

def execWmAddInstr (u : Cv) (f : FB) (s : State) : Res :=
  .next (issue u (okWm f) [] (fun s =>
    if (s.cv u).active f.gd = 0 then s.advance u
    else (s.advance u).wmAdd u.g f.dest (wmOperand (s.cv u) f).toNat) s)

def execWmSet (u : Cv) (f : FB) (s : State) : Res :=
  .next (issue u (okWm f) [] (fun s =>
    if (s.cv u).active f.gd = 0 then s.advance u
    else (s.advance u).wmSet u.g f.dest ((wmOperand (s.cv u) f).setWidth 32)) s)

def execWmWait (u : Cv) (f : FB) (s : State) : Res :=
  .next (issue u (okWm f) [] (fun s =>
    if (s.cv u).active f.gd = 0 then s.advance u
    else
      let t : BitVec 32 := (wmOperand (s.cv u) f).setWidth 32
      s.modCore u.g fun k => Core.wakeWm (k.modCv u.h fun c => { c with pc := c.pc + 1, run := .waitWm f.dest t }) (s.atDeadline u.g)) s)

def execWmRead (u : Cv) (f : FB) (s : State) : Res :=
  .next (issue u (f.gd.ok && f.typ = 0 && f.rnd = 0 && okS f.dest && f.imm = 0) [] (cvEffect u fun c =>
    (c.uniform f.gd fun c => c.sPut f.dest ((kget 0 (s.core u.g).wm f.src1.toNat).setWidth 64), 0)) s)

/-! ### Identity, flags, outputs (R273) -/

def execIdV (u : Cv) (f : FB) (s : State) : Res :=
  .next (issue u (f.gd.ok && f.typ = 0 && f.rnd = 0 && f.src1 = 0 && f.imm.toNat < 2) [f.dest.toNat] (cvEffect u fun c =>
    (c.lanes f.gd f.dest fun l => BitVec.ofNat 32 (if f.imm = 0 then 32 * u.h.val + l.val else l.val), 0)) s)

/-- The identity values of R216, by immediate (R273). -/
def State.identity (s : State) (u : Cv) (i : Nat) : BitVec 64 :=
  let x := coreStack u.g
  let c := coreCluster u.g
  let k := s.cluster x c
  BitVec.ofNat 64 (match i with
    | 2 => u.h.val
    | 3 => (coreNo u.g).val
    | 4 => c.val
    | 5 => x.val
    | 6 => u.g.val
    | 7 => if k.mode = 1 then k.period else 0
    | _ => if k.mode = 1 then k.start else s.clusterNow x c)

def execIdS (u : Cv) (f : FB) (s : State) : Res :=
  .next (issue u (f.gd.ok && f.typ = 0 && f.rnd = 0 && f.src1 = 0 && okS f.dest && 2 ≤ f.imm.toNat && f.imm.toNat ≤ 8) []
    (cvEffect u fun c => (c.uniform f.gd fun c => c.sPut f.dest (s.identity u f.imm.toNat), 0)) s)

def execFlagsRd (u : Cv) (f : FB) (s : State) : Res :=
  .next (issue u (f.gd.ok && f.typ = 0 && f.rnd = 0 && f.src1 = 0 && okS f.dest && f.imm = 0) []
    (cvEffect u fun c => (c.uniform f.gd fun c => c.sPut f.dest (c.flags.setWidth 64), 0)) s)

def execFlagsClr (u : Cv) (f : FB) (s : State) : Res :=
  .next (issue u (f.gd.ok && f.typ = 0 && f.rnd = 0 && f.src1 = 0 && f.dest = 0 && f.imm &&& ~~~(0x3F : BitVec 25) = 0) []
    (cvEffect u fun c => (c.uniform f.gd fun c => { c with flags := c.flags &&& ~~~(f.imm.setWidth 16) }, 0)) s)

/-- OUT.DONE: the report waits for the convoy's earlier operations and the core's earlier copies (R551). -/
def execOutDone (u : Cv) (f : FB) (s : State) : Res :=
  .next (issue u (f.gd.ok && f.typ = 0 && f.rnd = 0 && f.src1 = 0 && f.dest = 0 && f.imm.toNat < 256) [] (fun s =>
    if (s.cv u).active f.gd = 0 then s.advance u
    else (s.modCore u.g fun k => { k with outs := k.outs ++ [(u.h, f.imm.toNat, s.nextOp)] }).advance u) s)

/-! ### Encodings that no core runs (R251, R255) -/

/-- The minor opcodes of each major opcode (R255 to R273); an immediate form's minors are those that list it. -/
def minorsOf (major : Nat) : List Nat :=
  match major with
  | 0x01 => [0, 1, 2, 3, 4, 5, 6, 8, 9, 0xA, 0xC, 0xD, 0xE, 0xF, 0x10, 0x11, 0x12, 0x13, 0x14, 0x15, 0x18, 0x20, 0x21, 0x22,
             0x23, 0x24, 0x30, 0x31, 0x32, 0x33]
  | 0x02 => [0, 1, 2, 5, 6, 8, 9, 0xA, 0xC, 0xD, 0x10, 0x11, 0x12, 0x13, 0x14, 0x15, 0x20]
  | 0x03 => [0, 1, 2, 3, 4, 5, 6, 7, 8, 9, 0xA, 0xB, 0x10, 0x11, 0x12, 0x13, 0x14, 0x15, 0x16]
  | 0x04 => [0, 1, 2, 4, 5, 0x10, 0x11, 0x12, 0x13, 0x14, 0x15, 0x20]
  | 0x05 => [0, 1, 2, 3, 4, 5, 6, 7, 8, 9, 0xA, 0xB, 0xC, 0xD, 0xE]
  | 0x06 => [0, 1, 2, 8, 9, 0xA, 0xC, 0xD, 0x10, 0x11, 0x12, 0x13, 0x14, 0x15]
  | 0x07 => [0, 8, 9, 0xA, 0xC, 0xD, 0xE, 0x10, 0x11, 0x12, 0x13, 0x14, 0x15]
  | 0x08 => [0, 1, 2, 3, 4]
  | 0x09 => [0, 1, 2, 3, 4, 8, 9, 0xA, 0xB, 0xC, 0xD]
  | 0x10 => [0, 1, 2, 3, 4, 5]
  | 0x11 => [0, 1]
  | 0x12 => [0, 1, 2, 3, 4, 5, 6, 7, 8]
  | 0x13 => [0, 1]
  | 0x14 => [0, 1, 2, 3, 4]
  | 0x18 => [0, 1, 2, 4, 5, 6, 8, 9, 0xB, 0x10]
  | 0x19 => [0, 1, 2]
  | 0x1A => [0, 1, 2, 3, 4]
  | _ => []

/-- The minor opcode of a word under its major opcode's format (R249, R255). -/
def minorOfWord (w : Nat) : Nat :=
  let m := bits w 63 57
  if m = 0x08 then bits w 31 23
  else if 0x10 ≤ m ∧ m ≤ 0x13 then bits w 34 26
  else if m = 0x02 ∨ m = 0x04 ∨ m = 0x07 ∨ 0x14 ≤ m then bits w 40 32
  else bits w 28 20

/-- A word whose major or minor opcode is reserved (R251). -/
def reservedWord (w : BitVec 64) : Bool := !(minorsOf (bits w.toNat 63 57)).contains (minorOfWord w.toNat)

/-- Instructions of the loaded program: a bank in scheduled mode, both banks in free-run (R228, R230). -/
def State.progLen (s : State) (g : CoreId) : Nat :=
  let k := s.core g
  if (s.cluster (coreStack g) (coreCluster g)).mode = 2 then k.bankA.length + k.bankB.length
  else if k.active = 0 then k.bankA.length else k.bankB.length

/-- A word with a reserved opcode issues, or the convoy fetches past its program: IL (R230, R251, R255). A word that is not
reserved, or a fetch inside the program, is another row's. -/
def execIllegalInstruction (u : Cv) (w : Option (BitVec 64)) (s : State) : Res :=
  .next (if s.mayIssue u && (match w with
      | some x => reservedWord x
      | none => s.progLen u.g ≤ (s.cv u).pc) then s.raise u flIL else s)

end Sys2Proof.Machine
end

