-- ==== Sys2Proof/Machine/PageMap.lean ====
section
/-!
DEFINITION. The page map: entries (R345, R346), placement (R347), frames by access (R349), the page-map cache (R360),
the sender's check (R359, R578), and the page-map loader with its frame table (R348, R355 to R358, R373).
-/

namespace Sys2Proof.Machine

/-! ### Entries (R345, R346) -/

def eValid (e : BitVec 64) : Bool := e.getLsbD 63
def eOwner (e : BitVec 64) : Nat := bits e.toNat 62 59
def eClass (e : BitVec 64) : Nat := bits e.toNat 58 57
def eMode (e : BitVec 64) : Nat := bits e.toNat 56 55
def eSel (e : BitVec 64) : Bool := e.getLsbD 54
def eCount (e : BitVec 64) : Nat := bits e.toNat 53 52
def eFrameA (e : BitVec 64) : Nat := bits e.toNat 51 32
def eFrameB (e : BitVec 64) : Nat := bits e.toNat 31 12

/-- The state lost of R346. -/
def eLost (e : BitVec 64) : Bool := !eValid e && eMode e = 3
/-- The state versioned of R346. -/
def eVersioned (e : BitVec 64) : Bool := eValid e && eFrameA e ≠ eFrameB e

/-- A valid entry that keeps the rules of R345 and R346. -/
def eOk (e : BitVec 64) : Bool :=
  eValid e && eMode e ≠ 3 && bits e.toNat 11 0 = 0 &&
  (if eClass e = 3 then eCount e ≠ 0 && eMode e = 2 && eVersioned e else eCount e = 0) &&
  (eMode e ≠ 2 || eVersioned e)

/-- The entry of a lost page: the owner and frames are kept (R346). -/
def eMarkLost (e : BitVec 64) : BitVec 64 := (e &&& 0x7FFFFFFFFFFFFFFF) ||| 0x0180000000000000

/-- An entry with its version select flipped (R350). -/
def eFlip (e : BitVec 64) : BitVec 64 := e ^^^ 0x0040000000000000

/-- The frame that a frame field names (R347). -/
def frameOf (n f : Nat) : Nat := n / 2 ^ 20 % 2 * 2 ^ 20 + f

/-- The frames that a frame field of an entry uses: one, or one per replica (R347). -/
def framesOfField (e : BitVec 64) (n f : Nat) : List Nat :=
  let F := frameOf n f
  if eClass e = 3 then (List.range (eCount e + 1)).map fun i => 16 * (F / 16) + 4 * i + F % 16 else [F]

/-- All frames of an entry of page n, each once. -/
def eFrames (n : Nat) (e : BitVec 64) : List Nat :=
  if eValid e || eLost e then
    if eFrameA e = eFrameB e then framesOfField e n (eFrameA e)
    else framesOfField e n (eFrameA e) ++ framesOfField e n (eFrameB e)
  else []

/-- The layout of a group that an entry's class asks for: 1 for 16 stacks, 2 for 4 stacks and replicated, 3 for one (R347). -/
def eLayout (e : BitVec 64) : BitVec 2 := if eClass e = 0 then 1 else if eClass e = 2 then 3 else 2

/-! ### Placement (R347) -/

/-- The HBM3 key of a stack-local address. -/
def hbmKey (h l : Nat) : Nat := 2 ^ 37 * h + l

/-- Where byte o of a page in frame F lies, by class; i numbers the replica (R347). -/
def placeByte (cls F o i : Nat) : Nat :=
  let u := o / 512
  let F := if cls = 3 then 16 * (F / 16) + 4 * i + F % 16 else F
  let G := F / 16
  if cls = 0 then hbmKey (u % 16) (F * 2 ^ 16 + u / 16 * 512 + o % 512)
  else if cls = 2 then hbmKey (F % 16) (G * 2 ^ 20 + o)
  else hbmKey (4 * (F % 16 / 4) + u % 4) (G * 2 ^ 20 + F % 4 * 2 ^ 18 + u / 4 * 512 + o % 512)

/-- The port-die endpoint that serves an HBM3 key (R32, R347). -/
def epOfHbm (key : Nat) : EpId := ⟨16 + key / 2 ^ 37 % 16 / 2, by omega⟩

/-- The HBM3 stack of a key. -/
def stackOfHbm (key : Nat) : Fin 16 := ⟨key / 2 ^ 37 % 16, by omega⟩

/-- The HBM3 stacks that hold a frame of a layout class (R347, R373). -/
def frameOnStack (cls F h : Nat) : Bool :=
  if cls = 0 then true else if cls = 2 then F % 16 = h else F % 16 / 4 = h / 4

/-! ### Lookup (R360) -/

/-- A replica by tile (R344). -/
def HbmDie.rep (d : HbmDie) (t : TileId) : KMap (BitVec 64) :=
  if t = 0 then d.rep0 else if t = 1 then d.rep1 else if t = 2 then d.rep2 else d.rep3

/-- Change a replica. -/
def HbmDie.modRep (d : HbmDie) (t : TileId) (f : KMap (BitVec 64) → KMap (BitVec 64)) : HbmDie :=
  if t = 0 then { d with rep0 := f d.rep0 } else if t = 1 then { d with rep1 := f d.rep1 }
  else if t = 2 then { d with rep2 := f d.rep2 } else { d with rep3 := f d.rep3 }

/-- The tile whose replica serves an endpoint: its own, or the next one that is whole while its own is being copied (R38, R190, R360). -/
def State.servTile (s : State) (e : EpId) : TileId :=
  let t := tileOfEp e
  if hasBit s.pm.copying t.val then
    (([t + 1, t + 2, t + 3] : List TileId).find? fun x => !(hasBit s.pm.repDown x.val || hasBit s.pm.copying x.val)).getD t
  else t

/-- Whether the loader accepts and judges nothing: tile 0 is in reset or its frame table is being rebuilt (R348, R647). -/
def State.loaderDown (s : State) : Bool := hasBit s.pm.repDown 0 || s.pm.rebuilding

/-- The entry of a page in the page-map loader's own replica, that of base tile 0; its judgements wait while the loader is down (R348, R647). -/
def State.mapEntry (s : State) (n : Nat) : BitVec 64 := kget 0 (s.pm.rep (s.servTile 28)) n

/-- A cached entry moves to the front; the least recently used of a full set leaves (R360). -/
def cacheTouch (c : List (Nat × BitVec 64)) (n : Nat) (e : BitVec 64) : List (Nat × BitVec 64) :=
  let r := c.filter (·.1 ≠ n)
  let same := r.filter fun x => x.1 % 1024 = n % 1024
  let r := if same.length < 4 then r else match same.getLast? with
    | some l => r.filter (·.1 ≠ l.1)
    | none => r
  (n, e) :: r

/-- What a page's entry becomes by the batches whose update tick has come, though the event that writes them is still to be taken up: a
translation at the tick uses the new entry (R356, R376). -/
def State.dueEntry (s : State) (n : Nat) (v : BitVec 64) : BitVec 64 :=
  s.pm.accepted.foldl (fun v b =>
    if b.u.all fun u => s.now < u then v
    else match b.recs.find? (·.1 = n) with
      | some r => if b.flip then eFlip v else r.2
      | none => v) v

/-- Look an entry up through an endpoint's cache (R360). -/
def State.lookup (s : State) (e : EpId) (n : Nat) : BitVec 64 × State :=
  let v := match (s.ep e).cache.find? (·.1 = n) with
    | some x => x.2
    | none => kget 0 (s.pm.rep (s.servTile e)) n
  (s.dueEntry n v, s.modEp e fun x => { x with cache := cacheTouch x.cache n v })

/-- Every endpoint forgets its cached entries of a partition (R350). -/
def State.forget (s : State) (p : Nat) : State :=
  { s with eps := kmapIf {} s.eps (fun _ => true) fun x => { x with cache := x.cache.filter fun y => !((eValid y.2 || eLost y.2) && eOwner y.2 = p) } }

/-- Every endpoint forgets its cached entries of some partitions, and of some pages, which covers those that it holds as unassigned (R356). -/
def State.forgetAll (s : State) (owners pages : List Nat) : State :=
  { s with eps := kmapIf {} s.eps (fun _ => true) fun x => { x with cache := x.cache.filter fun y =>
      !((eValid y.2 || eLost y.2) && owners.contains (eOwner y.2)) && !pages.contains y.1 } }

/-! ### The sender's check (R359) -/

/-- Kinds of accesses that the check tells apart. -/
inductive AccKind where
  | read | store | atomic | copyWrite
  deriving DecidableEq, Repr

/-- Whose access it is: a core, a core's copy into the host window, a descriptor, a host's CXL.mem request, an open site. -/
inductive Use where
  | core | toHost | desc | mem | site
  deriving DecidableEq, Repr

/-- Where an access goes: endpoint and place: an HBM3 key, a memory-layer key or a host physical address. -/
structure Place where
  tgt : EpId
  loc : Nat
  deriving DecidableEq, Repr

/-- What the check answers: the places (several for a publish write), with the number and entry of a versioned page; a status; or a hold. -/
inductive Chk where
  | ok (l : List Place) (ver : Option (Nat × BitVec 64))
  | fail (st : BitVec 4)
  | hold
  deriving DecidableEq, Repr

/-- Statuses of R362. -/
def stOk : BitVec 4 := 0
def stTimeout : BitVec 4 := 1
def stReset : BitVec 4 := 2
def stUnknown : BitVec 4 := 3
def stAddress : BitVec 4 := 4
def stNotOwned : BitVec 4 := 5
def stWrite : BitVec 4 := 6
def stLost : BitVec 4 := 7
def stAccess : BitVec 4 := 8
def stXs : BitVec 4 := 9
def stVersion : BitVec 4 := 0xA
def stPartial : BitVec 4 := 0xB
def stData : BitVec 4 := 0xC

/-- Whether a page belongs to a declared output of a period (R547, R552). -/
def Period.hasPage (x : Period) (n : Nat) : Bool := x.outs.any fun o => o.first ≤ n && n < o.first + o.pages

/-- Whether an endpoint's replica holds a translation of a page of a committing partition (R350, R553, R647). -/
def State.holds (s : State) (e : EpId) (p : PartId) (n : Nat) : Bool :=
  let t := s.servTile e
  (s.part p).periods.any fun x =>
    x.stage ≠ .noticed && x.deadline < s.copyNow e && !hasBit x.decided t.val && !x.outs.isEmpty &&
    (x.hasPage n || !(hasBit x.flipped t.val || hasBit x.failSeen t.val))

/-- The period whose tag an access carries, when it runs (R349). -/
def State.ofTag (s : State) (p : PartId) (tag : BitVec 8) : Option Period :=
  if tag = 0 then none else (s.part p).periods.find? fun x => x.stage = .running && periodTag x.no = tag

/-- A page that a loaded bundle's envelope binds is bound in the bitmap (R578). -/
def State.bound (s : State) (n : Nat) : Bool := kget false s.pm.bound n

/-- The outcome of the bound-page rules for an access, if they refuse it: what reads a page is a loaded bundle that an envelope of it permits
(R578; DEDUCED, log 70). -/
def State.boundRefuses (s : State) (p : PartId) (k : AccKind) (u : Use) (n : Nat) : Option (BitVec 4) :=
  if !s.bound n then none
  else if (s.part p).kernel.isSome then some stNotOwned
  else if k ≠ .read then some stWrite
  else if u = .toHost || u = .desc || u = .mem then some stNotOwned
  else
    let mine := (s.part p).bundle.any fun b => (s.part p).envelopes.any fun v => v.first ≤ n && n < v.first + v.pages && v.permitted.contains b.digest
    if mine then none else some stNotOwned

/-- The HBM half of the check: an entry, the byte in the page, and the frames of R349. A page that a copy has translated keeps its entry
(R352). -/
def State.checkHbm (s : State) (e : EpId) (p : PartId) (k : AccKind) (u : Use) (tag : BitVec 8) (a : Nat)
    (pin : Option (Nat × BitVec 64) := none) : Chk × State :=
  let n := a / 2 ^ 20
  let o := a % 2 ^ 20
  if s.holds e p n then (.hold, s)
  else
    let (v, s) := match pin.filter (·.1 = n) with
      | some x => (if eLost (s.lookup e n).1 then (s.lookup e n).1 else x.2, s)
      | none => s.lookup e n
    if eLost v then (.fail stLost, s)
    else if !eValid v || eOwner v ≠ p.val then (.fail stNotOwned, s)
    else match s.boundRefuses p k u n with
      | some st => (.fail st, s)
      | none =>
        if k ≠ .read && eMode v = 1 then (.fail stWrite, s)
        else if (k = .store || k = .atomic) && eMode v = 2 then (.fail stWrite, s)
        else if k = .atomic && eClass v = 3 then (.fail stWrite, s)
        else
          let own := (s.ofTag p tag).any (·.hasPage n)
          if k ≠ .read && u = .mem && (s.part p).running.any (·.hasPage n) then (.fail stWrite, s)
          else
            let shadow := eVersioned v && (if eMode v = 2 then k = .copyWrite else own)
            let f := if eSel v != shadow then eFrameB v else eFrameA v
            let at_ (i : Nat) : Place := let l := placeByte (eClass v) (frameOf n f) o i; ⟨epOfHbm l, l⟩
            let ver := if eVersioned v then some (n, v) else none
            if eClass v = 3 then
              if k = .read then (.ok [at_ ((tileOfEp e).val % (eCount v + 1))] ver, s)
              else (.ok ((List.range (eCount v + 1)).map at_) ver, s)
            else (.ok [at_ 0] ver, s)

/-- The check of an operation of a partition at its sending endpoint (R341 to R343, R359, R365). -/
def State.check (s : State) (e : EpId) (p : PartId) (k : AccKind) (u : Use) (tag : BitVec 8) (a : Nat)
    (pin : Option (Nat × BitVec 64) := none) : Chk × State :=
  if a < 2 ^ 41 then s.checkHbm e p k u tag a pin
  else if 0x20000000000 ≤ a ∧ a < 0x20200000000 then
    let o := a - 0x20000000000
    let x : StackId := ⟨o / 2 ^ 29 % 16, by omega⟩
    if !hasBit (s.part p).stackMask x.val || 120 ≤ o / 2 ^ 22 % 128 || k = .atomic then (.fail stAddress, s)
    else (.ok [⟨stackEp x, o⟩] none, s)
  else if 2 ^ 46 ≤ a ∧ a < 2 ^ 47 then
    if (s.part p).winSize.toNat ≤ a - 2 ^ 46 || k = .atomic then (.fail stAddress, s)
    else (.ok [⟨s.gwOf p, (s.part p).winBase.toNat + (a - 2 ^ 46)⟩] none, s)
  else (.fail stAddress, s)

/-! ### The loader's frame table (R348) -/

/-- The state of a frame. -/
def HbmDie.frame (d : HbmDie) (f : Nat) : FrameSt := kget .free d.frames f

/-- The state of every frame and the layout of every group follow from the replica and the quarantine (R348). -/
def HbmDie.rebuild (d : HbmDie) (rep : KMap (BitVec 64)) : HbmDie :=
  let d := rep.foldl (fun d (n, e) =>
    (eFrames n e).foldl (fun d f =>
      { d with frames := kput .free d.frames f (if eLost e then .lost else .inUse)
               layouts := kput 0 d.layouts (f / 16) (eLayout e) }) d) { d with frames := [], layouts := [] }
  d.quar.foldl (fun d (f, _, l) =>
    { d with frames := kput .free d.frames f .quarantined, layouts := kput 0 d.layouts (f / 16) l }) d

/-- A page that a partition's loaded bundle names: in its memory declarations, as an image page, or in a declared output (R357, R548). -/
def Part.declares (b : Part) (n : Nat) : Bool :=
  b.bundle.any fun x => (x.decls.any fun m => m.first ≤ n && n < m.first + m.count) ||
    (x.imageFirst ≤ n && n < x.imageFirst + x.imagePages) || x.outs.any fun l => l.any fun o => o.first ≤ n && n < o.first + o.pages

/-- A batch waits or has been accepted that names a page. -/
def HbmDie.pending (d : HbmDie) (n : Nat) : Bool := (d.waiting ++ d.accepted).any fun b => b.recs.any (·.1 = n)

/-- A list names nothing twice. -/
def noTwice : List Nat → Bool
  | [] => true
  | n :: r => !r.contains n && noTwice r

/-- The checks of R357 on the entries that a partition offers, in order: descriptor status and detail of the first that
applies. -/
def State.checkBatch (s : State) (p : PartId) (recs : List (Nat × BitVec 64)) : Option (Nat × Nat) :=
  if 4096 < recs.length || !noTwice (recs.map (·.1)) || recs.any (fun r => 2 ^ 21 ≤ r.1 || !eOk r.2 || eOwner r.2 ≠ p.val ||
      (eClass r.2 = 3 && (3 < eFrameA r.2 % 16 || 3 < eFrameB r.2 % 16))) then some (1, 0)
  else if recs.any (fun r => eOwner (s.mapEntry r.1) ≠ p.val || !(eValid (s.mapEntry r.1) || eLost (s.mapEntry r.1))) then
    some (0x0B, 5)
  else if recs.any (fun r => eLost (s.mapEntry r.1)) then some (0x0B, 7)
  else if recs.any (fun r => (s.part p).declares r.1 || s.bound r.1) then some (0x0C, 0)
  else
    let named := recs.map (·.1)
    let newF := recs.foldl (fun l r => l ++ eFrames r.1 r.2) []
    let freed := recs.foldl (fun l r => l ++ eFrames r.1 (s.mapEntry r.1)) []
    let group (f : Nat) : Bool :=
      recs.all (fun r => (eFrames r.1 r.2).all fun g => g / 16 ≠ f / 16 ||
        ((recs.all fun q => (eFrames q.1 q.2).all fun h => h / 16 ≠ g / 16 || eLayout q.2 = eLayout r.2) &&
         (kget 0 s.pm.layouts (f / 16) = 0 || kget 0 s.pm.layouts (f / 16) = eLayout r.2)))
    if !noTwice newF || newF.any (fun f => s.pm.frame f = .inUse && !freed.contains f) || newF.any (fun f => !group f) ||
        s.pm.accepted.any (fun b => b.recs.any fun r => !named.contains r.1 && (eFrames r.1 r.2).any newF.contains) then some (0x0D, 0)
    else if newF.any (fun f => s.pm.frame f = .quarantined || s.pm.frame f = .lost) then some (0x0E, 0)
    else none

/-- Put a frame of a released page in quarantine until a tick (R358). -/
def HbmDie.quarantine (d : HbmDie) (u : Nat) (f : Nat) : HbmDie :=
  { d with frames := kput .free d.frames f .quarantined, quar := d.quar ++ [(f, u + 4010000, kget 0 d.layouts (f / 16))] }

/-- The frames that the entries of a batch use. -/
def framesOfRecs (recs : List (Nat × BitVec 64)) : List Nat := recs.flatMap fun r => eFrames r.1 r.2

/-- Write one record of a batch at update tick U: into every replica that is not in reset, and into the frame table, where
the frames that no entry of the batch uses any more enter quarantine (R348, R356, R358). -/
def HbmDie.writeRec (d : HbmDie) (u : Nat) (kept : List Nat) (old : BitVec 64) (r : Nat × BitVec 64) : HbmDie :=
  let new := eFrames r.1 r.2
  let gone := (eFrames r.1 old).filter fun f => !kept.contains f
  let d := gone.foldl (fun d f => d.quarantine u f) d
  let d := new.foldl (fun d f => { d with frames := kput .free d.frames f (if eLost r.2 then .lost else .inUse)
                                          layouts := kput 0 d.layouts (f / 16) (eLayout r.2) }) d
  let put (d : HbmDie) (t : TileId) : HbmDie := d.modRep t fun m => kput 0 m r.1 r.2
  allTiles.foldl (fun d t => if hasBit d.repDown t.val then d else put d t) d

/-- The pages that a port die's reset without self-refresh loses (R373), in rising order. -/
def State.lostPages (s : State) (k : Fin 8) : List (Nat × BitVec 64) :=
  ((s.pm.rep (s.servTile 28)).filter fun (n, e) => eValid e && (eFrames n e).any fun f =>
    frameOnStack (eClass e) f (2 * k.val) || frameOnStack (eClass e) f (2 * k.val + 1)).map fun (n, e) => (n, eMarkLost e)

/-- A batch of lost marking. -/
def Batch.isLost (b : Batch) : Bool :=
  match b.src with
  | .lost _ => true
  | _ => false

/-- A page command that waits. -/
def Batch.isCmd (b : Batch) : Bool :=
  match b.src with
  | .cmd _ _ _ _ => true
  | _ => false

/-- Offer a batch: lost marking goes ahead of every waiting batch (R356). -/
def State.offerBatch (s : State) (b : Batch) : State :=
  let w := s.pm.waiting
  { s with pm := { s.pm with waiting :=
      if b.isLost then w.takeWhile Batch.isLost ++ [b] ++ w.dropWhile Batch.isLost else w ++ [b] } }

end Sys2Proof.Machine
end

