-- ==== Sys2Proof/Machine/Remote.lean ====
section
/-!
DEFINITION. Remote operations at their sender: formation, translation, attempts, retries and end (R223, R267, R359,
R362, R364, R366, R368, R442), the accounting of copies (R225, R370, R371, R456, R457), and the instructions of the
global memory and atomics classes (R267, R268) and WM.SIGNAL (R270).
-/

namespace Sys2Proof.Machine

/-! ### Operations -/

/-- The timeout T of a partition in ticks (R368). -/
def State.timeoutOf (s : State) (p : PartId) : Nat := (s.part p).timeoutUs * 1000

/-- Payload bytes of a data packet (R428). -/
def payloadLen : Payload → Nat
  | .line _ => 64
  | .store _ _ => 72
  | .atomic a => 8 + a.operand.length
  | .copyRead _ _ _ _ _ => 16
  | .copyData d => d.length
  | .wmAdd _ _ _ => 8
  | _ => 0

/-- The packet operation of an operation (R428). -/
def OpKind.pop : OpKind → POp
  | .load => .load
  | .store => .store
  | .atomic => .atomic
  | .copyRead => .copyRead
  | .copySend => .copyData
  | .wmAdd => .wmAdd

/-- The access that the check of R359 sees. -/
def OpKind.acc : OpKind → AccKind
  | .load => .read
  | .store => .store
  | .atomic => .atomic
  | .copyRead => .read
  | .copySend => .copyWrite
  | .wmAdd => .store

/-- Whose access an operation is. -/
def Issuer.use : Issuer → Use
  | .convoy _ => .core
  | .copy _ _ => .core
  | .mem _ _ => .mem
  | .site _ _ => .site
  | .gone => .core

/-- The core that issued an operation. -/
def Issuer.core : Issuer → Option CoreId
  | .convoy u => some u.g
  | .copy g _ => some g
  | _ => none

/-- Form an operation: its serial number, and an operation ID for an atomic or a WM_ADD (R366, R457). -/
def State.addOp (s : State) (o : RemOp) : State :=
  let o := { o with serial := s.nextOp }
  let s := { s with nextOp := s.nextOp + 1 }
  if o.kind = .atomic || o.kind = .wmAdd then
    let c := (s.ep o.snd).opCtr
    let s := (s.modEp o.snd fun e => { e with opCtr := (c + 1) % 2 ^ 43 }).cwPut o.snd { kind := 9, ep := 0, vc := 0, value := BitVec.ofNat 64 ((c + 1) % 2 ^ 43) }
    { s with ops := s.ops ++ [{ o with opId := BitVec.ofNat 48 (o.snd.val * 2 ^ 43 + c) }] }
  else { s with ops := s.ops ++ [o] }

/-- An open operation by its serial number. -/
def State.op? (s : State) (n : Nat) : Option RemOp := s.ops.find? (·.serial = n)

/-- Change an open operation. -/
def State.modOp (s : State) (n : Nat) (f : RemOp → RemOp) : State :=
  { s with ops := s.ops.map fun o => if o.serial = n then f o else o }

/-- Attempts that are neither answered nor timed out. -/
def RemOp.unresolved (o : RemOp) : Bool := o.attempts.any fun a => a.sent && !a.answered && !a.timedOut

/-- Two operations of one issuer to one line (R442). -/
def RemOp.sameLine (o q : RemOp) : Bool :=
  o.issuer = q.issuer && o.addr.toNat / 64 = q.addr.toNat / 64 && o.kind ≠ .wmAdd && q.kind ≠ .wmAdd

/-- Reply space of an endpoint, in replies (R435). -/
def replyCap (e : EpId) : Nat := if e.val < 16 then 16384 else if 28 ≤ e.val then 256 else 4096

/-- Whether an endpoint has room for one more reply: every load attempt that has been sent keeps its reservation until its reply arrives or the
operation ends, whether or not it has timed out (R368, R435). -/
def State.replyRoom (s : State) (e : EpId) : Bool :=
  decide (s.ops.foldl (fun n o =>
    if o.snd = e && o.kind = .load then n + (o.attempts.filter fun a => a.sent && !a.answered).length else n) 0 < replyCap e)

/-- Whether an operation may not start yet: the order of a line, or a release, which waits for the operations of earlier instructions (R267,
R270, R442). -/
def State.blocked (s : State) (o : RemOp) : Bool :=
  match o.issuer with
    | .convoy _ =>
      (s.ops.any fun q => q.serial < o.serial && q.sameLine o) || (s.tails.any fun q => q.sameLine o) ||
      ((o.kind = .wmAdd || o.order.getLsbD 1) && s.ops.any fun q => q.serial < o.instr && q.issuer = o.issuer)
    | _ => false

/-! ### Registers and waymarks at the end of an operation -/

/-- The bits of a lane's share of a line, placed in its register: the part from the element's lowest bit clears the bits
above the element (R266). -/
def Convoy.putShare (c : Convoy) (t : BitVec 4) (reg : BitVec 6) (d : LaneDest) (line : List Byte) : Convoy :=
  let x := field line d.byte d.size / 2 ^ d.skip % 2 ^ d.width
  if 32 ≤ d.width then c.eltPut t d.lane reg x
  else if d.pos = 0 then
    let old := if d.width = eltBits t then 0 else (c.vGet d.lane reg.toNat).toNat % 2 ^ eltBits t / 2 ^ d.width * 2 ^ d.width
    c.vPut d.lane reg.toNat (BitVec.ofNat 32 (old + x))
  else
    let old := (c.vGet d.lane reg.toNat).toNat
    c.vPut d.lane reg.toNat (BitVec.ofNat 32 (old % 2 ^ d.pos + x * 2 ^ d.pos + old / 2 ^ (d.pos + d.width) * 2 ^ (d.pos + d.width)))

/-- Find a copy of a core. -/
def Core.copy? (k : Core) (id : Nat) : Option CopyDesc := (k.queue ++ k.flying).find? (·.id = id)

/-- Change a copy of a core. -/
def Core.modCopy (k : Core) (id : Nat) (f : CopyDesc → CopyDesc) : Core :=
  let go (c : CopyDesc) : CopyDesc := if c.id = id then f c else c
  { k with queue := k.queue.map go, flying := k.flying.map go }

/-- The core whose waymark a block advances (R370): a slice's core, the issuer's number in a pool's cluster, else the
issuing core; slot is the destination stack of a multicast. -/
def CopyDesc.wmCore (c : CopyDesc) (g : CoreId) (block slot : Nat) : CoreId :=
  let a := c.dst + 4096 * block
  if 0x20000000000 ≤ a ∧ a < 0x20200000000 then
    let o := a - 0x20000000000
    let o := if c.mask = 0 then o else o % 2 ^ 29 + slot * 2 ^ 29
    match mlPlace o with
    | some pl => coreOf pl.stack pl.cluster (pl.core.getD (coreNo g))
    | none => g
  else g

/-- Queue the WM_ADD of a complete block (R457). -/
def State.blockDone (s : State) (g : CoreId) (c : CopyDesc) (block slot : Nat) : State :=
  let m := c.wmCore g block slot
  s.addOp { kind := .wmAdd, issuer := .copy g c.id, snd := stackEp (coreStack g), part := ⟨c.part % 16, by omega⟩,
            vc := if c.tag = 0 then 2 else 1, tag := c.tag,
            deadline := if c.tag = 0 then none else some (s.cluster (coreStack g) (coreCluster g)).deadline,
            placed := true, tgt := stackEp (coreStack m), ackBy := stackEp (coreStack m),
            payload := .wmAdd m.val c.dstWm 1 }

/-- A copy that has handed over every request and has no open operation ends: a source waymark that waits for it advances
when every block succeeded; failed destinations of a multicast are a partial delivery (R225, R456). -/
def State.settleCopy (s : State) (g : CoreId) (id : Nat) : State :=
  match (s.core g).flying.find? (·.id = id) with
  | none => s
  | some c =>
    if s.ops.any fun o => o.issuer = .copy g id then s
    else
      let s := s.modCore g fun k => { k with flying := k.flying.filter (·.id ≠ id) }
      if c.failedMask ≠ 0 then
        let e := stackEp (coreStack g)
        let s := s.modEp e fun x => { x with partials := (x.partials ++ [leBytes 2 g.val ++ leBytes 1 c.slot ++ [0] ++
          leBytes 4 c.failedMask.toNat ++ leBytes 8 (s.copyNow e)]).drop (x.partials.length + 1 - 64) }
        s.raise { g, h := c.h } flRF
      else if c.stopped || c.wmLost then s
      else match c.srcWm with
        | some w => if c.srcOwn then s else s.wmAdd g w 1
        | none => s

/-- A copy stops: what it has not sent is discarded, its entry leaves the queue, and RF is set (R371). -/
def State.stopCopy (s : State) (g : CoreId) (c : CopyDesc) : State :=
  let s := s.modCore g fun k =>
    { k with queue := k.queue.filter (·.id ≠ c.id)
             flying := { c with stopped := true } :: k.flying.filter (·.id ≠ c.id) }
  let s := s.dropOps fun o => o.issuer = .copy g c.id && o.kind ≠ .wmAdd && !(o.attempts.any (·.sent))
  s.raise { g, h := c.h } flRF

/-- The bytes of a copy that one of its data operations moves. -/
def RemOp.copyLen (o : RemOp) : Nat :=
  match o.payload with
  | .copyRead _ n _ _ _ => n
  | .copyData d => d.length
  | _ => 0

/-- Account for the end of one operation of a copy: a destination of a multicast that fails is a partial delivery, and the copy stops when its
source fails or no destination is left (R370, R371, R456, R457). -/
def State.copyOpEnd (s : State) (g : CoreId) (id : Nat) (o : RemOp) (st : BitVec 4) : State :=
  match (s.core g).copy? id with
  | none => s
  | some c =>
    let s :=
      if o.kind = .wmAdd then
        if st = stOk then s else (s.modCore g fun k => k.modCopy id fun c => { c with wmLost := true }).raise { g, h := c.h } flRF
      else if st = stOk then
        let key := o.block * 32 + o.slot
        let n := kget 0 c.left key - o.copyLen
        let c := { c with left := kput 0 c.left key n }
        let s := s.modCore g fun k => k.modCopy id fun _ => c
        if n = 0 && !c.stopped then s.blockDone g c o.block o.slot else s
      else if c.mask ≠ 0 && !o.srcFail then
        let c := { c with failedMask := putBit c.failedMask o.slot true }
        let s := s.modCore g fun k => k.modCopy id fun _ => c
        if !c.stopped && (bitList c.mask).all (hasBit c.failedMask) then s.stopCopy g c else s
      else if c.stopped then s
      else s.stopCopy g c
    s.settleCopy g id

/-! ### The end of an operation -/

/-- A refused CXL.mem request warns, at most once per millisecond for each kind (R517). -/
def State.memWarn (s : State) (t : PortId) (read : Bool) : State :=
  let last := if read then (s.port t).poisonTick else (s.port t).discardTick
  if last.all fun k => k + 1000000 ≤ s.now then
    (s.modPort t fun q => if read then { q with poisonTick := some s.now } else { q with discardTick := some s.now }).ev
      (if read then 0xB001 else 0xB002) warn 0x06 (gwEp t).val
  else s

/-- A read refused answers all ones with the Poison bit, a write refused completes and is discarded (R517). -/
def State.memRefuse (s : State) (t : PortId) (tag : Nat) (read : Bool) : State :=
  (s.memWarn t read).emit (if read then .memData t tag (List.replicate 64 0xFF) true else .memDone t tag)

/-- A CXL.mem access ends: its data; a refusal of the check; or a failure, whose data the spec leaves open (R517). -/
def State.memEnd (s : State) (t : PortId) (tag : Nat) (o : RemOp) (st : BitVec 4) (d : List Byte) : State :=
  let read := o.kind = .load
  if st = stOk then s.emit (if read then .memData t tag d false else .memDone t tag)
  else if st = stAddress || st = stNotOwned || st = stWrite || st = stLost then s.memRefuse t tag read
  else if read then ({ s with free := s.free + 64 }).emit (.memData t tag (s.freeBytes 64) true)
  else s.emit (.memDone t tag)

/-- End an operation with a final status, and the bytes it returned; what its issuer sees follows (R223, R307, R362). -/
def State.finishOp (s : State) (o : RemOp) (st : BitVec 4) (d : List Byte) : State :=
  let s := { s with ops := s.ops.filter (·.serial ≠ o.serial) }
  let s := if o.attempts.any fun a => !a.sent then s.dropQueued (· = o.serial) else s
  let isCv := match o.issuer with
    | .convoy _ => true
    | _ => false
  let s := if isCv && o.unresolved then { s with tails := s.tails ++ [o] } else s
  match o.issuer with
  | .convoy u =>
    let s := if st = stOk then s.modCv u fun c => o.dests.foldl (fun c x => c.putShare o.typ o.reg x d) c else s
    (s.raise u (if st = stOk then 0 else if st = stXs then flXO else flRF)).settleFence u
  | .copy g id => s.copyOpEnd g id o st
  | .mem t tag => s.memEnd t tag o st d
  | .site t tag =>
    let more (q : RemOp) : Bool := q.issuer = o.issuer && q.instr = o.instr
    if st ≠ stOk then (s.dropOps more).emit (.siteReply t tag st d)
    else if s.ops.any more then s else s.emit (.siteReply t tag st d)
  | .gone => s

/-! ### Attempts (R368) -/

/-- Whether a next attempt is allowed (R368). -/
def State.mayRetry (s : State) (o : RemOp) : Bool :=
  let m := o.attempts.length
  m ≤ 3 && (match o.deadline, o.first with
    | some d, some f => f + (m + 1) * s.timeoutOf o.part ≤ d
    | _, _ => true)

/-- The operation tag of an attempt (R427); that of a copy's data packet gets its sequence at sending. -/
def RemOp.otag (o : RemOp) : BitVec 80 :=
  if o.kind = .atomic || o.kind = .wmAdd then BitVec.ofNat 80 (o.opId.toNat + o.first.getD 0 % 2 ^ 32 * 2 ^ 48)
  else if o.kind = .copySend then BitVec.ofNat 80 o.snd.val else 0

/-- Hand a new attempt of a started operation to the send queue; toward a peer held lost it ends at once with "endpoint
reset" (R199, R368), and a line with a bad word is not sent (R327). Operations of one multicast packet start together: the first carries the mask
(R455). -/
def State.sendAttempt (s : State) (n : Nat) (mask : BitVec 32 := 0) (group : List Nat := []) : State :=
  match s.op? n with
  | none => s
  | some o =>
    let lost := hasBit (s.ep o.snd).lost o.tgt.val
    let ns := n :: group
    let att : Attempt := { seq := 0, mcast := mask ≠ 0, sent := lost || o.dark, answered := lost, timedOut := false }
    let add (q : RemOp) : RemOp :=
      { q with attempts := q.attempts ++ [att], last := if lost then stReset else stTimeout }
    let s := { s with ops := s.ops.map fun q => if ns.contains q.serial then add q else q }
    if lost || o.dark then s
    else
      let pl := match o.payload with
        | .copyRead dst len _ de dl => .copyRead dst len mask de dl
        | p => p
      let h : Hdr :=
        { vc := o.vc, mcast := mask ≠ 0 && o.kind = .copySend, mmask := if o.kind = .copySend then mask else 0, hopDst := o.tgt, target := o.tgt, tag := o.tag, part := o.part,
          len := payloadLen o.payload, addr := o.addr, otag := o.otag, loc := o.loc, iss := o.issuer.core }
      s.enqueue o.snd o.kind.pop h pl ns

/-- The operations that stand beside one for its other places. -/
def State.beside (s : State) (l : List RemOp) : State := l.foldl (fun s o => s.addOp o) s

/-- Translate an operation that is not yet placed: placed, ended with a status, or still held (R350, R359). A chiplet's copy names a destination
too, and one to a replicated page goes to every replica (R353, R502). -/
def State.placeOp (s : State) (o : RemOp) : State × Bool :=
  if o.placed then (s, true)
  else match s.check o.snd o.part o.kind.acc o.issuer.use o.tag o.addr.toNat with
    | (.ok (p :: ps) _, s) =>
      let at_ (p d : Place) (pl : Payload) (q : RemOp) : RemOp := { q with placed := true, tgt := p.tgt, loc := p.loc, ackBy := d.tgt, payload := pl }
      match o.payload with
      | .copyRead dst n m _ _ =>
        let pl (d : Place) : Payload := .copyRead dst n m d.tgt d.loc
        match s.check o.snd o.part .copyWrite o.issuer.use o.tag dst.toNat with
        | (.ok (d :: ds) _, s) => ((s.beside (ds.map fun d => at_ p d (pl d) o)).modOp o.serial (at_ p d (pl d)), true)
        | (.fail st, s) => (s.finishOp o st [], false)
        | (_, s) => (s, false)
      | pl => ((s.beside (ps.map fun p => at_ p p pl o)).modOp o.serial (at_ p p pl), true)
    | (.ok [] _, s) => (s, false)
    | (.fail st, s) => (s.finishOp o st [], false)
    | (.hold, s) => (s, false)

/-- The first attempt of an operation, at tick f (R366, R368). -/
def State.firstSend (s : State) (o : RemOp) (n : Nat) : State :=
  (s.modOp n fun q => { q with first := some (s.copyNow o.snd) }).sendAttempt n

/-- Start an operation that nothing blocks, and the operations beside it. -/
def State.tryStart (s : State) (n : Nat) : State :=
  match s.op? n with
  | none => s
  | some o =>
    if o.first.isSome then s
    else
      let next := s.nextOp
      match s.placeOp o with
      | (s, false) => s
      | (s, true) =>
        if s.blocked o then s
        else (List.range' next (s.nextOp - next)).foldl (fun s k => s.firstSend o k) (s.firstSend o n)

/-- Start every operation that can start, in the order of formation. -/
def State.pump (s : State) : State :=
  ((s.ops.filter (·.first.isNone)).map (·.serial)).foldl (fun s n => s.tryStart n) s

/-- End an operation, and start those that waited for it. -/
def State.endOp (s : State) (o : RemOp) (st : BitVec 4) (d : List Byte) : State := (s.finishOp o st d).pump

/-- Mark an attempt of an operation. -/
def RemOp.modAttempt (o : RemOp) (i : Nat) (f : Attempt → Attempt) : RemOp :=
  { o with attempts := o.attempts.mapIdx fun j a => if j = i then f a else a }

/-- Attempts of ended operations that a test names are resolved; an operation with none left is forgotten (R442). -/
def State.resolveTails (s : State) (f : RemOp → Attempt → Bool) : State :=
  { s with tails := (s.tails.map fun o =>
      { o with attempts := o.attempts.map fun a => if f o a then { a with answered := true } else a }).filter (·.unresolved) }

/-- A reply to attempt i of an open operation (R362, R368): a final status ends the operation, whichever attempt it answers; a
retried one leaves the next attempt to its tick. -/
def State.reply (s : State) (o : RemOp) (i : Nat) (st : BitVec 4) (d : List Byte) : State :=
  let o := o.modAttempt i fun a => { a with answered := true }
  if st = stTimeout || st = stReset then
    if i + 1 = o.attempts.length then
      let o := { o with last := st }
      let s := s.modOp o.serial fun _ => o
      if s.mayRetry o then s else s.endOp o st []
    else s.modOp o.serial fun _ => o
  else s.endOp o st d

/-- A reply or acknowledgement that names a sequence, from an endpoint, to an endpoint: it answers the attempt it names (R459), and the refusal
of a copy's source answers every destination's (R371); a destination of a multicast that a unicast copy reached answers without the multicast bit
(R455); with no such attempt it is discarded. -/
def State.replyFrom (s : State) (e src : EpId) (seq : BitVec 24) (mcast : Bool) (kinds : List OpKind) (st : BitVec 4) (d : List Byte) : State :=
  let bySource (o : RemOp) : Bool := o.kind = .copyRead && o.tgt = src && !mcast && st ≠ stOk
  let hit (o : RemOp) (a : Attempt) : Bool :=
    o.snd = e && !o.dark && kinds.contains o.kind && a.sent && !a.answered && a.seq = seq && ((o.ackBy = src && (a.mcast = mcast || (a.mcast && o.kind = .copyRead))) || bySource o)
  match s.ops.filter (fun o => o.attempts.any (hit o)) with
  | o :: r => (if bySource o then o :: r else [o]).foldl (fun s o =>
      s.reply { o with srcFail := bySource o } ((o.attempts.findIdx? (hit o)).getD 0) st d) s
  | [] => (s.resolveTails fun o a => hit o a).pump

/-! ### Formation by an instruction -/

/-- What an instruction's operations share: partition, tag, class, deadline (R431, R453). -/
def State.opBase (s : State) (u : Cv) (k : OpKind) (f : FX) : Option RemOp :=
  let x := coreStack u.g
  let c := s.cluster x (coreCluster u.g)
  (s.partOfStack x).map fun p =>
    { kind := k, issuer := .convoy u, snd := stackEp x, part := p, vc := if c.mode = 1 then 1 else 2,
      tag := if c.mode = 1 then c.tag else 0, deadline := if c.mode = 1 then some c.deadline else none,
      order := f.order, typ := f.typ, reg := f.data }

/-- Operations of a convoy that have not ended (R223). -/
def State.outstanding (s : State) (u : Cv) : Nat := (s.ops.filter fun o => o.issuer = .convoy u).length

/-- The checks of a global memory word (R251, R265, R267). -/
def okXg (f : FX) : Bool := okX f && f.order.toNat < 4

/-- Form the operations of one instruction when the tracker has room for all; else the convoy stalls on the instruction (R223). -/
def formOps (u : Cv) (l : List RemOp) (s : State) : State :=
  if 32 < s.outstanding u + l.length then s.modCv u fun c => { c with run := .stalled }
  else ((l.foldl (fun t o => t.addOp { o with instr := s.nextOp }) s).advance u).pump

/-- The shares of the lines that the active lanes touch: line number, lane share (R267). -/
def laneShares (c : Convoy) (f : FX) : List (Nat × LaneDest) :=
  (lanesOf (c.active f.gd)).foldr (fun l acc =>
    let (a, n) := laneBytes c f l
    let w := eltBits f.typ
    let sub := if isPacked f.typ then w * l.val % 8 else 0
    let a := a.toNat
    if a % 64 + n ≤ 64 then (a / 64, { lane := l, byte := a % 64, size := n, skip := sub, width := w, pos := 0 }) :: acc
    else (a / 64, { lane := l, byte := a % 64, size := 1, skip := sub, width := 8 - sub, pos := 0 }) ::
      (a / 64 + 1, { lane := l, byte := 0, size := n - 1, skip := 0, width := w - (8 - sub), pos := 8 - sub }) :: acc) []

/-- The distinct lines of a list of shares, in order of first touch. -/
def linesOf (l : List (Nat × LaneDest)) : List Nat := (l.map (·.1)).eraseDups

/-- A global instruction's registers: data, and the index where used. -/
def gRegs (f : FX) (n : Nat) : List Nat := vRange f.data n ++ (if f.ien then [f.index.toNat] else [])

/-- The issue of a global memory instruction: a misaligned element sets AF and makes no access (R220, R265). -/
def issueGlobal (u : Cv) (ok : Bool) (f : FX) (n : Nat) (body : RemOp → State → State) (k : OpKind) : State → State :=
  issueMem u ok (gRegs f n) fun s =>
    let c := s.cv u
    if c.active f.gd = 0 then s.advance u
    else if (lanesOf (c.active f.gd)).any fun l => !aligned c f l then (s.raise u flAF).advance u
    else match s.opBase u k f with
      | none => (s.raise u flRF).advance u
      | some o => body o s

/-- An operation's address: one beyond 48 bits lies outside every window (R267, R341). -/
def addr48 (a : Nat) : BitVec 48 := if a < 2 ^ 48 then BitVec.ofNat 48 a else 0x800000000000

def execLdG (u : Cv) (f : FX) (s : State) : Res :=
  .next (issueGlobal u (okXg f) f (eltRegs f.typ) (fun o s =>
    let sh := laneShares (s.cv u) f
    formOps u ((linesOf sh).map fun n =>
      { o with addr := addr48 (64 * n), dests := (sh.filter (·.1 = n)).map (·.2) }) s) .load s)

/-- Put a lane's share into a line's bytes. -/
def putLine (line : List Byte) (d : LaneDest) (x : Nat) : List Byte :=
  let old := field line d.byte d.size
  let v := x / 2 ^ d.pos % 2 ^ d.width
  let new := old - old / 2 ^ d.skip % 2 ^ d.width * 2 ^ d.skip + v * 2 ^ d.skip
  line.take d.byte ++ leBytes d.size new ++ line.drop (d.byte + d.size)

/-- Bytes that the model leaves open, from a number of free values on (log 5). -/
def freeLine (n : Nat) : List Byte := (List.range 64).map fun i => (Config.free (n + i)).setWidth 8

/-- The byte enables of the shares of a line (R428). -/
def enablesOf (l : List LaneDest) : BitVec 64 :=
  l.foldl (fun m d => m ||| BitVec.ofNat 64 ((2 ^ d.size - 1) * 2 ^ d.byte)) 0

/-- ST.G: a packed element shares its bytes with lanes that may be inactive, whose bits are open (log 34). -/
def execStG (u : Cv) (f : FX) (s : State) : Res :=
  .next (issueGlobal u (okXg f) f (eltRegs f.typ) (fun o s =>
    let c := s.cv u
    let sh := laneShares c f
    let fill := if isPacked f.typ then freeLine s.free else List.replicate 64 0
    let s := if isPacked f.typ then { s with free := s.free + 64 } else s
    formOps u ((linesOf sh).map fun n =>
      let l := (sh.filter (·.1 = n)).map (·.2)
      { o with addr := addr48 (64 * n),
               payload := .store (enablesOf l) (l.foldl (fun b d => putLine b d (c.eltGet f.typ d.lane f.data)) fill) }) s) .store s)

/-! ### Atomics (R268) -/

/-- An atomic instruction: one operation per active lane, in lane order. n is the operand's bytes, ret whether the old value
returns. -/
def atomicOp (u : Cv) (minor : BitVec 9) (ok : Bool) (n : Nat) (ret : Bool) (f : FX) : State → State :=
  issueGlobal u (okXg f && ok) f (max (eltRegs f.typ) (n / 4)) (fun o s =>
    let c := s.cv u
    formOps u ((lanesOf (c.active f.gd)).map fun l =>
      let a := (eltAddr c f l).toNat
      let w := eltBits f.typ
      let bs := if n = 32 then leBytes 32 (c.v256 l f.data.toNat).toNat
        else if n = 8 then leBytes 8 (c.v64 l f.data.toNat).toNat else leBytes 4 (c.vGet l f.data.toNat).toNat
      { o with addr := addr48 a, payload := .atomic { minor, typ := f.typ, operand := bs },
               dests := if ret then [{ lane := l, byte := 0, size := w / 8, skip := 0, width := w, pos := 0 }] else [] }) s) .atomic

def execAtomAdd (u : Cv) (f : FX) (s : State) : Res := .next (atomicOp u 0 (f.typ = 0xC) 4 true f s)

def execAtomFadd (u : Cv) (f : FX) (s : State) : Res :=
  .next (atomicOp u 1 (f.typ = 1 || f.typ = 0) (if f.typ = 0 then 8 else 4) true f s)

def execAtomMin (u : Cv) (f : FX) (s : State) : Res :=
  .next (atomicOp u 2 (f.typ = 0xC || f.typ = 1 || f.typ = 0) (if f.typ = 0 then 8 else 4) true f s)

def execAtomMax (u : Cv) (f : FX) (s : State) : Res :=
  .next (atomicOp u 3 (f.typ = 0xC || f.typ = 1 || f.typ = 0) (if f.typ = 0 then 8 else 4) true f s)

def execAtomMinu (u : Cv) (f : FX) (s : State) : Res := .next (atomicOp u 4 (f.typ = 0xC) 4 true f s)

def execAtomMaxu (u : Cv) (f : FX) (s : State) : Res := .next (atomicOp u 5 (f.typ = 0xC) 4 true f s)

def execAtomSwap (u : Cv) (f : FX) (s : State) : Res := .next (atomicOp u 6 (f.typ = 0xC) 4 true f s)

def execAtomCas (u : Cv) (f : FX) (s : State) : Res :=
  .next (atomicOp u 7 (f.typ = 0xC && okPair f.data) 8 true f s)

def execAtomXsadd (u : Cv) (f : FX) (s : State) : Res := .next (atomicOp u 8 (f.typ = 0xD) 32 false f s)

/-! ### WM.SIGNAL (R270) -/

/-- WM.SIGNAL: a WM_ADD to the core whose global number s[src1] holds; a core outside the partition ends it as a failed
operation (R270, R457). -/
def execWmSignal (u : Cv) (f : FB) (s : State) : Res :=
  .next (issue u (okWm f) [] (fun s =>
    if s.acquiring u then s
    else if (s.cv u).active f.gd = 0 then s.advance u
    else
      let g := ((s.cv u).sGet f.src1).toNat
      match s.opBase u .wmAdd { gd := f.gd, data := 0, base := 0, index := 0, typ := 0, iscale := 0, ien := false, order := 0, off := 0 } with
      | none => (s.raise u flRF).advance u
      | some o =>
        if h : g < 24576 then
          let m : CoreId := ⟨g, h⟩
          if hasBit (s.part o.part).stackMask (coreStack m).val then
            formOps u [{ o with placed := true, tgt := stackEp (coreStack m), ackBy := stackEp (coreStack m),
                                payload := .wmAdd g f.dest f.imm.toNat }] s
          else (s.raise u flRF).advance u
        else (s.raise u flRF).advance u) s)

/-! ### Timeouts -/

/-- OPERATION_TIMEOUT: at f + mT the newest attempt has had no reply or a retried status; the next attempt is sent, or the
operation ends with its last status (R368). An attempt without a reply times out, and leaves the scoreboard (R458, R468). Of an ended operation, the attempts that
are due stop holding their line (R442). The audit of R437 is the caller's. -/
def State.timeout (s : State) (n : Nat) : State :=
  match s.op? n with
  | some o =>
    match o.first with
    | none => s
    | some f =>
      let m := o.attempts.length
      if f + m * s.timeoutOf o.part ≤ s.copyNow o.snd then
        let late := o.attempts.getLast?.map fun a => !a.answered
        let unsent : Bool := o.attempts.any fun a => !a.sent
        let s := if unsent then s.dropQueued (· = n) else s
        let o := o.modAttempt (m - 1) fun a => if a.answered then a else { a with timedOut := true }
        let o := { o with last := if late = some true then stTimeout else o.last }
        let s := s.modOp n fun _ => o
        let s := match o.attempts.getLast? with
          | some a => if o.onBoard && a.timedOut then
              s.cwPut o.snd { kind := 7, ep := o.ackBy, vc := 0, value := BitVec.ofNat 64 (a.seq.toNat + 2 ^ 24) } else s
          | none => s
        if s.mayRetry o then s.sendAttempt n else s.endOp o o.last []
      else s
  | none =>
    match s.tails.find? (·.serial = n) with
    | none => s
    | some o =>
      let f := o.first.getD 0
      let due (i : Nat) (a : Attempt) : Attempt :=
        if f + (i + 1) * s.timeoutOf o.part ≤ s.copyNow o.snd then { a with timedOut := true } else a
      let l := s.tails.map fun q => if q.serial = n then { q with attempts := q.attempts.mapIdx due } else q
      { s with tails := l.filter (·.unresolved) }.pump

end Sys2Proof.Machine
end

