-- ==== Sys2Proof/Machine/Routes.lean ====
section
/-!
DEFINITION. Signpost routes (R443 to R446, R451), windows and credits (R431, R434 to R436), and the sending link
(R432, R441, R448, R455).
-/

namespace Sys2Proof

/-- A packet that takes room in its target's window (R434, R435). -/
def POp.windowed (op : POp) : Bool := !op.control && op ≠ .readData && op ≠ .drainMarker && op ≠ .windowAudit

end Sys2Proof

namespace Sys2Proof.Machine

/-! ### Routes -/

/-- The next hub in the order 28, 29, 30, 31, 28, skipping the endpoints of a list (R445). -/
def nextHub (start : TileId) (skip : List EpId) : TileId :=
  (([start, start + 1, start + 2, start + 3] : List TileId).find? fun t => !skip.contains (hubEp t)).getD start

/-- The primary and secondary hubs of a pair (R445). -/
def primaryHub (i j : EpId) : TileId := nextHub ⟨(i.val + j.val) % 4, by omega⟩ [i, j]
def secondaryHub (i j : EpId) : TileId := nextHub (primaryHub i j + 1) [i, j, hubEp (primaryHub i j)]

/-- A link usable for routing: width 4 or more (R445). -/
def State.usable (s : State) (i j : EpId) : Bool := 4 ≤ popCount (s.link i j).mask

/-- A hub's link to an endpoint is usable, as its HUB_STATE reported to i (R445). -/
def State.hubUsable (s : State) (i : EpId) (h : TileId) (j : EpId) : Bool :=
  hasBit (kget 0 (s.ep i).hubMask h.val) j.val

/-- The route code of R443 from i to j by the rules of R445: for data, a link counts only once it is past training. -/
def State.routeCode (s : State) (i j : EpId) (data : Bool := false) : BitVec 2 :=
  let h1 := primaryHub i j
  let h2 := secondaryHub i j
  let up (k : EpId) : Bool := !data || (s.link i k).trained
  if up j && s.usable i j then 0
  else if up (hubEp h1) && s.usable i (hubEp h1) && s.hubUsable i h1 j then 1
  else if up (hubEp h2) && s.usable i (hubEp h2) && s.hubUsable i h2 j then 2
  else if up j && (s.link i j).mask ≠ 0 then 0 else 3

/-- A Signpost entry (R443). -/
def signpost (epoch : Bool) (route : BitVec 2) (h1 h2 : TileId) (width : BitVec 3) (mask : BitVec 32) : BitVec 64 :=
  BitVec.ofNat 64 (2 ^ 63 + b2n epoch * 2 ^ 62 + route.toNat * 2 ^ 60 + h1.val * 2 ^ 58 + h2.val * 2 ^ 56 +
    width.toNat * 2 ^ 53 + mask.toNat)

/-- The entry for target j by the present links past training (R444, R445). -/
def State.newEntry (s : State) (i j : EpId) (epoch : Bool) : BitVec 64 :=
  signpost epoch (s.routeCode i j true) (primaryHub i j) (secondaryHub i j) (s.link i j).width (s.link i j).mask

/-- A bank of an endpoint by epoch (R443). -/
def EpState.bank (e : EpState) (epoch : Bool) : KMap (BitVec 64) := if epoch then e.bankB else e.bankA

/-- The active entry for a target. -/
def State.entry (s : State) (i j : EpId) : BitVec 64 := kget 0 ((s.ep i).bank (s.ep i).routeEpoch) j.val

def entryValid (e : BitVec 64) : Bool := e.getLsbD 63
def entryRoute (e : BitVec 64) : Nat := bits e.toNat 61 60
def entryHub1 (e : BitVec 64) : TileId := ⟨bits e.toNat 59 58 % 4, by omega⟩
def entryHub2 (e : BitVec 64) : TileId := ⟨bits e.toNat 57 56 % 4, by omega⟩

/-- The route and hub fields of two entries differ. -/
def routeDiffers (a b : BitVec 64) : Bool :=
  entryRoute a ≠ entryRoute b || (entryRoute a = 1 && entryHub1 a ≠ entryHub1 b) || (entryRoute a = 2 && entryHub2 a ≠ entryHub2 b)

/-- The next hop of a route code: the target, a hub, or the own tile's hub for the Turnpike (R448, R450). -/
def hopOf (i j : EpId) (route : Nat) (h1 h2 : TileId) : EpId :=
  if route = 0 then j else if route = 1 then hubEp h1 else if route = 2 then hubEp h2 else hubEp (tileOfEp i)

/-- The targets other than an endpoint itself. -/
def others (i : EpId) : List EpId := allEps.filter (· ≠ i)

/-- A route change flips the epoch: the idle bank takes the whole new table, and a DRAIN_MARKER of the old epoch goes to every
target on both data classes, on its old route or, where the old route's first hop is down, the new one (R446). The delay of a pair with hub 28
whose route changes is measured again (R141). -/
def State.routeFlip (s : State) (i : EpId) : State :=
  let old := (s.ep i).routeEpoch
  let tab (s : State) : KMap (BitVec 64) := (others i).foldl (fun m j => kput 0 m j.val (s.newEntry i j !old)) []
  let marker (v : BitVec 2) (j : EpId) : TxEntry :=
    let e := s.entry i j
    let hop := hopOf i j (entryRoute e) (entryHub1 e) (entryHub2 e)
    let up := entryValid e && (entryRoute e = 3 || (s.link i hop).mask ≠ 0)
    { op := .drainMarker, p := .drain old, since := s.now, fixed := if up then some (BitVec.ofNat 2 (entryRoute e)) else none,
      h := { vc := v, hopSrc := i, origin := i, target := j, hopDst := if up then hop else j, epoch := old } }
  let marks := (others i).foldl (fun l j => l ++ [marker 1 j, marker 2 j]) []
  let moved (j : EpId) : Bool := routeDiffers (s.entry i j) (s.newEntry i j !old)
  let again : List EpId := if i = 28 then (others i).filter moved else if moved 28 then [i] else []
  let s := forEach again (fun e s => s.modEp e fun x => { x with delay := none }) s
  s.modEp i fun e => { e with
    bankA := if old then tab s else e.bankA
    bankB := if old then e.bankB else tab s
    routeEpoch := !old
    flipTick := s.now
    routeWaits := false
    drainWait := marks.map fun x => (x.h.target.val, x.h.vc.toNat, none)
    outbox := marks ++ e.outbox }

/-- A further change in the tick of a flip joins it: the new table is written afresh, in the one flip (R460). -/
def State.amendFlip (s : State) (i : EpId) : State :=
  let ep := (s.ep i).routeEpoch
  let tab : KMap (BitVec 64) := (others i).foldl (fun m j => kput 0 m j.val (s.newEntry i j ep)) []
  let again : List EpId := (if i = 28 then others i else [i]).filter fun e =>
    let j : EpId := if i = 28 then e else 28
    routeDiffers (s.entry i j) (s.newEntry i j ep)
  let s := forEach again (fun e s => s.modEp e fun x => { x with delay := none }) s
  s.modEp i fun e => { e with bankA := if ep then e.bankA else tab, bankB := if ep then tab else e.bankB }

/-- Entries of a bank that a write changed go to the standby, and a flipped route epoch does (R468, kinds 0x8 and 0x5). -/
def State.cwRoutes (s : State) (i : EpId) (was : EpState) : State :=
  let put (epoch : Bool) (s : State) : State := forEach (others i) (fun j s =>
    let n := kget 0 ((s.ep i).bank epoch) j.val
    if n = kget 0 (was.bank epoch) j.val then s
    else s.cwPut i { kind := 8, ep := j, vc := BitVec.ofNat 2 (b2n epoch), value := n }) s
  let s := put true (put false s)
  if (s.ep i).routeEpoch = was.routeEpoch then s
  else s.cwPut i { kind := 5, ep := i, vc := 0, value := BitVec.ofNat 64 (b2n (s.ep i).routeEpoch) }

/-- The link controller writes its Signpost tables: widths and masks, and entries not yet valid, into both banks at once; a
change of route or hub flips, or waits while the old bank is not idle; changes of one tick make one flip (R444, R446, R460). -/
def State.reroute (s : State) (i : EpId) : State :=
  let e := s.ep i
  let change := (others i).any fun j => entryValid (s.entry i j) && routeDiffers (s.entry i j) (s.newEntry i j e.routeEpoch)
  let keep (epoch : Bool) (m : KMap (BitVec 64)) : KMap (BitVec 64) := (others i).foldl (fun m j =>
    let o := kget 0 m j.val
    let n := s.newEntry i j epoch
    kput 0 m j.val (if entryValid o && routeDiffers o n then (o &&& 0xFF1FFFFF00000000) ||| (n &&& 0x00E00000FFFFFFFF) else n)) m
  let s := s.modEp i fun e => { e with bankA := keep false e.bankA, bankB := keep true e.bankB }
  let s := if !change then s
    else if e.drainWait.isEmpty then s.routeFlip i
    else if e.flipTick = s.now then s.amendFlip i
    else s.modEp i fun e => { e with routeWaits := true }
  s.cwRoutes i e

/-- The old bank is idle: a waiting route change proceeds (R446). -/
def State.bankIdle (s : State) (i : EpId) : State :=
  let s := s.modEp i fun e => { e with drainWait := [] }
  if (s.ep i).routeWaits then (s.modEp i fun e => { e with routeWaits := false }).reroute i else s

/-! ### Hops of waiting packets -/

/-- Whether the path over a route is past training for data (R445). -/
def State.dataHop (s : State) (i j : EpId) (route : Nat) (h1 h2 : TileId) : Bool :=
  if route = 0 then (s.link i j).trained
  else if route = 1 then (s.link i (hubEp h1)).trained && (s.link (hubEp h1) j).trained
  else if route = 2 then (s.link i (hubEp h2)).trained && (s.link (hubEp h2) j).trained
  else true

/-- The route code toward a target: the table's for data, and for a control packet what R445 gives without its restrictions for data. -/
def State.routeOf (s : State) (i j : EpId) (ctl : Bool) : Nat :=
  if ctl then (s.routeCode i j).toNat else entryRoute (s.entry i j)

/-- The hop of an endpoint's own packet toward a target; none where no route applies. Data needs a valid entry, a synchronised
target and trained links (R431, R445). -/
def State.hop (s : State) (i j : EpId) (ctl : Bool) : Option EpId :=
  let e := s.entry i j
  if ctl then some (hopOf i j (s.routeOf i j true) (primaryHub i j) (secondaryHub i j))
  else if entryValid e && (s.ep j).synced && (s.ep i).synced && s.dataHop i j (entryRoute e) (entryHub1 e) (entryHub2 e) then
    some (hopOf i j (entryRoute e) (entryHub1 e) (entryHub2 e))
  else none

/-- Whether the route to a target is the Turnpike. -/
def State.onTurnpike (s : State) (i j : EpId) (ctl : Bool) : Bool := s.routeOf i j ctl = 3

/-- Whether a queued packet of an endpoint's own rides the Turnpike: a marker of a flip keeps its old route (R446, R450). -/
def State.ridesTurnpike (s : State) (i : EpId) (x : TxEntry) (d : EpId) : Bool :=
  match x.fixed with
  | some r => r = 3
  | none => s.onTurnpike i d x.op.control

/-! ### The hub ring (R449, R451) -/

/-- The hubs in ring order (R449). -/
def ringPos (t : TileId) : Nat := if t = 0 then 0 else if t = 1 then 1 else if t = 3 then 2 else 3
def ringAt (p : Nat) : TileId := if p % 4 = 0 then 0 else if p % 4 = 1 then 1 else if p % 4 = 2 then 3 else 2

/-- The hubs strictly between two tiles, clockwise. -/
def ringBetween (t u : TileId) : List TileId :=
  ((List.range 4).map fun i => ringAt (ringPos t + 1 + i)).takeWhile (· ≠ u)

/-- Whether a hub is down for another: held lost, or isolated. -/
def State.hubDown (s : State) (t u : TileId) : Bool := (s.ep (hubEp u)).isolated || hasBit (s.ep (hubEp t)).lost (hubEp u).val

/-- The next hub toward a tile: clockwise, or anticlockwise where a hub on the clockwise way is down; none where neither joins
them (R451). -/
def State.nextRing (s : State) (t u : TileId) : Option TileId :=
  if s.hubDown t u then none
  else if (ringBetween t u).all fun h => !s.hubDown t h then some (ringAt (ringPos t + 1))
  else if (ringBetween u t).all fun h => !s.hubDown t h then some (ringAt (ringPos t + 3))
  else none

/-- Whether the Turnpike joins an endpoint's tile to another endpoint's: both hubs up, and an arc between them (R450, R451). -/
def State.ringOpen (s : State) (i j : EpId) : Bool :=
  let t := tileOfEp i
  let u := tileOfEp j
  !(s.ep (hubEp t)).isolated && !hasBit (s.ep i).lost (hubEp t).val && (t = u || (s.nextRing t u).isSome)

/-! ### Windows, credits, transit space -/

/-- Blocks of a packet (R399). -/
def blocksOf (ctl : Bool) (len : Nat) : Nat := if ctl then 2 else (len + 40 + 31) / 32

/-- The blocks of a queued packet. -/
def TxEntry.blocks (x : TxEntry) : Nat := blocksOf x.op.control x.h.len

/-- Window size by class, in blocks (R434). -/
def winCap (vc : BitVec 2) : Nat := if vc = 1 then 2048 else 1024

/-- Blocks in use of a window. -/
def Link.win (l : Link) (vc : BitVec 2) : Nat := if vc = 1 then l.win1 else l.win2

/-- The changes waiting in an endpoint's Causeway queue (R469). -/
def State.cwLevel (s : State) (e : EpId) : Nat := (s.ep e).cwQueue.length

/-- The hop of a queued packet: a forwarded packet goes to its target on the pair link; a marker of a flip keeps its old
route (R446, R448). A packet that rides the ring is TURNPIKE_ENTRY's. -/
def State.hopOfTx (s : State) (i : EpId) (x : TxEntry) : Option EpId :=
  if x.ring then none
  else if x.transit then some x.h.target
  else if x.fixed.isSome then some x.h.hopDst
  else s.hop i x.h.target x.op.control

/-- The destinations of a queued packet. -/
def TxEntry.dests (x : TxEntry) : List EpId :=
  if x.h.mcast then allEps.filter fun e => hasBit x.h.mmask e.val else [x.h.target]

/-- Room for one destination: window, and transit space at the hub of a detour (R434 to R436). -/
def State.roomFor (s : State) (i : EpId) (x : TxEntry) (d : EpId) (hop : EpId) : Bool :=
  (!x.op.windowed || (s.link i d).win x.h.vc + x.blocks ≤ winCap x.h.vc) &&
  (hop = d || s.ridesTurnpike i x d || (s.link i hop).tw + x.blocks ≤ 512)

/-- The copies of a multicast packet that detour through a hub have room in its transit space together (R436, R455). -/
def State.transitRoom (s : State) (i : EpId) (x : TxEntry) : Bool :=
  allTiles.all fun t =>
    let via := x.dests.filter fun d => d ≠ hubEp t && !s.onTurnpike i d false && s.hop i d false = some (hubEp t)
    via.isEmpty || (s.link i (hubEp t)).tw + via.length * x.blocks ≤ 512

/-- Whether the way to the next hop is open for a data packet: the ring joins the tiles of one that rides the Turnpike, and any other's link is past
training (R421, R450, R451). -/
def State.wayOpen (s : State) (i j : EpId) (x : TxEntry) (d : EpId) : Bool :=
  if s.ridesTurnpike i x d then j = hubEp (tileOfEp i) && s.ringOpen i d else (s.link i j).mask ≠ 0 && (s.link i j).trained

/-- A hub forwards the packets of each origin and class in arrival order (R448). -/
def State.firstOf (s : State) (i : EpId) (x : TxEntry) : Bool :=
  ((s.ep i).outbox.find? fun y => y.transit && !y.ring && y.h.origin = x.h.origin && y.h.vc = x.h.vc && y.op.control = x.op.control) = some x

/-- Whose VC 0 credits a control packet takes: those of its link, or on the Turnpike those of the pair of its target, which returns them (R431;
DESIGN CHOICE, log 35). -/
def State.creditPeer (s : State) (i j : EpId) (x : TxEntry) : EpId :=
  if !x.transit && s.ridesTurnpike i x x.h.target then x.h.target else j

/-- Whether a queued packet can be sent on the link to j now; one that rides the Turnpike goes to its own tile's hub while the ring joins its tile
to its target's. CREDIT itself takes no credit (R431, R450, R451; log 35). -/
def State.sendable (s : State) (i j : EpId) (x : TxEntry) : Bool :=
  if x.op.control then
    s.hopOfTx i x = some j && !(x.h.target = i) && (x.op = .credit || kget 0 (s.ep i).sentCredits (s.creditPeer i j x).val < 32) &&
    (if !x.transit && s.ridesTurnpike i x x.h.target then j = hubEp (tileOfEp i) && s.ringOpen i x.h.target else (s.link i j).mask ≠ 0)
  else if x.transit then s.hopOfTx i x = some j && (s.link i j).mask ≠ 0 && (s.link i j).trained && s.firstOf i x
  else if x.h.mcast then
    x.dests.any (fun d => s.hop i d false = some j) && s.cwLevel i ≤ 48 && s.transitRoom i x &&
    x.dests.all fun d => d ≠ i && match s.hop i d false with
      | some h => s.wayOpen i h x d && s.roomFor i x d h
      | none => false
  else
    s.hopOfTx i x = some j && x.h.target ≠ i && s.cwLevel i ≤ 48 && s.wayOpen i j x x.h.target && s.roomFor i x x.h.target j &&
    (x.op ≠ .load || s.replyRoom i)

/-- The priority of R432, smaller first; promoted packets in the order of promotion. -/
def TxEntry.prio (x : TxEntry) : Nat × Nat :=
  if x.op.control then (0, 0)
  else match x.promotedAt with
    | some t => (1, t)
    | none => if x.h.promoted then (1, 0) else if x.h.vc = 1 then (2, 0) else (3, 0)

/-- The first of the entries with the best priority. -/
def bestTx : List TxEntry → Option TxEntry
  | [] => none
  | x :: r => match bestTx r with
    | none => some x
    | some y => if y.prio.1 < x.prio.1 || (y.prio.1 = x.prio.1 && y.prio.2 < x.prio.2) then some y else some x

/-- Remove the first entry equal to one. -/
def dropTx (l : List TxEntry) (x : TxEntry) : List TxEntry := l.erase x

/-! ### Acknowledgements -/

/-- Whether two sets of pending entries call for an ACK at once: 8 entries or 128 freed blocks (R429). -/
def AckState.due (k : AckState) : Bool := 8 ≤ k.entries.length || 128 ≤ k.unreported

/-- Send an ACK to an origin with up to 8 entries and every count (R429). -/
def State.sendAck (s : State) (e o : EpId) : State :=
  let k := kget {} (s.ep e).acks o.val
  let p : AckP := { ret1 := k.freed1, ret2 := k.freed2, entries := k.entries.take 8,
                    transit := if 28 ≤ e.val then kget 0 (s.ep e).transitRet o.val else 0 }
  let rest := k.entries.drop 8
  let k := { k with entries := rest, unreported := 0, oldest := if rest.isEmpty then none else k.oldest }
  (s.modEp e fun x => { x with acks := kput {} x.acks o.val k }).sendCtl e o .ack (.ack p)

/-- Blocks of an origin leave a hub's transit space: forwarded or moved to the ring, which takes them from what it holds, or discarded (R429, R436,
R452). -/
def State.freeTransit (s : State) (e o : EpId) (n : Nat) (held : Bool) : State :=
  let add (k : AckState) : AckState := { k with unreported := k.unreported + n, oldest := some (k.oldest.getD s.now) }
  let s := s.modEp e fun x =>
    { x with transit := if held then kmod 0 x.transit o.val (· - n) else x.transit
             transitRet := kmod 0 x.transitRet o.val fun k => (k + n) % 2 ^ 32
             acks := kmod {} x.acks o.val add }
  if (kget {} (s.ep e).acks o.val).due then s.sendAck e o else s

/-! ### Sending -/

/-- Account for one destination of a data packet at its origin: window, blocks sent, transit space (R434, R436, R437). -/
def State.chargeTx (s : State) (i : EpId) (x : TxEntry) (d hop : EpId) : State :=
  let b := x.blocks
  let s := if x.op.windowed then s.modLink i d fun l =>
      if x.h.vc = 1 then { l with win1 := l.win1 + b, sent1 := (l.sent1 + b) % 2 ^ 32 }
      else { l with win2 := l.win2 + b, sent2 := (l.sent2 + b) % 2 ^ 32 } else s
  if hop = d || s.ridesTurnpike i x d then s else s.modLink i hop fun l => { l with tw := l.tw + b, twSent := (l.twSent + b) % 2 ^ 32 }

/-- The sequence of the next packet from i to j, or the next multicast sequence (R441). -/
def State.nextSeq (s : State) (i j : EpId) (mcast : Bool) : BitVec 24 × State :=
  if mcast then (BitVec.ofNat 24 (s.ep i).mseq, s.modEp i fun e => { e with mseq := (e.mseq + 1) % 2 ^ 24 })
  else (BitVec.ofNat 24 (s.link i j).seq, s.modLink i j fun l => { l with seq := (l.seq + 1) % 2 ^ 24 })

/-- The attempts of a packet's operations are sent under a sequence; those of the destinations that a test names by unicast copies, which their
acknowledgements tell by the multicast bit (R455, R456). -/
def State.markSent (s : State) (ns : List Nat) (seq : BitVec 24) (unicast : EpId → Bool := fun _ => false) : State :=
  if ns.isEmpty then s
  else
    let go (o : RemOp) : RemOp :=
      if ns.contains o.serial then
        o.modAttempt (o.attempts.length - 1) fun a => { a with seq, sent := true, mcast := a.mcast && !(o.kind = .copySend && unicast o.ackBy) }
      else o
    { s with ops := s.ops.map go }

/-- A packet leaves on the link to j; one that a hub sends by the Turnpike goes onto its own ring (R450). -/
def State.putOut2 (s : State) (i j : EpId) (op : POp) (h : Hdr) (p : Payload) : State :=
  if i = j then s.modEp i fun e => { e with outbox := e.outbox ++ [{ op, h, p, since := s.now, transit := true, ring := true }] }
  else (s.modLink i j fun l => { l with quiet := false, lastPkt := s.now }).emit (.packet i j op h p)

/-- A data packet has been started: its first block leaves after the record that carries its allotment, and a packet without one stays behind
those started before it (R469). -/
def State.startPacket (s : State) (i j : EpId) (op : POp) (h : Hdr) (p : Payload) : State :=
  let x := s.ep i
  if x.cwQueue.isEmpty && x.leaving.isEmpty then s.putOut2 i j op h p
  else s.modEp i fun x => { x with leaving := x.leaving ++ [{ ahead := x.cwQueue.length, rcv := j, op, h, p }] }

/-- The value of a packet allotment: its sequence, the blocks of the one window that it takes, its scoreboard entry and whether the sequence is a
multicast one (R468, kind 0xB). -/
def allotment (seq : BitVec 24) (x : TxEntry) (board : Bool) : BitVec 64 :=
  BitVec.ofNat 64 (seq.toNat + (if x.op.windowed && !x.h.mcast then x.blocks else 0) % 256 * 2 ^ 24 + b2n board * 2 ^ 32 + b2n x.h.mcast * 2 ^ 33)

/-- A packet to one destination of a multicast whose route is not direct: a unicast packet to that destination's own stack (R425, R455). -/
def toStack (h : Hdr) (d : EpId) : Hdr :=
  { h with mcast := false, mmask := 0, target := d, loc := h.loc % 2 ^ 29 + d.val * 2 ^ 29
           addr := BitVec.ofNat 48 (0x20000000000 + h.addr.toNat % 2 ^ 29 + d.val * 2 ^ 29) }

/-- The link to j starts a packet of i's own, or one it forwards (R432, R441, R448). -/
def State.sendTx (s : State) (i j : EpId) (x : TxEntry) : State :=
  let s := s.modEp i fun e => { e with outbox := dropTx e.outbox x }
  if x.op.control then
    let tp := !x.transit && s.ridesTurnpike i x x.h.target
    let peer := s.creditPeer i j x
    let owed := min 255 (kget 0 (s.ep i).credOwed peer.val)
    let s := s.modEp i fun e => { e with
      credOwed := kmod 0 e.credOwed peer.val (· - owed), credSince := if owed = 0 then e.credSince else kdel e.credSince peer.val
      sentCredits := if x.op = .credit then e.sentCredits else kmod 0 e.sentCredits peer.val (· + 1) }
    let h := { x.h with hopDst := j, hopSrc := i, epoch := if x.transit then x.h.epoch else (s.ep i).routeEpoch,
                        detour := !tp && j ≠ x.h.target, credit := BitVec.ofNat 8 owed }
    s.putOut2 i j x.op h x.p
  else if x.transit then
    (s.freeTransit i x.h.origin x.blocks true).putOut2 i j x.op { x.h with hopDst := j, hopSrc := i, detour := false } x.p
  else
    let (seq, s) := s.nextSeq i x.h.target x.h.mcast
    let direct (d : EpId) : Bool := !x.h.mcast || s.hop i d false = some d
    let s := s.markSent x.ops seq fun d => !direct d
    let epoch := if x.op = .drainMarker then x.h.epoch else (s.ep i).routeEpoch
    let otag := if x.op = .copyData && !x.ops.isEmpty then BitVec.ofNat 80 (i.val + seq.toNat * 32) else x.h.otag
    let s := if x.op = .drainMarker then s.modEp i fun e =>
        { e with drainWait := e.drainWait.map fun w =>
            if w.1 = x.h.target.val && w.2.1 = x.h.vc.toNat then (w.1, w.2.1, some seq) else w } else s
    let s := if x.op = .drainMarker || x.op = .windowAudit then s
      else s.cwPut i { kind := 0xB, ep := x.h.target, vc := x.h.vc, value := allotment seq x (s.ops.any fun o => x.ops.contains o.serial && o.onBoard) }
    let one (s : State) (d : EpId) : State :=
      let hop := if x.h.mcast then (s.hop i d false).getD j else j
      let h := if !x.h.mcast then { x.h with target := d } else if direct d then { x.h with target := 0 } else toStack x.h d
      let h := { h with hopDst := hop, hopSrc := i, epoch, seq, otag, promoted := x.h.promoted || x.promotedAt.isSome,
                        detour := hop ≠ d && !s.ridesTurnpike i x d }
      let s := s.chargeTx i x d hop
      let s := if x.h.mcast then s.cwPut i { kind := 3, ep := d, vc := x.h.vc, value := BitVec.ofNat 64 ((s.link i d).win x.h.vc) } else s
      s.startPacket i hop x.op h x.p
    let s := x.dests.foldl one s
    match x.p with
    | .auditReq n =>
      let s := s.modLink i x.h.target fun l =>
        if x.h.vc = 1 then { l with audit1 := some (n, l.sent1) } else { l with audit2 := some (n, l.sent2) }
      if j = x.h.target || s.ridesTurnpike i x x.h.target then s else s.modLink i j fun l => { l with auditT := some (n, l.twSent) }
    | _ => s

def execPacketSend (i j : EpId) (s : State) : Res :=
  .next (match bestTx ((s.ep i).outbox.filter (s.sendable i j)) with
    | none => s
    | some x => if (s.ep i).isolated || !s.on then s else s.sendTx i j x)

/-- A VC 2 packet that has waited 50 µs at its origin is promoted once (R433). -/
def execPromotion (e : EpId) (s : State) : Res :=
  let due (x : TxEntry) : Bool :=
    !x.op.control && !x.transit && x.h.vc = 2 && x.promotedAt.isNone && x.since + 50000 ≤ s.now
  .next (s.modEp e fun k => { k with outbox := match k.outbox.findIdx? due with
    | none => k.outbox
    | some n => k.outbox.mapIdx fun m x => if m = n then { x with promotedAt := some s.now } else x })

/-- 10,000 ticks after a flip the old bank is idle whether or not every marker was acknowledged (R446). -/
def execBankIdleTimeout (e : EpId) (s : State) : Res :=
  .next (if (s.ep e).drainWait.isEmpty || s.now < (s.ep e).flipTick + 10000 then s else s.bankIdle e)

end Sys2Proof.Machine
end

