-- ==== Sys2Proof/Machine/Wire.lean ====
section
/-!
DEFINITION. The bytes of a message and of a packet on a link: headers, payloads, checksums and blocks (R399, R419, R423 to R430, R478). The state and the commands
hold packets by their fields; these are the bytes that an output puts on its link.
-/

namespace Sys2Proof

/-- The operation codes (R428). -/
def POp.code : POp → Nat
  | .sync => 0x01
  | .syncProbe => 0x02
  | .syncEcho => 0x03
  | .beacon => 0x04
  | .linkMask => 0x05
  | .ack => 0x06
  | .atomicReply => 0x07
  | .credit => 0x08
  | .hubState => 0x09
  | .periodNotice => 0x0A
  | .periodFail => 0x0B
  | .pageMapEntries => 0x0C
  | .switchAnnounce => 0x0D
  | .auditReply => 0x0E
  | .load => 0x40
  | .readData => 0x41
  | .store => 0x42
  | .atomic => 0x43
  | .copyRead => 0x44
  | .copyData => 0x45
  | .wmAdd => 0x46
  | .drainMarker => 0x47
  | .windowAudit => 0x48

end Sys2Proof

namespace Sys2Proof.Machine

/-- The 32 bytes of a data header (R425). -/
def dataHeader (op : POp) (h : Hdr) : List Byte :=
  leBytes 1 (h.hopDst.val + 32 * h.vc.toNat + 128 * b2n h.mcast) ++
  leBytes 1 (h.hopSrc.val + 32 * b2n h.epoch + 64 * b2n h.promoted + 128 * b2n h.detour) ++ leBytes 1 h.origin.val ++
  leBytes 1 (if h.mcast then 0 else h.target.val) ++ leBytes 3 h.seq.toNat ++ leBytes 1 h.tag.toNat ++ leBytes 1 op.code ++
  leBytes 1 (h.part.val + 16 * h.status.toNat) ++ leBytes 2 h.len ++ leBytes 6 h.addr.toNat ++ leBytes 10 h.otag.toNat ++
  leBytes 4 (if h.mcast then h.mmask.toNat else 0)

/-- The first 12 bytes of a control header; the CRC follows (R426). -/
def ctlHeader (op : POp) (h : Hdr) : List Byte :=
  leBytes 1 h.hopDst.val ++ leBytes 1 (h.hopSrc.val + 32 * b2n h.epoch + 128 * b2n h.detour) ++ leBytes 1 h.origin.val ++
  leBytes 1 h.target.val ++ leBytes 1 op.code ++ leBytes 1 h.part.val ++ leBytes 1 h.tag.toNat ++ leBytes 1 h.credit.toNat ++ leBytes 4 0

/-- The payload of LINK_MASK (R419). -/
def linkMaskBytes (decision : Bool) (m : LinkMask) : List Byte :=
  leBytes 1 m.snd.val ++ leBytes 1 m.rcv.val ++ leBytes 1 m.sndEpoch.toNat ++ leBytes 1 m.rcvEpoch.toNat ++ leBytes 1 (b2n !decision) ++
  leBytes 1 m.width.toNat ++ leBytes 1 (b2n m.path) ++ leBytes 1 0 ++ leBytes 4 m.mask.toNat ++ leBytes 4 m.rcvUsable.toNat ++ leBytes 8 m.tick

/-- The payload of SWITCH_ANNOUNCE: kind, group, path, steward, generation, T, send tick, and a fault report's sender, cause and lanes (R478). -/
def switchBytes (kind group path steward gen t sent sender cause lanes : Nat) : List Byte :=
  leBytes 1 kind ++ leBytes 1 group ++ leBytes 1 path ++ leBytes 1 steward ++ leBytes 4 gen ++ leBytes 8 t ++ leBytes 8 sent ++
  leBytes 1 sender ++ leBytes 1 cause ++ leBytes 2 0 ++ leBytes 4 lanes

/-- An entry of an ACK (R429), and a reply of an ATOMIC_REPLY (R430). -/
def ackBytes (x : AckEntry) : List Byte := leBytes 4 (x.seq.toNat + x.status.toNat * 2 ^ 24 + b2n x.mcast * 2 ^ 28)
def replyBytes (r : AtomR) : List Byte :=
  leBytes 6 r.id.toNat ++ leBytes 3 r.seq.toNat ++ leBytes 1 r.status.toNat ++ leBytes 6 0 ++ leBytes 8 r.value.toNat

/-- The payload of a packet sent at a tick of its sender's copy (R419, R428 to R430, R478). -/
def payloadBytes (now : Nat) : Payload → List Byte
  | .none => []
  | .sync c => leBytes 8 c
  | .probe t => leBytes 8 t
  | .echo a b => leBytes 8 a ++ leBytes 8 b
  | .beacon e => leBytes 1 e.toNat
  | .linkMask d m => linkMaskBytes d m
  | .ack a => leBytes 1 a.entries.length ++ leBytes 3 0 ++ leBytes 4 a.ret1 ++ leBytes 4 a.ret2 ++ leBytes 4 a.transit ++ a.entries.flatMap ackBytes
  | .atomicReply a b => replyBytes a ++ replyBytes b
  | .hubState m r => leBytes 4 m.toNat ++ leBytes 1 r.toNat
  | .notice t a b => leBytes 1 t.toNat ++ leBytes 7 0 ++ leBytes 8 a ++ leBytes 8 b
  | .fail t k => leBytes 1 t.toNat ++ leBytes 7 0 ++ leBytes 8 k
  | .entries u l => leBytes 8 u ++ (List.range 3).flatMap fun i => match l[i]? with
    | some r => leBytes 4 r.1 ++ leBytes 8 r.2.toNat
    | none => leBytes 4 0xFFFFFFFF ++ leBytes 8 0
  | .announce w h => switchBytes 0 w.group.val (b2n w.path) h.val w.gen w.t now 0 0 0
  | .accept w => switchBytes 1 w.group.val (b2n w.path) 0 w.gen w.t now 0 0 0
  | .fault f => switchBytes 2 f.group.val (b2n f.path) 0 0 0 f.tick f.snd.val f.cause.toNat f.lanes.toNat
  | .stateRec p h g => switchBytes 3 0 p.toNat h.val g 0 now 0 0 0
  | .audit vc t h c n => leBytes 1 vc.toNat ++ leBytes 1 (b2n t) ++ leBytes 2 0 ++ leBytes 4 h ++ leBytes 4 c ++ leBytes 4 n
  | .line d => d
  | .store be d => leBytes 8 be.toNat ++ d
  | .atomic a => leBytes 1 a.minor.toNat ++ leBytes 1 a.typ.toNat ++ leBytes 6 0 ++ a.operand
  | .copyRead dst n m _ _ => leBytes 8 dst.toNat ++ leBytes 2 n ++ leBytes 2 0 ++ leBytes 4 m.toNat
  | .copyData d => d
  | .wmAdd c w n => leBytes 2 c ++ leBytes 1 w.toNat ++ leBytes 1 0 ++ leBytes 4 n
  | .drain _ => []
  | .auditReq _ => []

/-- The bytes of a packet: 64 for a control packet, whose CRC is taken over them with its own field zero; header, payload and a trailer with the
CRC of both for a data packet (R423, R425, R426). -/
def packetBytes (now : Nat) (op : POp) (h : Hdr) (p : Payload) : List Byte :=
  if op.control then
    let body := slice (payloadBytes now p) 0 48
    let crc := crc32c (ctlHeader op h ++ leBytes 4 0 ++ body)
    ctlHeader op h ++ leBytes 4 crc.toNat ++ body
  else
    let body := dataHeader op h ++ slice (payloadBytes now p) 0 h.len
    body ++ leBytes 4 (crc32c body).toNat ++ leBytes 4 0

/-- The blocks that an output puts on its link (R399). -/
def Output.blocks (now : Nat) : Output → List Block
  | .packet _ _ op h p => packetBlocks (packetBytes now op h p)
  | _ => []

/-- The message of a vendor command's answer: type, vendor ID, and the fields of R601. -/
def vendorReply (cmd : BitVec 8) (tag : BitVec 16) (status : BitVec 8) (body : List Byte) : Output :=
  .vendor ([0x7E, 0x1D, 0xB0, cmd, 1] ++ leBytes 2 tag.toNat ++ [status, 0, 0, 0] ++ body)

end Sys2Proof.Machine
end

