-- ==== Sys2Proof/Machine/Packets.lean ====
section
/-!
DEFINITION. Packets that arrive: the receiver's checks (R452), acknowledgements (R429, R430), credits (R431), epochs
(R447), hubs and the Turnpike (R448 to R451), and what a port die, a stack endpoint and a gateway do with an operation
(R323, R327, R328, R364 to R367, R369, R372, R457, R514).
-/

namespace Sys2Proof.Machine

/-! ### Acknowledgements and credits -/

/-- A pending acknowledgement toward an origin: sent at once when its kind asks for it (R429); inside one endpoint it answers
directly (R649). -/
def State.pushAck (s : State) (e o : EpId) (seq : BitVec 24) (mcast : Bool) (st : BitVec 4) (atOnce : Bool) : State :=
  if e = o then s.replyFrom e e seq mcast [.store, .atomic, .wmAdd, .copyRead, .copySend] st []
  else
    let add (k : AckState) : AckState :=
      { k with entries := k.entries ++ [{ seq, status := st, mcast }], oldest := some (k.oldest.getD s.now) }
    let s := s.modEp e fun x => { x with acks := kmod {} x.acks o.val add }
    if atOnce || (kget {} (s.ep e).acks o.val).due then s.sendAck e o else s

/-- Blocks of an origin leave the ingress buffer (R434). -/
def State.freeWin (s : State) (e o : EpId) (vc : BitVec 2) (n : Nat) : State :=
  let add (k : AckState) : AckState :=
    { k with freed1 := if vc = 1 then (k.freed1 + n) % 2 ^ 32 else k.freed1,
             freed2 := if vc = 1 then k.freed2 else (k.freed2 + n) % 2 ^ 32,
             unreported := k.unreported + n, oldest := some (k.oldest.getD s.now) }
  if n = 0 || e = o then s
  else
    let s := s.modEp e fun x => { x with acks := kmod {} x.acks o.val add }
    let k := kget {} (s.ep e).acks o.val
    let s := s.cwPut e { kind := 4, ep := o, vc, value := BitVec.ofNat 64 (if vc = 1 then k.freed1 else k.freed2) }
    if k.due then s.sendAck e o else s

/-- A control packet of a link has been consumed: its credit goes back with the next control packet, by CREDIT when 8 are owed, or by CREDIT after
some ticks (R431; log 35). -/
def State.owe (s : State) (e l : EpId) : State :=
  let s := s.modEp e fun x => { x with
    credOwed := kmod 0 x.credOwed l.val (· + 1)
    credSince := if kget 0 x.credOwed l.val = 0 then kput 0 x.credSince l.val s.now else x.credSince }
  if kget 0 (s.ep e).credOwed l.val = 8 then s.sendCtl e l .credit .none else s

/-- Ticks after which an endpoint returns VC 0 credits by CREDIT, so that they are back within 100 (R431; DESIGN CHOICE, log 35). -/
def creditWait : Nat := 30

/-- CREDIT goes out for the VC 0 credits that have waited (R431). -/
def State.creditTick (s : State) : State :=
  forEach s.eps (fun q s =>
    let e : EpId := ⟨q.1 % 32, by omega⟩
    if q.2.isolated then s
    else forEach (q.2.credSince.filter fun c => c.2 + creditWait = s.now) (fun c s => s.sendCtl e ⟨c.1 % 32, by omega⟩ .credit .none) s) s

/-- Send a reply packet to an origin; inside one endpoint the caller answers directly. -/
def State.sendData (s : State) (e o : EpId) (op : POp) (h : Hdr) (p : Payload) : State :=
  s.enqueue e op { h with hopDst := o, target := o } p

/-- Count a discard by its check (R452). -/
def State.discard (s : State) (e : EpId) (cause : Nat) : State :=
  s.modEp e fun x => { x with discards := kmod 0 x.discards cause satInc }

/-! ### HBM at a port die -/

/-- An access reaches an HBM3 stack: it leaves self-refresh (R340). -/
def State.touchHbm (s : State) (key : Nat) : State :=
  let h := stackOfHbm key
  s.modDie (dieOfHbm h) fun d =>
    { d with selfRef := putBit d.selfRef (h.val % 2) false, lastAccess := kput 0 d.lastAccess (h.val % 2) s.now }

/-- What the check of a read found joins the known errors; corrected words are counted (R372). -/
def State.hbmFound (s : State) (e : Ecc) (key : Nat) : State :=
  let h := stackOfHbm key
  let s := { s with hbmBad := s.hbmBad ++ e.bad.filter fun w => !s.hbmBad.contains w }
  if e.corrected = 0 then s
  else s.modDie (dieOfHbm h) fun d => { d with eccCount := kmod 0 d.eccCount (h.val % 2) (satInc · e.corrected) }

/-- Whether a range holds a word with an uncorrectable error. -/
def State.hbmHasBad (s : State) (key n : Nat) : Bool := (wordsOf key n).any fun w => s.hbmBad.contains w

/-- The event of R372: port die and stack. -/
def State.hbmErrorEvent (s : State) (key : Nat) : State :=
  let h := stackOfHbm key
  s.ev 0x6001 err 0x04 (dieEp (dieOfHbm h)).val none (BitVec.ofNat 96 h.val)

/-- Write bytes to HBM; whole words written hold new codes. -/
def State.hbmWrite (s : State) (key : Nat) (en : List (Bool × Byte)) : State :=
  { s with hbm := memWriteEn s.hbm key en,
           hbmBad := s.hbmBad.filter fun w => !((List.range 8).all fun i =>
             key ≤ 8 * w + i && ((en[8 * w + i - key]?).map (·.1)).getD false) }

/-- Whether an HBM3 key lies in a frame of a class (R347). -/
def keyInFrame (cls F key : Nat) : Bool :=
  let h := key / 2 ^ 37
  let l := key % 2 ^ 37
  if cls = 0 then l / 2 ^ 16 = F
  else if cls = 2 then h = F % 16 && l / 2 ^ 20 = F / 16
  else h / 4 = F % 16 / 4 && l / 2 ^ 20 = F / 16 && l % 2 ^ 20 / 2 ^ 18 = F % 4

/-- Whether a write would touch a frame that a seal in progress has not yet read (R582). -/
def State.sealHolds (s : State) (key : Nat) : Bool :=
  s.parts.any fun (_, b) => b.sealing.any fun x => !x.hashed && x.pages.any fun (n, e) =>
    keyInFrame (eClass e) (frameOf n (if eSel e then eFrameB e else eFrameA e)) key

/-! ### Atomics at a port die (R268, R307, R365, R367) -/

/-- The old value, new value and status of an atomic on its operand's bytes (R268, R307). -/
def atomicResult (p : AtomP) (old : List Byte) : List Byte × BitVec 4 :=
  let a := leNat old
  let b := leNat p.operand
  let a32 := BitVec.ofNat 32 a
  let b32 := BitVec.ofNat 32 b
  let F := if p.typ = 0 then fp64 else fp32
  let n := if p.typ = 0 then 8 else 4
  let fp (k : FVal → FVal → Raw × BitVec 16) : List Byte :=
    let x := F.decode a
    let y := F.decode b
    leBytes n (F.result 0 0 (k x y).1).1
  let isFp := p.typ = 0 || p.typ = 1
  match p.minor.toNat with
  | 0 => (leBytes 4 (a32 + b32).toNat, stOk)
  | 1 => (fp fun x y => nanGuard [x, y] (addRaw 0 x y), stOk)
  | 2 => (if isFp then fp (minMaxRaw false) else leBytes 4 (if a32.toInt ≤ b32.toInt then a else b), stOk)
  | 3 => (if isFp then fp (minMaxRaw true) else leBytes 4 (if a32.toInt ≤ b32.toInt then b else a), stOk)
  | 4 => (leBytes 4 (min a b), stOk)
  | 5 => (leBytes 4 (max a b), stOk)
  | 6 => (leBytes 4 b, stOk)
  | 7 => (leBytes 4 (if a = b % 2 ^ 32 then b / 2 ^ 32 else a), stOk)
  | _ =>
    let (r, o) := xsWrap ((BitVec.ofNat 256 a).toInt + (BitVec.ofNat 256 b).toInt)
    (leBytes 32 r.toNat, if o then stXs else stOk)

/-- Bytes that an atomic reads and writes. -/
def atomBytes (p : AtomP) : Nat := if p.minor = 8 then 32 else if p.typ = 0 then 8 else 4

/-- Answer an atomic: XSADD by an ACK entry, the others by ATOMIC_REPLY (R430). -/
def State.answerAtomic (s : State) (e : EpId) (a : Arr) (p : AtomP) (r : Replay) : State :=
  if p.minor = 8 then s.pushAck e a.h.origin a.h.seq false r.status true
  else if e = a.h.origin then s.replyFrom e e a.h.seq false [.atomic] r.status (leBytes 8 r.value.toNat)
  else s.sendCtl e a.h.origin .atomicReply
    (.atomicReply { id := r.id, seq := a.h.seq, status := r.status, value := r.value } { id := 0, seq := 0, status := 0, value := 0 })
    a.h.part

/-- The operation ID and first-attempt tick of a tag (R427). -/
def tagId (t : BitVec 80) : BitVec 48 := t.setWidth 48
def tagFirst (t : BitVec 80) : Nat := (t.toNat / 2 ^ 48) % 2 ^ 32

/-- Ticks since the first attempt, modulo 2^32 (R427). -/
def ageOf (now first : Nat) : Nat := (now % 2 ^ 32 + 2 ^ 32 - first) % 2 ^ 32

/-- An operation issued before the die's last reset (R198). -/
def beforeReset (r : Option Nat) (now first : Nat) : Bool := r.any fun t => now - t < ageOf now first

/-- An atomic at a port die: answered from the table, answered "outcome unknown", applied once, or left waiting while the table
is full. Its age is judged once, as of its arrival, and a retry waits behind an attempt that waits (R367, R376). -/
def State.doAtomic (s : State) (k : Fin 8) (a : Arr) (p : AtomP) (e : Ecc) (since : Nat) (waited : Bool := false) : State :=
  let ep := dieEp k
  let d := s.die k
  let now := s.copyNow ep
  let id := tagId a.h.otag
  let f := tagFirst a.h.otag
  match d.replay.find? (fun r => r.id = id && now < r.expiry) with
  | some r => s.answerAtomic ep a p r
  | none =>
    let unknown : Replay := { id, status := stUnknown, value := 0, expiry := 0 }
    let came := now - (s.now - since)
    let wait : State := s.modDie k fun d => { d with full := d.full ++ [{ a, p, ecc := e }] }
    if d.full.any fun w => tagId w.a.h.otag = id then wait
    else if !waited && (99990 ≤ ageOf came f || beforeReset d.resetAt came f) then s.answerAtomic ep a p unknown
    else if 65536 ≤ d.replay.length then wait
    else
      let key := a.h.loc
      let s := (s.touchHbm key).hbmFound e key
      if s.hbmHasBad key (atomBytes p) then s.hbmErrorEvent key
      else
        let old := memRead s.hbm key (atomBytes p)
        let (new, st) := atomicResult p old
        let r : Replay := { id, status := st, value := if p.minor = 8 then 0 else BitVec.ofNat 64 (leNat old),
                            expiry := now + 100000 }
        let s := s.hbmWrite key (new.map fun b => (true, b))
        (s.modDie k fun d => { d with replay := d.replay ++ [r] }).answerAtomic ep a p r

/-- Atomics that wait for room in the table are handled in arrival order (R365, R367). -/
def State.retryFull (s : State) (k : Fin 8) : State :=
  let l := (s.die k).full
  let s := s.modDie k fun d => { d with full := [] }
  l.foldl (fun s w => s.doAtomic k w.a w.p w.ecc s.now true) s

/-! ### Waymarks at a stack endpoint (R457) -/

/-- WM_ADD at a stack endpoint, handled as R367 handles atomics, its age judged as of its arrival; false while the table is full, or behind an
attempt of it that waits. -/
def State.doWmAdd (s : State) (x : StackId) (since : Nat) (a : Arr) (core : Nat) (w : BitVec 6) (n : Nat) : State × Bool :=
  let e := stackEp x
  let now := s.copyNow e
  let id := tagId a.h.otag
  let ack (s : State) (st : BitVec 4) : State := s.pushAck e a.h.origin a.h.seq false st true
  let live := (s.ep e).wmReplay.filter fun r => now < r.expiry
  match live.find? (·.id = id) with
  | some r => (ack s r.status, true)
  | none =>
    if (s.ep e).stalled.any fun q => q.op = .wmAdd && tagId q.a.h.otag = id then (s, false)
    else if 99990 ≤ ageOf (now - (s.now - since)) (tagFirst a.h.otag) then (ack s stUnknown, true)
    else if 131072 ≤ live.length then (s, false)
    else
      let s := s.modEp e fun k => { k with wmReplay := live ++ [{ id, status := stOk, value := 0, expiry := now + 100000 }] }
      let s := if h : core < 24576 then (if core / 1536 = x.val then s.wmAdd ⟨core, h⟩ w n else s) else s
      (ack s stOk, true)

/-! ### Operations at their target -/

/-- Whom an access at a memory layer is attributed to (R322). -/
def agentOf (a : Arr) : Agent :=
  match a.h.iss with
  | some g => .core g
  | none => if 24 ≤ a.h.origin.val && a.h.origin.val < 28 then .gateway else .fabric

/-- A reply to a LOAD (R427, R430, R435). -/
def State.replyLoad (s : State) (e : EpId) (a : Arr) (st : BitVec 4) (d : List Byte) : State :=
  if e = a.h.origin then s.replyFrom e e a.h.seq false [.load] st d
  else s.sendData e a.h.origin .readData
    { vc := a.h.vc, tag := a.h.tag, part := a.h.part, status := st, len := 64, addr := a.h.addr, loc := a.h.loc,
      otag := a.h.seq.setWidth 80 } (.line d)

/-- The 64 bytes of the line that holds a place. -/
def lineAt (m : Mem) (loc : Nat) : List Byte := memRead m (loc - loc % 64) 64

/-- Send the data that a COPY_READ asked for, to its destination or destinations; the source's own endpoint gets a copy of its own, inside the
endpoint (R369, R455, R649). -/
def State.sendCopy (s : State) (e : EpId) (a : Arr) (dst : BitVec 64) (mask : BitVec 32) (de : EpId) (dl : Nat) (d : List Byte) : State :=
  let mine := hasBit mask e.val
  let rest := putBit mask e.val false
  let h : Hdr :=
    { vc := a.h.vc, tag := a.h.tag, part := a.h.part, len := d.length, addr := dst.setWidth 48, loc := dl, iss := a.h.iss,
      otag := BitVec.ofNat 80 (a.h.origin.val + a.h.seq.toNat * 32), mcast := rest ≠ 0, mmask := rest }
  let s := if mine then s.sendData e e .copyData (toStack h e) (.copyData d) else s
  if mine && rest = 0 then s else s.sendData e de .copyData h (.copyData d)

/-- A host write of the enabled bytes of a line, run by run. -/
def State.hostWriteEn (s : State) (t : PortId) (addr : Nat) : List (Bool × Byte) → State
  | [] => s
  | (en, b) :: r => (if en then s.emit (.hostWrite t addr [b]) else s).hostWriteEn t (addr + 1) r

/-- The byte enables of a STORE beside its bytes. -/
def enabled (be : BitVec 64) (d : List Byte) : List (Bool × Byte) := d.mapIdx fun i b => (be.getLsbD i, b)

/-- A word in flight to or from a memory layer or a gateway has an error: the packet is discarded, with R372's event, which names the ML or the
gateway in place of a port die (DESIGN CHOICE, log 67). -/
def State.flightEvent (s : State) (e : EpId) (key : Nat) : State :=
  if (epDie e).isSome then s.hbmErrorEvent key
  else if (epStack e).isSome then s.ev 0x6001 err 0x02 (key / 2 ^ 29 % 16)
  else s.ev 0x6001 err 0x06 e.val

/-- A memory-layer write of enabled bytes: the owner's check, then the words that are only partly written (R323, R328); none
while the bank stalls. A partly written word with an error ends as its reader would, and an error in flight discards the packet (R372). -/
def State.mlStore (s : State) (since : Nat) (a : Arr) (key : Nat) (en : List (Bool × Byte)) (ecc : Ecc) (ack : State → BitVec 4 → State) :
    State × Bool :=
  if ecc.flight then (s.flightEvent a.rx key, true)
  else match s.mlAccess (agentOf a) key (some since) with
  | .stall => (s, false)
  | .refused => (ack s stAccess, true)
  | .ok =>
    let s := s.mlFound ecc key
    let on (i : Nat) : Bool := key ≤ i && ((en[i - key]?).map (·.1)).getD false
    let some_ (w : Nat) : Bool := (List.range 8).any fun i => on (8 * w + i)
    let whole (w : Nat) : Bool := (List.range 8).all fun i => on (8 * w + i)
    let bad := (wordsOf key en.length).filter fun w => some_ w && !whole w && s.mlBad.contains w
    if !bad.isEmpty then
      let s := (bad.map (· / 8)).eraseDups.foldl (fun s ln => s.mlErrorEvent (8 * ((bad.find? (· / 8 = ln)).getD 0))) s
      (if (agentOf a) = .gateway then ack s stData else s, true)
    else
      (ack { s with ml := memWriteEn s.ml key en, mlBad := s.mlBad.filter fun w => !whole w } stOk, true)

/-- A memory-layer read for the fabric: bytes, a status to answer with, or nothing to send; none while the bank stalls (R323,
R327). -/
def State.mlFetch (s : State) (since : Nat) (a : Arr) (key n : Nat) (ecc : Ecc) : State × Option (BitVec 4 × List Byte) × Bool :=
  match s.mlAccess (agentOf a) key (some since) with
  | .stall => (s, none, false)
  | .refused => (s, some (stAccess, []), true)
  | .ok =>
    let s := s.mlFound ecc key
    if s.mlHasBad key n then
      let s := s.mlErrorEvents key n
      (s, if (agentOf a) = .gateway then some (stData, []) else none, true)
    else (s, some (stOk, memRead s.ml key n), true)

/-- The destination key of COPY_DATA: a multicast's receiver takes its own stack (R269, R455). -/
def copyKey (rx : EpId) (h : Hdr) : Nat := if h.mcast then h.loc % 2 ^ 29 + rx.val * 2 ^ 29 else h.loc

/-- Whether the die behind an endpoint is isolated or in reset: traffic arriving for it is discarded (R191). -/
def State.dieGone (s : State) (rx : EpId) (op : POp) : Bool :=
  match epStack rx, epDie rx, epPort rx with
  | some x, _, _ => if op = .wmAdd then (s.stack x).cdLost else (s.stack x).mlLost && op ≠ .readData && op ≠ .windowAudit
  | _, some d, _ => (s.die d).lost && op ≠ .readData && op ≠ .windowAudit
  | _, _, some t => (s.port t).isolated && op ≠ .readData && op ≠ .windowAudit
  | _, _, _ => false

/-- Whether the HBM3 stack of an address is out of service: traffic arriving for it is discarded (log 46). -/
def State.hbmGone (s : State) (rx : EpId) (op : POp) (loc : Nat) : Bool :=
  match epDie rx with
  | some d => !hasBit (s.die d).trained (loc / 2 ^ 37 % 2) && op ≠ .readData && op ≠ .windowAudit
  | none => false

/-- The endpoint of a stack whose CD or ML is isolated or in reset discards what arrives for it and answers "endpoint reset", with which R193 ends
the operation; a port die's or a gateway's is silent, and R199 ends it (R191, R193; DEDUCED, log 46). -/
def State.answerGone (s : State) (a : Arr) (op : POp) (p : Payload) : State :=
  match op, p with
  | .load, _ => s.replyLoad a.rx a stReset (List.replicate 64 0)
  | .copyData, _ => s.pushAck a.rx ⟨a.h.otag.toNat % 32, by omega⟩ (BitVec.ofNat 24 (a.h.otag.toNat / 32)) a.h.mcast stReset false
  | _, _ => s.pushAck a.rx a.h.origin a.h.seq a.h.mcast stReset (op ≠ .copyRead)

/-- Blocks of an origin and class that an endpoint holds, of packets that take room in the window (R434). -/
def EpState.heldBlocks (e : EpState) (o : EpId) (vc : BitVec 2) : Nat :=
  (e.held ++ e.stalled).foldl (fun t q =>
    if q.a.h.origin = o && q.a.h.vc = vc && q.op.windowed then t + blocksOf false q.a.h.len else t) 0

/-- Blocks of markers and audits of an origin that an endpoint holds, of both classes (R434). -/
def EpState.heldMarks (e : EpState) (o : EpId) : Nat :=
  (e.held ++ e.stalled).foldl (fun t q =>
    if q.a.h.origin = o && (q.op = .drainMarker || q.op = .windowAudit) then t + blocksOf false q.a.h.len else t) 0

/-- A data operation acts at its target; false while it stalls in the ingress buffer. An error found on a word in flight
discards the packet (R372). -/
def State.deliver (s : State) (k : HeldPkt) : State × Bool :=
  let a := k.a
  let ecc := k.ecc
  let rx := a.rx
  let ack (once : Bool) (s : State) (st : BitVec 4) : State := s.pushAck rx a.h.origin a.h.seq a.h.mcast st once
  if s.dieGone rx k.op then ((if (epStack rx).isSome then s.answerGone a k.op k.p else s), true)
  else if s.hbmGone rx k.op a.h.loc then (s, true) else
  match k.op, k.p with
  | .load, _ =>
    match epStack rx, epDie rx, epPort rx with
    | some _, _, _ =>
      let key := a.h.loc - a.h.loc % 64
      match s.mlFetch k.since a key 64 ecc with
      | (s, _, false) => (s, false)
      | (s, none, true) => (s, true)
      | (s, some (st, d), true) => (s.replyLoad rx a st d, true)
    | _, some _, _ =>
      let s := (s.touchHbm a.h.loc).hbmFound ecc a.h.loc
      if s.hbmHasBad (a.h.loc - a.h.loc % 64) 64 then (s.hbmErrorEvent a.h.loc, true)
      else (s.replyLoad rx a stOk (lineAt s.hbm a.h.loc), true)
    | _, _, some t =>
      let n := s.nextOp
      let r : HostRead := { tag := n, a, p := k.p, op := .load, host := a.h.loc - a.h.loc % 64, len := 64 }
      let s := { s with nextOp := n + 1 }.modPort t fun q => { q with pendingReads := q.pendingReads ++ [r] }
      (s.emit (.hostRead t r.host 64), true)
    | _, _, _ => (s, true)
  | .store, .store be d =>
    match epStack rx, epDie rx, epPort rx with
    | some _, _, _ => s.mlStore k.since a (a.h.loc - a.h.loc % 64) (enabled be d) ecc (ack true)
    | _, some _, _ =>
      if s.sealHolds a.h.loc then (s, false)
      else if ecc.flight then (s.hbmErrorEvent a.h.loc, true)
      else (ack true (((s.touchHbm a.h.loc).hbmFound ecc a.h.loc).hbmWrite (a.h.loc - a.h.loc % 64) (enabled be d)) stOk, true)
    | _, _, some t =>
      let n := s.nextOp
      let host := a.h.loc - a.h.loc % 64
      let r : HostRead := { tag := n, a, p := k.p, op := .store, host, len := 0 }
      if ecc.flight then (s.flightEvent rx host, true) else
      let s := { s with nextOp := n + 1 }.modPort t fun q => { q with pendingReads := q.pendingReads ++ [r] }
      ((s.hostWriteEn t host (enabled be d)).emit (.hostRead t host 0), true)
    | _, _, _ => (s, true)
  | .atomic, .atomic p =>
    match epDie rx with
    | some d =>
      if s.sealHolds a.h.loc then (s, false)
      else if ecc.flight then (s.hbmErrorEvent a.h.loc, true)
      else (s.doAtomic d a p ecc k.since, true)
    | none => (ack true s stAddress, true)
  | .copyRead, .copyRead dst n mask de dl =>
    match epStack rx, epDie rx, epPort rx with
    | some _, _, _ =>
      match s.mlFetch k.since a a.h.loc n ecc with
      | (s, _, false) => (s, false)
      | (s, none, true) => (s, true)
      | (s, some (st, d), true) =>
        if st = stOk then (s.sendCopy rx a dst mask de dl d, true) else (ack false s st, true)
    | _, some _, _ =>
      let s := (s.touchHbm a.h.loc).hbmFound ecc a.h.loc
      if s.hbmHasBad a.h.loc n then (s.hbmErrorEvent a.h.loc, true)
      else (s.sendCopy rx a dst mask de dl (memRead s.hbm a.h.loc n), true)
    | _, _, some t =>
      let m := s.nextOp
      let r : HostRead := { tag := m, a, p := k.p, op := .copyRead, host := a.h.loc, len := n }
      let s := { s with nextOp := m + 1 }.modPort t fun q => { q with pendingReads := q.pendingReads ++ [r] }
      (s.emit (.hostRead t a.h.loc n true), true)
    | _, _, _ => (s, true)
  | .copyData, .copyData d =>
    let o : EpId := ⟨a.h.otag.toNat % 32, by omega⟩
    let seq : BitVec 24 := BitVec.ofNat 24 (a.h.otag.toNat / 32)
    let ack (s : State) (st : BitVec 4) : State := s.pushAck rx o seq a.h.mcast st false
    let en := d.map fun b => (true, b)
    match epStack rx, epDie rx, epPort rx with
    | some _, _, _ => s.mlStore k.since { a with h := { a.h with origin := o } } (copyKey rx a.h) en ecc ack
    | _, some _, _ =>
      if s.sealHolds a.h.loc then (s, false)
      else if ecc.flight then (s.hbmErrorEvent a.h.loc, true)
      else (ack (((s.touchHbm a.h.loc).hbmFound ecc a.h.loc).hbmWrite a.h.loc en) stOk, true)
    | _, _, some t =>
      let m := s.nextOp
      let r : HostRead := { tag := m, a, p := k.p, op := .copyData, host := a.h.loc, len := 0 }
      if ecc.flight then (s.flightEvent rx a.h.loc, true) else
      let s := { s with nextOp := m + 1 }.modPort t fun q => { q with pendingReads := q.pendingReads ++ [r] }
      ((s.emit (.hostWrite t a.h.loc d true)).emit (.hostRead t a.h.loc 0), true)
    | _, _, _ => (s, true)
  | .wmAdd, .wmAdd core w n =>
    match epStack rx with
    | some x => s.doWmAdd x k.since a core w n
    | none => (ack true s stAddress, true)
  | .readData, .line d =>
    (s.replyFrom rx a.h.origin (a.h.otag.setWidth 24) false [.load] a.h.status d, true)
  | .windowAudit, .auditReq n =>
    let held := (s.ep rx).heldBlocks a.h.origin a.h.vc
    let c := kget {} (s.ep rx).acks a.h.origin.val
    (s.sendCtl rx a.h.origin .auditReply (.audit a.h.vc false held (if a.h.vc = 1 then c.freed1 else c.freed2) n), true)
  | _, _ => (s, true)

/-! ### From the ingress buffer to a bank (R160, R169, R318) -/

/-- Whether an endpoint accepts a tag of a partition now (R453). -/
def State.tagOk (s : State) (e : EpId) (p : PartId) (tag : BitVec 8) : Bool :=
  tag = 0 || (kget {} (s.ep e).tags p.val).wins.any fun w => w.tag = tag && s.copyNow e < w.deadline

/-- A packet for a port die or a gateway crosses to it as flits of one of its modules (R496, R499; log 77). -/
def State.crosses (s : State) (k : HeldPkt) : State :=
  let go (q : LinkPartner) : State :=
    let l := modulesOf q
    if l.all fun u => !(s.ucieMod u).up then s else
    s.toPartner (l.getD (Config.ucieModule k.a.h.loc % l.length) 0) k.a.h.vc.toNat (packetBytes s.now k.op k.a.h k.p)
  match epDie k.a.rx, epPort k.a.rx with
  | some d, _ => go (.mp d)
  | _, some t => go (.hg t)
  | _, _ => s

/-- Blocks of a packet leave its ingress buffer. -/
def State.leaves (s : State) (k : HeldPkt) : State :=
  if k.op.windowed then s.freeWin k.a.rx k.a.h.origin k.a.h.vc (blocksOf false k.a.h.len) else s

/-- The place in a memory layer that a packet at a stack endpoint is for, or the cluster of the core whose waymark it adds to. -/
def HeldPkt.place (k : HeldPkt) : Option MlPlace :=
  match epStack k.a.rx with
  | none => none
  | some x => match k.op, k.p with
    | .wmAdd, .wmAdd core _ _ => if h : core < 24576 then some { stack := x, cluster := coreCluster ⟨core, h⟩, core := none } else none
    | .copyData, _ => mlPlace (copyKey k.a.rx k.a.h)
    | .load, _ | .store, _ | .copyRead, _ => mlPlace k.a.h.loc
    | _, _ => none

/-- A packet that reaches the region of its place, which is awake; false where the access stalls. A period's traffic that has waited past its
deadline is discarded (R241, R246, R337). -/
def State.intoBank (s : State) (k : HeldPkt) : State × Bool :=
  if !s.tagOk k.a.rx k.a.h.part k.a.h.tag then (s.modEp k.a.rx fun x => { x with discards := kmod 0 x.discards 4 satInc }, true)
  else s.deliver k

/-- Whether a packet brings data, and the lines of 64 B that it brings. -/
def HeldPkt.dataLines (k : HeldPkt) : Nat :=
  match k.op, k.p with
  | .store, _ => 1
  | .copyData, .copyData d => (copyKey k.a.rx k.a.h % 64 + d.length + 63) / 64
  | _, _ => 0

/-- Room in a slice's DMA buffer of 16 lines for the data of a packet (R318). -/
def dmaRoom (l : List HeldPkt) (k : HeldPkt) : Bool := 0 < k.dataLines && l.foldl (fun n q => n + q.dataLines) k.dataLines ≤ 16

/-- A packet leaves a region's crossing FIFO: to its bank, or behind other data into the slice's DMA buffer; false while it must wait in the
FIFO (R160, R318). -/
def State.leaveFifo (s : State) (x : StackId) (p : RegionNo) (k : HeldPkt) : State × Bool :=
  match k.place.bind (·.core) with
  | none => s.intoBank k
  | some n =>
    let l := kget [] (s.region x p).dma n.val
    let park (s : State) : State × Bool :=
      if dmaRoom l k then (s.modRegion x p fun r => { r with dma := kput [] r.dma n.val (l ++ [k]) }, true) else (s, false)
    if 0 < k.dataLines && !l.isEmpty then park s
    else match s.intoBank k with
      | (s, true) => (s, true)
      | (s, false) => park s

/-- The entries of a region's FIFO leave it in order, until one must wait. -/
def State.drainFifo (s : State) (x : StackId) (p : RegionNo) : List HeldPkt → State
  | [] => s.modRegion x p fun r => { r with rx := { r.rx with entries := [] } }
  | k :: r => match s.leaveFifo x p k with
    | (s, true) => s.drainFifo x p r
    | (s, false) => s.modRegion x p fun q => { q with rx := { q.rx with entries := k :: r } }

/-- The DMA buffer of a slice drains in order, until an access stalls. -/
def State.drainDma (s : State) (x : StackId) (p : RegionNo) (n : Nat) : List HeldPkt → State
  | [] => s.modRegion x p fun r => { r with dma := kput [] r.dma n [] }
  | k :: r => match s.intoBank k with
    | (s, true) => s.drainDma x p n r
    | (s, false) => s.modRegion x p fun q => { q with dma := kput [] q.dma n (k :: r) }

/-- A packet in an endpoint's ingress buffer goes to its consumer, or stays. One for a region waits while the region sleeps, which asks for its
wake, and while the region's FIFO of 16 entries is full or an earlier packet for that region waits; an entry of the FIFO is taken to be one
packet (R160, R169, R331, R434; DESIGN CHOICE, log 67). -/
def State.consume (s : State) (k : HeldPkt) : State :=
  let keep (s : State) : State := s.modEp k.a.rx fun e => { e with stalled := e.stalled ++ [k] }
  let direct (s : State) : State := match s.intoBank k with
    | (s, true) => (s.leaves k).crosses k
    | (s, false) => keep s
  match k.place.bind fun pl => (s.physOf pl.stack pl.cluster).map fun p => (pl.stack, p) with
  | none => direct s
  | some (x, p) =>
    let r := s.region x p
    if r.depth ≠ .awake then keep (s.modRegion x p fun r => { r with arrived := true })
    else
      let s := s.modRegion x p fun r => { r with lastUse := s.now }
      if k.op = .wmAdd then direct s
      else
        let before := (s.ep k.a.rx).stalled.any fun q => q.op ≠ .wmAdd &&
          (q.place.any fun pl => pl.stack = x && s.physOf x pl.cluster = some p)
        if before || 16 ≤ r.rx.entries.length then keep s
        else (s.leaves k).drainFifo x p (r.rx.entries ++ [k])

/-- What waits at an endpoint tries again, oldest first: the DMA buffers and FIFOs of a stack's regions, then the ingress buffer. -/
def State.retryStalled (s : State) (e : EpId) : State :=
  let s := match epStack e with
    | none => s
    | some x => forEach (s.regions.filter fun (k : Nat × Region) => k.1 / 100 = x.val && (!k.2.dma.isEmpty || !k.2.rx.entries.isEmpty)) (fun k s =>
        let p : RegionNo := ⟨k.1 % 100, by omega⟩
        let s : State := forEach k.2.dma (fun q s => s.drainDma x p q.1 q.2) s
        s.drainFifo x p (s.region x p).rx.entries) s
  let l := (s.ep e).stalled
  let s := s.modEp e fun x => { x with stalled := [] }
  l.foldl State.consume s

/-! ### The receiver's checks (R452, R453) -/

/-- Key of an accepted epoch (R444). -/
def epochKey (o : EpId) (vc : BitVec 2) : Nat := 2 * o.val + (vc.toNat - 1)

/-- The first failing check of R452 for a data packet, by the number of its row; none when all pass. -/
def State.failing (s : State) (a : Arr) (op : POp) : Option Nat :=
  let e := s.ep a.rx
  let key := epochKey a.h.origin a.h.vc
  if !a.intact || (!a.turnpike && s.codewordsLost a.link a.rx) then some 0
  else if (if a.h.mcast then !hasBit a.h.mmask a.rx.val else a.h.hopDst ≠ a.rx) || a.h.hopSrc ≠ a.link then some 1
  else if !a.clean || !(a.h.vc = 1 || a.h.vc = 2) then some 2
  else if !e.synced || (!a.turnpike && !(s.link a.link a.rx).trained) then some 3
  else if !s.tagOk a.rx a.h.part a.h.tag then some 4
  else if (a.h.target ≠ a.rx && !a.h.mcast) then none
  else if kget false e.discarding key && a.h.epoch ≠ kget false e.accEpoch key then some 5
  else if op.windowed && winCap a.h.vc < e.heldBlocks a.h.origin a.h.vc + blocksOf false a.h.len then some 6
  else none

/-- The segment, direction and class whose ring space a packet holds as it arrives at a hub (R449). -/
def ringSegOf (a : Arr) : Option Nat :=
  if a.turnpike && 28 ≤ a.link.val && 28 ≤ a.rx.val && a.link ≠ a.rx then some (2 * linkKey a.link a.rx + b2n a.cls) else none

/-- A packet that goes no further on the ring gives its segment's space back (R449). -/
def State.freeSeg (s : State) (a : Arr) (b : Nat) : State :=
  match ringSegOf a with
  | some g => { s with ringSeg := kmod 0 s.ringSeg g (· - b) }
  | none => s

/-- A hub keeps a packet for another target: transit space on a detour, ring space on the Turnpike (R436, R448, R450). -/
def State.forward (s : State) (a : Arr) (op : POp) (p : Payload) : State :=
  let b := blocksOf op.control a.h.len
  let seg := ringSegOf a
  s.modEp a.rx fun e =>
    { e with outbox := e.outbox ++ [{ op, h := a.h, p, since := s.now, transit := true, ring := a.turnpike, seg }],
             transit := if a.turnpike || op.control then e.transit else kmod 0 e.transit a.h.origin.val (· + b) }

/-- E(o) of a class flips, which goes to the standby (R447, R468 kind 0x5). -/
def State.flipEpoch (s : State) (e o : EpId) (vc : BitVec 2) (discarding : Bool) : State :=
  let key := epochKey o vc
  let acc := !(kget false (s.ep e).accEpoch key)
  (s.modEp e fun x => { x with accEpoch := kput false x.accEpoch key acc, discarding := kput false x.discarding key discarding }).cwPut e
    { kind := 5, ep := o, vc, value := BitVec.ofNat 64 (b2n (s.ep e).routeEpoch + 2 * b2n acc + 4 * b2n discarding) }

/-- A packet that R452 lets in: delivered or held by its epoch; a DRAIN_MARKER for E(o) flips it. A marker or audit beyond the room kept for them
is lost (R434, R447). -/
def State.byEpoch (s : State) (k : HeldPkt) : State :=
  let e := k.a.rx
  let o := k.a.h.origin
  if k.a.h.epoch ≠ kget false (s.ep e).accEpoch (epochKey o k.a.h.vc) then
    if (k.op = .drainMarker || k.op = .windowAudit) && 4 < (s.ep e).heldMarks o + blocksOf false k.a.h.len then s
    else s.modEp e fun e => { e with held := e.held ++ [k] }
  else if k.op = .drainMarker then (s.flipEpoch e o k.a.h.vc false).pushAck e o k.a.h.seq false stOk false
  else s.consume k

/-- The held packets of an origin and class are delivered in arrival order, a marker among them flipping again (R447). -/
def State.releaseHeld (s : State) (e o : EpId) (vc : BitVec 2) : State :=
  let mine (k : HeldPkt) : Bool := k.a.h.origin = o && k.a.h.vc = vc
  let l := (s.ep e).held.filter mine
  let s := s.modEp e fun x => { x with held := x.held.filter fun k => !mine k }
  l.foldl State.byEpoch s

/-- A data packet arrives (R447, R448, R452). -/
def State.arrive (s : State) (a : Arr) (op : POp) (p : Payload) (ecc : Ecc) : State :=
  if !s.on || (s.ep a.rx).isolated then s
  else
    let b := blocksOf false a.h.len
    let away := a.h.target ≠ a.rx && !a.h.mcast
    match s.failing a op with
    | some c =>
      let s := (s.discard a.rx c).freeSeg a b
      let s := if c = 6 then s.ev 0x8001 err 0x08 a.h.origin.val none (BitVec.ofNat 96 a.rx.val) else s
      if c < 2 then s
      else if away then (if a.turnpike then s else s.freeTransit a.rx a.h.origin b false)
      else if op.windowed then s.freeWin a.rx a.h.origin a.h.vc b
      else s
    | none =>
      let k : HeldPkt := { op, a, p, since := s.now, ecc }
      if away then
        if (epHub a.rx).isSome then
          let s := s.forward a op p
          match op, p with
          | .windowAudit, .auditReq n =>
            let held := kget 0 (s.ep a.rx).transit a.h.origin.val
            s.sendCtl a.rx a.h.origin .auditReply (.audit a.h.vc true held (kget 0 (s.ep a.rx).transitRet a.h.origin.val) n)
          | _, _ => s
        else s.discard a.rx 1
      else
        let s := (s.freeSeg a b).byEpoch k
        if op = .drainMarker then s.releaseHeld a.rx a.h.origin a.h.vc else s

/-- The credits of a control packet: those that it returns are taken, and its own is owed to the link's sender, or on the Turnpike to its origin
(R431). -/
def State.credited (s : State) (a : Arr) (op : POp) : State :=
  let peer := if a.turnpike then a.h.origin else a.link
  let s := s.modEp a.rx fun e => { e with sentCredits := kmod 0 e.sentCredits peer.val (· - a.h.credit.toNat) }
  if op = .credit then s else s.owe a.rx peer

/-- A control packet arrives: its checks, its credit and the credits it returns, those of the Turnpike at its target; a hub forwards one for another
target. A receiver that has met another epoch than it decided for discards the link's codewords (R420, R426, R431, R448, R452; log 35). -/
def State.arriveCtl (s : State) (a : Arr) (op : POp) (p : Payload) (act : State → State) : State :=
  if !s.on || (s.ep a.rx).isolated || (!a.turnpike && (s.link a.link a.rx).stale) then s
  else if !a.intact || (!a.turnpike && s.codewordsLost a.link a.rx) then (s.discard a.rx 0).freeSeg a 2
  else if a.h.hopDst ≠ a.rx || a.h.hopSrc ≠ a.link then (s.discard a.rx 1).freeSeg a 2
  else
    let here := decide (a.h.target = a.rx)
    let s := if a.turnpike && !here then s else s.credited a op
    if !a.clean then (s.discard a.rx 2).freeSeg a 2
    else if !s.tagOk a.rx a.h.part a.h.tag then (s.discard a.rx 4).freeSeg a 2
    else if !here then
      if (epHub a.rx).isSome then s.forward a op p else s.discard a.rx 1
    else act (s.freeSeg a 2)

end Sys2Proof.Machine
end

