-- ==== Sys2Proof/Machine/CopyEng.lean ====
section
/-!
DEFINITION. The copy engine: COPY and COPY.MC (R224, R269), and its next request (R224, R225, R352, R353, R359, R369, R455).
-/

namespace Sys2Proof.Machine

/-! ### COPY and COPY.MC -/

/-- The checks of a copy word: an unused source waymark field is zero too (R251, R269). -/
def okFC (f : FC) : Bool :=
  f.gd.ok && okS f.dst && okS f.src && okS f.len && bits f.low.toNat 25 16 = 0 && bits f.low.toNat 2 0 = 0 &&
  (f.low.getLsbD 3 || bits f.low.toNat 9 4 = 0)

/-- The blocks of a copy, each with its bytes, toward the slots given (R370). -/
def copyBlocks (len : Nat) (slots : List Nat) : KMap Nat :=
  (List.range ((len + 4095) / 4096)).foldl (fun m b =>
    slots.foldl (fun m k => kput 0 m (b * 32 + k) (min 4096 (len - 4096 * b))) m) []

/-- The first slot number that no descriptor in the queue has. -/
def freeSlot (q : List CopyDesc) : Nat := (firstBelow 16 fun n => !q.any (·.slot = n)).getD 0

/-- Whether an address lies in the core's own slice or its cluster's pool (R224). -/
def ownPlace (g : CoreId) (a : Nat) : Bool :=
  0x20000000000 ≤ a && a < 0x20200000000 && match mlPlace (a - 0x20000000000) with
    | some pl => pl.stack = coreStack g && pl.cluster = coreCluster g && pl.core.all (· = coreNo g)
    | none => false

/-- Place a descriptor: IL for a bad length, for set bits where the length register is zero, or an empty mask, and a stall while the queue holds 16.
Where its first source byte lies makes the whole copy one of the own slice or pool, or one from elsewhere. The spec leaves open the set bits and a
source that lies in both (R224, R225, R269; DESIGN CHOICE, logs 76 and 78). -/
def placeCopy (u : Cv) (f : FC) (len : Nat) (mask : Option (BitVec 16)) (badLen : Bool) (s : State) : State :=
  let c := s.cv u
  let x := coreStack u.g
  if badLen || len = 0 || 2 ^ 24 < len || mask = some 0 then s.raise u flIL
  else if 16 ≤ (s.core u.g).queue.length then s.modCv u fun c => { c with run := .stalled }
  else match s.partOfStack x with
    | none => (s.raise u flRF).advance u
    | some p =>
      let k := s.cluster x (coreCluster u.g)
      let m := mask.getD 0
      let d : CopyDesc :=
        { id := s.nextOp, h := u.h, src := (c.sGet f.src).toNat, dst := (c.sGet f.dst).toNat, len, mask := m,
          dstWm := BitVec.ofNat 6 (bits f.low.toNat 15 10),
          srcWm := if f.low.getLsbD 3 then some (BitVec.ofNat 6 (bits f.low.toNat 9 4)) else none,
          part := p.val, tag := if k.mode = 1 then k.tag else 0,
          left := copyBlocks len (if m = 0 then [0] else bitList m),
          slot := freeSlot (s.core u.g).queue, srcOwn := ownPlace u.g (c.sGet f.src).toNat }
      ({ s with nextOp := s.nextOp + 1 }.modCore u.g fun k => { k with queue := k.queue ++ [d] }).advance u

def execCopy (u : Cv) (f : FC) (s : State) : Res :=
  .next (issue u (okFC f) [] (fun s =>
    if s.acquiring u then s
    else if (s.cv u).active f.gd = 0 then s.advance u
    else
      let l := (s.cv u).sGet f.len
      placeCopy u f (l.toNat % 2 ^ 25) none (l.toNat / 2 ^ 25 ≠ 0) s) s)

def execCopyMc (u : Cv) (f : FC) (s : State) : Res :=
  .next (issue u (okFC f) [] (fun s =>
    if s.acquiring u then s
    else if (s.cv u).active f.gd = 0 then s.advance u
    else
      let l := (s.cv u).sGet f.len
      placeCopy u f (l.toNat % 2 ^ 25) (some (BitVec.ofNat 16 (bits l.toNat 63 48))) (bits l.toNat 47 25 ≠ 0) s) s)

/-! ### The engine (R224, R369) -/

/-- Bytes to the next boundary that a packet does not cross: a 512 B unit in HBM, a slice in the memory layer, a page in the host
window (R369; log 36). -/
def boundary (a : Nat) : Nat :=
  if a < 2 ^ 41 then 512 - a % 512 else if a < 2 ^ 46 then 2 ^ 18 - a % 2 ^ 18 else 2 ^ 20 - a % 2 ^ 20

/-- Bytes of the next request. -/
def CopyDesc.next (c : CopyDesc) : Nat :=
  min (min (4096 - c.pos % 4096) (c.len - c.pos)) (min (boundary (c.src + c.pos)) (boundary (c.dst + c.pos)))

/-- The destination address of a slot: a multicast takes the slot's stack (R269). -/
def CopyDesc.dstAt (c : CopyDesc) (slot : Nat) : Nat :=
  let a := c.dst + c.pos
  if c.mask = 0 then a
  else if 0x20000000000 ≤ a ∧ a < 0x20200000000 then 0x20000000000 + (a - 0x20000000000) % 2 ^ 29 + slot * 2 ^ 29
  else 2 ^ 48

/-- The checks of every destination of a request: slot and place of each, or the first status that is not OK (R359, R369). -/
def State.checkDsts (s : State) (e : EpId) (p : PartId) (u : Use) (c : CopyDesc) : List Nat → Except Chk (List (Nat × Nat × Place)) × State
  | [] => (.ok [], s)
  | k :: r =>
    let a := c.dstAt k
    match s.check e p .copyWrite u c.tag a with
    | (.ok l _, s) => match s.checkDsts e p u c r with
      | (.ok m, s) => (.ok (l.map (fun q => (k, a, q)) ++ m), s)
      | (.error x, s) => (.error x, s)
    | (x, s) => (.error x, s)

/-- Whether the window toward every target of a request has room, and the Causeway queue (R224, R434, R469). -/
def State.copyRoom (s : State) (e : EpId) (vc : BitVec 2) (tgts : List EpId) (len : Nat) : Bool :=
  s.cwLevel e ≤ 48 && tgts.all fun t => t = e || (s.link e t).win vc + blocksOf false len ≤ winCap vc

/-- Start the operations just formed, from a serial number on: those of one multicast packet together, those whose peer is held
lost, or that stay inside the endpoint, each alone (R199, R455, R649). -/
def State.startOps (s : State) (e : EpId) (l : List RemOp) (multi : Bool) : State :=
  let f := s.copyNow e
  let n0 := s.nextOp
  let s := l.foldl (fun s o => s.addOp { o with first := some f }) s
  let numbered := l.mapIdx fun i o => (n0 + i, o)
  let alone (o : RemOp) : Bool := o.tgt = e || hasBit (s.ep e).lost o.tgt.val
  let group := numbered.filter fun q => multi && !alone q.2
  let s := (numbered.filter fun q => !multi || alone q.2).foldl (fun s q => s.sendAttempt q.1) s
  match group with
  | [] => s
  | q :: r =>
    let mask : BitVec 32 := group.foldl (fun m q => putBit m q.2.ackBy.val true) 0
    s.sendAttempt q.1 mask (r.map (·.1))

/-- The engine hands over one request whose places are known. -/
def State.copyRequest (s : State) (g : CoreId) (p : PartId) (c : CopyDesc) (src : Place) (ver : Option (Nat × BitVec 64))
    (ds : List (Nat × Nat × Place)) (ecc : Ecc) : State :=
  let x := coreStack g
  let e := stackEp x
  let n := c.next
  let k := s.cluster x (coreCluster g)
  let vc : BitVec 2 := if c.tag = 0 then 2 else 1
  let base : RemOp :=
    { kind := .copySend, issuer := .copy g c.id, snd := e, part := p, vc, tag := c.tag, placed := true,
      deadline := if c.tag = 0 then none else some k.deadline, block := c.pos / 4096 }
  let multi := c.mask ≠ 0
  let mask : BitVec 32 := if multi then c.mask.setWidth 32 else 0
  let done := c.pos + n = c.len
  let extra (m : KMap Nat) : KMap Nat :=
    if !multi && 1 < ds.length then kmod 0 m (c.pos / 4096 * 32) (· + n * (ds.length - 1)) else m
  let c' := { c with pos := c.pos + n, version := ver, wait := none, left := extra c.left }
  let move (s : State) : State := s.modCore g fun q =>
    if done then { q with queue := q.queue.filter (·.id ≠ c.id), flying := q.flying ++ [c'] } else q.modCopy c.id fun _ => c'
  if c.srcOwn then
    match s.mlAccess (.core g) src.loc c.wait with
    | .stall => s.modCore g fun q => q.modCopy c.id fun c => { c with wait := some (c.wait.getD s.now) }
    | .refused => s.stopCopy g c
    | .ok =>
      let s := s.mlFound ecc src.loc
      let bad := s.mlHasBad src.loc n
      let s := if bad then s.mlErrorEvents src.loc n else s
      let d := memRead s.ml src.loc n
      let ops := ds.map fun q => { base with tgt := q.2.2.tgt, ackBy := q.2.2.tgt, loc := q.2.2.loc, slot := if multi then q.1 else 0,
                                             addr := BitVec.ofNat 48 q.2.1, payload := .copyData d, dark := bad }
      let s := (move s).startOps e ops multi
      match c.srcWm with
      | some w => if done && !bad then s.wmAdd g w 1 else s
      | none => s
  else
    let ops := ds.map fun q => { base with kind := .copyRead, tgt := src.tgt, loc := src.loc, ackBy := q.2.2.tgt,
                                           addr := BitVec.ofNat 48 (c.src + c.pos), slot := if multi then q.1 else 0,
                                           payload := .copyRead (BitVec.ofNat 64 q.2.1) n mask q.2.2.tgt q.2.2.loc }
    (move s).startOps e ops multi

/-- The next request of a descriptor: both ranges are checked, a versioned page keeps the entry that its first line was translated with, and
the request waits for room (R224, R352, R359, R369). -/
def State.copyIssue (s : State) (g : CoreId) (c : CopyDesc) (ecc : Ecc) : State :=
  let e := stackEp (coreStack g)
  let p : PartId := ⟨c.part % 16, by omega⟩
  let a := c.src + c.pos
  let toHost := 2 ^ 46 ≤ c.dst + c.pos && c.dst + c.pos < 2 ^ 47
  match s.check e p .read (if toHost then .toHost else .core) c.tag a c.version with
  | (.hold, s) => s
  | (.fail _, s) => s.stopCopy g c
  | (.ok [] _, s) => s
  | (.ok (src :: _) ver, s) =>
    match s.checkDsts e p .core c (if c.mask = 0 then [0] else bitList c.mask) with
      | (.error .hold, s) => s
      | (.error _, s) => s.stopCopy g c
      | (.ok ds, s) =>
        let vc : BitVec 2 := if c.tag = 0 then 2 else 1
        let tgts := if c.srcOwn then ds.map fun q => q.2.2.tgt else [src.tgt]
        if s.copyRoom e vc tgts (if c.srcOwn then c.next else 16) then s.copyRequest g p c src ver ds ecc else s

/-- Versions flip, in every replica or in one: the copies that have still to read a line of such a page, which they translated before, stop with "version changed" (R352). -/
def State.flipCopies (s : State) (flipped : Nat → Bool) (tile : Option TileId := none) : State :=
  let reads (g : CoreId) (queued : Bool) (c : CopyDesc) : Bool :=
    !c.stopped && ((queued && c.version.any fun v => flipped v.1 && (c.src + c.pos) / 2 ^ 20 = v.1) ||
      s.ops.any fun o => o.issuer = .copy g c.id && o.kind = .copyRead && o.addr.toNat < 2 ^ 41 && flipped (o.addr.toNat / 2 ^ 20))
  forEach (s.cores.filter fun k => tile.all fun t => (s.servTile (stackEp ⟨k.1 / 1536 % 16, by omega⟩)) = t) (fun k s =>
    let g : CoreId := ⟨k.1 % 24576, by omega⟩
    forEach ((k.2.queue.filter (reads g true)) ++ k.2.flying.filter (reads g false)) (fun c s => s.stopCopy g c) s) s

def execCopyEngineIssue (g : CoreId) (e : Ecc) (s : State) : Res :=
  .next (match (s.core g).queue with
    | [] => s
    | c :: _ => if (s.stack (coreStack g)).cdLost then s else s.copyIssue g c e)

end Sys2Proof.Machine
end

