-- ==== Sys2Proof/Machine/Traffic.lean ====
section
/-!
DEFINITION. The events of traffic: arrivals of data packets, acknowledgements and credits, window audits, epochs, timeouts, the
Turnpike, internal delivery, hub states, replay expiry and host reads (chapters 10 and 12).
-/

namespace Sys2Proof.Machine

/-! ### Audits (R437) -/

/-- Start an audit of the window from i to j (R437). -/
def State.startAudit (s : State) (i j : EpId) (vc : BitVec 2) : State :=
  let n := ((s.link i j).auditNo + 1) % 2 ^ 32
  let s := s.modLink i j fun l => { l with auditNo := n, auditTick := if vc = 1 then (s.now, l.auditTick.2) else (l.auditTick.1, s.now) }
  s.sendData i j .windowAudit { vc, addr := BitVec.ofNat 48 n } (.auditReq n)

/-- Every 1 ms while blocks are unreturned (R437). -/
def execWindowAuditTimer (i j : EpId) (vc : BitVec 2) (s : State) : Res :=
  let l := s.link i j
  .next (if s.on && !(s.ep i).isolated && (vc = 1 || vc = 2) && 0 < l.win vc &&
      (if vc = 1 then l.auditTick.1 else l.auditTick.2) + 1000000 ≤ s.now then s.startAudit i j vc else s)

/-- Modulo 2^32 difference. -/
def sub32 (a b : Nat) : Nat := (a % 2 ^ 32 + 2 ^ 32 - b % 2 ^ 32) % 2 ^ 32

/-- Blocks in use after an audit: those held, with those sent since, less what has come back since the target's count, of counters modulo 2^32
(R437). -/
def inUse (held sent then_ latest count : Nat) : Nat := (held + sub32 sent then_ + sub32 count latest) % 2 ^ 32

def execAuditReply (a : Arr) (vc : BitVec 2) (transit : Bool) (held returned number : Nat) (s : State) : Res :=
  .next (s.arriveCtl a .auditReply (.audit vc transit held returned number) fun s =>
    let j := a.h.origin
    s.modLink a.rx j fun l =>
      if transit then match l.auditT with
        | some (n, sent) =>
          if n = number then { l with tw := inUse held l.twSent sent l.twRet returned, auditT := none } else l
        | none => l
      else if vc = 1 then match l.audit1 with
        | some (n, sent) =>
          if n = number then { l with win1 := inUse held l.sent1 sent l.ret1 returned, audit1 := none } else l
        | none => l
      else match l.audit2 with
        | some (n, sent) =>
          if n = number then { l with win2 := inUse held l.sent2 sent l.ret2 returned, audit2 := none } else l
        | none => l)

/-! ### Arrivals of data packets -/

def execLoad (a : Arr) (e : Ecc) (s : State) : Res := .next (s.arrive a .load .none e)

def execStore (a : Arr) (be : BitVec 64) (d : List Byte) (e : Ecc) (s : State) : Res :=
  .next (s.arrive a .store (.store be d) e)

def execAtomic (a : Arr) (p : AtomP) (e : Ecc) (s : State) : Res := .next (s.arrive a .atomic (.atomic p) e)

def execCopyRead (a : Arr) (dst : BitVec 64) (len : Nat) (mask : BitVec 32) (dstEp : EpId) (dstLoc : Nat) (e : Ecc) (s : State) : Res :=
  .next (s.arrive a .copyRead (.copyRead dst len mask dstEp dstLoc) e)

def execCopyData (a : Arr) (d : List Byte) (e : Ecc) (s : State) : Res := .next (s.arrive a .copyData (.copyData d) e)

def execWmAdd (a : Arr) (core : Nat) (w : BitVec 6) (n : Nat) (s : State) : Res :=
  .next (s.arrive a .wmAdd (.wmAdd core w n) {})

/-- READ_DATA; an error found on a word in flight discards it (R372). -/
def execReadData (a : Arr) (d : List Byte) (bad : Bool) (s : State) : Res :=
  .next (if bad then s.flightEvent a.h.origin a.h.loc else s.arrive a .readData (.line d) {})

def execDrainMarker (a : Arr) (s : State) : Res := .next (s.arrive a .drainMarker (.drain a.h.epoch) {})

def execWindowAudit (a : Arr) (s : State) : Res :=
  .next (s.arrive a .windowAudit (.auditReq (a.h.addr.toNat % 2 ^ 32)) {})

/-! ### Acknowledgements -/

/-- One entry of an ACK from j: a DRAIN_MARKER's, or an attempt's (R446, R459). -/
def State.ackEntry (s : State) (e j : EpId) (x : AckEntry) : State :=
  let mark (w : Nat × Nat × Option (BitVec 24)) : Bool := w.1 = j.val && w.2.2 = some x.seq
  if !x.mcast && (s.ep e).drainWait.any mark then
    let s := s.modEp e fun k => { k with drainWait := k.drainWait.filter fun w => !mark w }
    if (s.ep e).drainWait.isEmpty then s.bankIdle e else s
  else (s.cwClear e j x.seq x.mcast x.status).replyFrom e j x.seq x.mcast [.store, .atomic, .wmAdd, .copyRead, .copySend] x.status []

/-- ACK: window blocks and transit space come back, and its entries answer attempts (R429, R434, R436, R459). -/
def execAck (a : Arr) (p : AckP) (s : State) : Res :=
  .next (s.arriveCtl a .ack (.ack p) fun s =>
    let j := a.h.origin
    let s := s.modLink a.rx j fun l =>
      { l with win1 := l.win1 - sub32 p.ret1 l.ret1, ret1 := p.ret1, win2 := l.win2 - sub32 p.ret2 l.ret2, ret2 := p.ret2,
               tw := if 28 ≤ j.val then l.tw - sub32 p.transit l.twRet else l.tw,
               twRet := if 28 ≤ j.val then p.transit else l.twRet }
    let s := ([1, 2] : List (BitVec 2)).foldl (fun s vc =>
      s.cwPut a.rx { kind := 3, ep := j, vc, value := BitVec.ofNat 64 ((s.link a.rx j).win vc) }) s
    (p.entries.foldl (fun s x => s.ackEntry a.rx j x) s).pump)

/-- 100 ticks after the oldest unreported item an ACK is sent (R429). -/
def execAckTimer (e o : EpId) (s : State) : Res :=
  .next (match (kget {} (s.ep e).acks o.val).oldest with
    | some t => if t + 100 ≤ s.now then s.sendAck e o else s
    | none => s)

/-- ATOMIC_REPLY completes its atomics (R430, R459). -/
def execAtomicReply (a : Arr) (r1 r2 : AtomR) (s : State) : Res :=
  .next (s.arriveCtl a .atomicReply (.atomicReply r1 r2) fun s =>
    let one (s : State) (r : AtomR) : State :=
      if r.id = 0 then s
      else (s.cwClear a.rx a.h.origin r.seq false r.status).replyFrom a.rx a.h.origin r.seq false [.atomic] r.status (leBytes 8 r.value.toNat)
    one (one s r1) r2)

def execCredit (a : Arr) (s : State) : Res := .next (s.arriveCtl a .credit .none id)

/-! ### Timeouts and epochs -/

/-- OPERATION_TIMEOUT; an attempt that a target left without a reply, of an ended operation too, starts an audit of its window (R368, R437). -/
def execOperationTimeout (n : Nat) (s : State) : Res :=
  let audit := match s.op? n with
    | some o =>
      let sent := o.attempts.getLast?.any fun a => a.sent && !a.answered && !a.timedOut
      let due : Bool := match o.first with
        | some f => decide (f + o.attempts.length * s.timeoutOf o.part ≤ s.copyNow o.snd)
        | none => false
      if sent && due && o.tgt ≠ o.snd then some (o.snd, o.tgt, o.vc) else none
    | none => match s.tails.find? (·.serial = n) with
      | some o =>
        let late (q : Attempt × Nat) : Bool := q.1.sent && !q.1.answered && !q.1.timedOut &&
          decide (o.first.getD 0 + (q.2 + 1) * s.timeoutOf o.part ≤ s.copyNow o.snd)
        if o.attempts.zipIdx.any late && o.tgt ≠ o.snd then some (o.snd, o.tgt, o.vc) else none
      | none => none
  .next (match audit with
    | some (i, j, vc) => (s.timeout n).startAudit i j vc
    | none => s.timeout n)

/-- No marker has come within 10,000 ticks of the first held packet: E(o) flips, and packets of the other epoch are discarded from
now on (R447). -/
def execEpochHoldTimeout (e o : EpId) (vc : BitVec 2) (s : State) : Res :=
  let first := (s.ep e).held.find? fun k => k.a.h.origin = o && k.a.h.vc = vc
  .next (if first.any fun k => k.since + 10000 ≤ s.now then
      (s.flipEpoch e o vc true).releaseHeld e o vc
    else s)

/-- A replay entry whose 100 µs have passed goes, and atomics that waited for its room are handled (R367, R457). -/
def execReplayEntryExpiry (e : EpId) (id : BitVec 48) (s : State) : Res :=
  let keep (now : Nat) (r : Replay) : Bool := r.id ≠ id || now < r.expiry
  .next (match epDie e, epStack e with
    | some k, _ => (s.modDie k fun d => { d with replay := d.replay.filter (keep (s.copyNow e)) }).retryFull k
    | _, some _ => (s.modEp e fun x => { x with wmReplay := x.wmReplay.filter (keep (s.copyNow e)) }).retryStalled e
    | _, _ => s)

/-! ### Hubs and the Turnpike (R445, R449 to R451) -/

/-- Crossing the dateline: hub 30 to hub 28, or hub 29 to hub 28 (R449). -/
def dateline (t u : TileId) : Bool := u = 0 && (t = 2 || t = 1)

/-- The packet leaves its ring segment or its transit space at a hub (R450). -/
def State.leaveHub (s : State) (e : EpId) (x : TxEntry) : State :=
  let s := s.modEp e fun k => { k with outbox := dropTx k.outbox x }
  match x.seg with
  | some g => { s with ringSeg := kmod 0 s.ringSeg g (· - x.blocks) }
  | none =>
    if x.ring || x.op.control then s else s.freeTransit e x.h.origin x.blocks true

/-- The class of the next segment from tile t toward tile v (R449). -/
def segClass (t v : TileId) (x : TxEntry) : Bool := (match x.seg with | some g => decide (g % 2 = 1) | none => false) || dateline t v

/-- Whether a packet at a hub can move now: to a target on the tile, or onto the next segment, where its class has room (R449, R451). -/
def State.ringMoves (s : State) (t : TileId) (x : TxEntry) : Bool :=
  tileOfEp x.h.target = t || (s.nextRing t (tileOfEp x.h.target)).any fun v =>
    kget 0 s.ringSeg (2 * linkKey (hubEp t) (hubEp v) + b2n (segClass t v x)) + x.blocks ≤ 1024

/-- TURNPIKE_ENTRY: a packet of a hub that rides the ring, or has waited 5,000 ticks in transit space, moves one segment, or to its target on the
tile: control packets first, each origin's in order, and past those that find no way (R449 to R451). -/
def execTurnpikeEntry (t : TileId) (s : State) : Res :=
  let e := hubEp t
  let ok (x : TxEntry) : Bool := x.transit && (x.ring || (!x.op.control && x.since + 5000 < s.now))
  let l := (s.ep e).outbox.filter ok
  let first (x : TxEntry) : Bool := l.find? (fun y => y.h.origin = x.h.origin && y.op.control = x.op.control) = some x
  let l := l.filter fun x => first x && s.ringMoves t x
  .next (match l.find? (·.op.control) <|> l.head? with
    | none => s
    | some x =>
      let u := tileOfEp x.h.target
      if u = t then (s.leaveHub e x).emit (.packet e x.h.target x.op { x.h with hopDst := x.h.target, hopSrc := e, detour := false } x.p)
      else match s.nextRing t u with
        | none => s
        | some v =>
          let key := 2 * linkKey e (hubEp v) + b2n (segClass t v x)
          let s := s.leaveHub e x
          ({ s with ringSeg := kmod 0 s.ringSeg key (· + x.blocks) }).emit
            (.packet e (hubEp v) x.op { x.h with hopDst := hubEp v, hopSrc := e, detour := false } x.p))

/-- HUB_STATE arrives and may change routes (R445). -/
def execHubState (a : Arr) (mask : BitVec 32) (ring : BitVec 8) (s : State) : Res :=
  .next (s.arriveCtl a .hubState (.hubState mask ring) fun s =>
    match epHub a.h.origin with
    | none => s
    | some h => (s.modEp a.rx fun e => { e with hubMask := kput 0 e.hubMask h.val mask, hubRing := kput 0 e.hubRing h.val ring }).reroute a.rx)

/-- A hub's report of its usable outbound links, those past training, and the hubs it reaches on the ring (R428, R445). -/
def State.sendHubState (s : State) (t : TileId) : State :=
  let e := hubEp t
  let mask : BitVec 32 := (others e).foldl (fun m j => if s.usable e j && (s.link e j).trained then putBit m j.val true else m) 0
  let ring : BitVec 8 := allTiles.foldl (fun m u => if u ≠ t && (s.nextRing t u).isSome then putBit m u.val true else m) 0
  s.sendAll e .hubState (.hubState mask ring)

def execHubStateSend (t : TileId) (s : State) : Res :=
  .next (if s.on && !(s.ep (hubEp t)).isolated then s.sendHubState t else s)

/-! ### Inside one endpoint, and the host -/

/-- An operation whose target is its own sender is delivered inside the endpoint (R649): the first one that waits. -/
def execInternalDelivery (e : EpId) (x : Ecc) (s : State) : Res :=
  .next (match (s.ep e).outbox.find? fun t => t.h.target = e && !t.transit && !t.h.mcast && !t.op.control with
    | none => s
    | some t =>
      let seq : BitVec 24 := BitVec.ofNat 24 (t.ops.headD 0)
      let s := s.modEp e fun k => { k with outbox := dropTx k.outbox t }
      let s := s.markSent t.ops seq
      let otag := if t.op = .copyData then BitVec.ofNat 80 (if t.ops.isEmpty then t.h.otag.toNat else e.val + seq.toNat * 32) else t.h.otag
      let h := { t.h with seq, otag, hopDst := e, hopSrc := e }
      let a : Arr := { rx := e, link := e, turnpike := false, cls := false, h }
      if s.tagOk e t.h.part t.h.tag then s.consume { op := t.op, a, p := t.p, since := s.now, ecc := x } else s.discard e 4)

/-- A host read completes (R514): a load's line, a copy's bytes, or the zero-length read after a posted write. A failed one returns
nothing, and the operation times out. -/
def execHostReadCompletion (t : PortId) (tag : Nat) (d : List Byte) (bad : Bool) (s : State) : Res :=
  .next (match (s.port t).pendingReads.find? (·.tag = tag) with
    | none => s
    | some r =>
      let s := s.modPort t fun q => { q with pendingReads := q.pendingReads.filter (·.tag ≠ tag) }
      let e := gwEp t
      if bad then s
      else match r.op, r.p with
        | .load, _ => s.replyLoad e r.a stOk (slice d 0 64)
        | .copyRead, .copyRead dst _ mask de dl => s.sendCopy e r.a dst mask de dl (slice d 0 r.len)
        | .store, _ => s.pushAck e r.a.h.origin r.a.h.seq r.a.h.mcast stOk true
        | .copyData, _ =>
          s.pushAck e ⟨r.a.h.otag.toNat % 32, by omega⟩ (BitVec.ofNat 24 (r.a.h.otag.toNat / 32)) r.a.h.mcast stOk false
        | _, _ => s)

/-! ### Handovers and clears (R324, R331) -/

/-- The accesses of convoys that waited for a handover of a slice and that its owner allows are granted (R324). -/
def State.grantWaiting (s : State) (x : StackId) (c : ClusterNo) (n : Fin 16) : State :=
  let owner := (kget {} (s.cluster x c).owners n.val).owner
  forEach (List.finRange 16) (fun i s => forEach (List.finRange 2) (fun h s =>
    let u : Cv := { g := coreOf x c i, h }
    match (s.cv u).stall with
    | some (_, k) =>
      if k / 2 ^ 18 = sliceKey x c n.val 0 / 2 ^ 18 && ownerAllows owner x c n (.core u.g) then s.modCv u fun v => { v with granted := some k } else s
    | none => s) s) s

/-- A handover completes: the new owner's accesses that waited at the port are granted, and then the next waiting Owner write is taken (R324,
R326, R337). -/
def execHandoverDone (x : StackId) (c : ClusterNo) (n : Fin 16) (s : State) : Res :=
  .next (if (kget {} (s.cluster x c).owners n.val).target.isNone then s
    else
      let s := ((s.modOwner x c n.val fun w => w.done s.now).grantWaiting x c n).retryStalled (stackEp x)
      s.modOwner x c n.val SliceOwner.nextUp)

/-- The clear of a region's banks completes; packets that waited at them try again (R331). -/
def execClearDone (x : StackId) (p : RegionNo) (s : State) : Res :=
  .next (if (s.region x p).clearing then (s.modRegion x p fun r => { r with clearing := false }).retryStalled (stackEp x) else s)

end Sys2Proof.Machine
end

