-- ==== Sys2Proof/Machine/Loader.lean ====
section
/-!
DEFINITION. The page-map loader at work: batches from acceptance to their update tick (R355 to R358, R373, R374), the steward's
page commands (R526, R643), quarantine, self-refresh and the rebuilding of the frame table (R340, R348).
-/

namespace Sys2Proof.Machine

/-! ### Ignored register writes (R520) -/

/-- The detail of a refused register write: BAR0 offset, then the writing port (R619). -/
def writeDetail (t : PortId) (off : Nat) : BitVec 96 := BitVec.ofNat 96 (off + t.val * 2 ^ 32)

/-- The BAR0 offset of a register of a partition block (R630). -/
def blockOff (p : PartId) (off : Nat) : Nat := 0x10000 + 0x1000 * p.val + off

/-- A write that a port may not make: a warning, at most one per port per second (R520). -/
def State.ignoredWrite (s : State) (t : PortId) (off : Nat) : State :=
  if (s.port t).refuseTick.all fun k => k + 1000000000 ≤ s.now then
    (s.modPort t fun q => { q with refuseTick := some s.now }).ev 0xE003 warn 0x06 (gwEp t).val none (writeDetail t off)
  else s

/-! ### Releases of whole partitions -/

/-- The pages that a partition owns, lost pages included, in rising order. -/
def State.pagesOf (s : State) (p : PartId) : List Nat :=
  ((s.pm.rep (s.servTile 28)).filter fun (_, e) => (eValid e || eLost e) && eOwner e = p.val).map (·.1)

/-- Cut a list into pieces of n and fewer. -/
def pieces {α : Type} (n : Nat) : Nat → List α → List (List α)
  | 0, _ => []
  | _, [] => []
  | k + 1, l => l.take n :: pieces n k (l.drop n)

/-- Offer records in batches of 4,096, the last one marked (R526). -/
def State.offerAll (s : State) (src : Bool → BatchFrom) (recs : List (Nat × BitVec 64)) : State :=
  let l := pieces 4096 recs.length recs
  (l.zipIdx).foldl (fun s (r, i) => s.offerBatch { src := src (i + 1 = l.length), flip := false, recs := r }) s

/-- A block returns to free with its fields at reset (R522, R527). -/
def State.freeBlock (s : State) (p : PartId) : State := s.modPart p fun _ => {}

/-- Release every page of a partition; an abandoned block without pages is free at once (R527, R641). -/
def State.releaseAll (s : State) (p : PartId) : State :=
  let l := s.pagesOf p
  if l.isEmpty then (if (s.part p).abandoning then s.freeBlock p else s)
  else s.offerAll (fun last => .auto p last) (l.map fun n => (n, 0))

/-! ### Page commands (R526, R643) -/

/-- Frames named by waiting and accepted batches, with the layout that each asks for. -/
def HbmDie.reserved (d : HbmDie) : List (Nat × BitVec 2) :=
  (d.waiting ++ d.accepted).foldl (fun l b =>
    b.recs.foldl (fun l r => l ++ (eFrames r.1 r.2).map fun f => (f, eLayout r.2)) l) []

/-- Whether an assignment may take a frame: free, its group of a 16-stack layout or none, and not reserved (R526). -/
def HbmDie.assignable (d : HbmDie) (res : List (Nat × BitVec 2)) (f : Nat) : Bool :=
  d.frame f = .free && (kget 0 d.layouts (f / 16) = 0 || kget 0 d.layouts (f / 16) = 1) &&
  !(res.any fun r => r.1 = f || (r.1 / 16 = f / 16 && r.2 ≠ 1))

/-- The lowest assignable frame field of a half, with k frames left to try, and how many are left after it. -/
def HbmDie.findFree (d : HbmDie) (res : List (Nat × BitVec 2)) (half : Nat) : Nat → Option (Nat × Nat)
  | 0 => none
  | k + 1 =>
    let f := 2 ^ 20 - (k + 1)
    if d.assignable res (half * 2 ^ 20 + f) then some (f, k) else d.findFree res half k

/-- The entry that an assignment writes (R526). -/
def assignEntry (p : PartId) (f : Nat) : BitVec 64 := BitVec.ofNat 64 (2 ^ 63 + p.val * 2 ^ 59 + f * 2 ^ 32 + f * 2 ^ 12)

/-- The records of an assignment of n pages from a page, with the frames left to try in each half; none where the free frames
run out. -/
def HbmDie.assignRecs (d : HbmDie) (res : List (Nat × BitVec 2)) (p : PartId) : Nat → Nat → Nat → Nat → Option (List (Nat × BitVec 64))
  | 0, _, _, _ => some []
  | n + 1, page, k0, k1 =>
    if page / 2 ^ 20 % 2 = 0 then
      match d.findFree res 0 k0 with
      | none => none
      | some (f, k) => (d.assignRecs res p n (page + 1) k k1).map ((page, assignEntry p f) :: ·)
    else
      match d.findFree res 1 k1 with
      | none => none
      | some (f, k) => (d.assignRecs res p n (page + 1) k0 k).map ((page, assignEntry p f) :: ·)

/-- The checks of a page command at the loader, in order: the records to write, or the status that refuses it (R526, R643). -/
def State.pageCheck (s : State) (p : PartId) (release : Bool) (first count : Nat) : Except (BitVec 4) (List (Nat × BitVec 64)) :=
  let inRange (n : Nat) : Bool := first ≤ n && n < first + count
  let rep := s.pm.rep (s.servTile 28)
  let named := rep.filter fun (n, _) => inRange n
  if release then
    let mine := named.filter fun (_, e) => (eValid e || eLost e) && eOwner e = p.val
    if mine.length < count then .error 8
    else if mine.any fun (n, _) => (s.part p).declares n then .error 3
    else .ok (mine.map fun (n, _) => (n, 0))
  else if !named.isEmpty || (s.pm.waiting ++ s.pm.accepted).any (fun b => b.recs.any fun r => inRange r.1) then .error 3
  else match s.pm.assignRecs s.pm.reserved p count first (2 ^ 20) (2 ^ 20) with
    | none => .error 4
    | some l => .ok l

/-- A page command that the loader takes up: refused whole, or split into batches of 4,096 entries (R526). -/
def State.pageStart (s : State) (p : PartId) (release : Bool) (first count : Nat) : State :=
  match s.pageCheck p release first count with
  | .error st => s.modPart p fun b => { b with pageSt := st, pageRefused := none }
  | .ok recs => s.offerAll (fun last => .page p release last) recs

/-- A write of PAGE_CMD; one behind a command that waits is judged after it (R520, R526, R643). -/
def State.pageCmd (s : State) (t : PortId) (p : PartId) (release : Bool) (first count : Nat) : State :=
  let b := s.part p
  let refuse (st : BitVec 4) : State := s.modPart p fun b => { b with pageSt := st, pageApplied := 0, pageRefused := none }
  if !s.barUp t then s
  else if t ≠ s.pw.steward then s.ignoredWrite t (blockOff p 0x58)
  else if b.pageSt = 1 then s.modPart p fun b => { b with pageRefused := some 7 }
  else if !(b.block = .configuring || b.block = .committed) || b.abandoning then refuse 6
  else if count = 0 || 2 ^ 20 < count || 2 ^ 21 < first + count then refuse 5
  else
    let s := refuse 1
    if s.loaderDown || s.pm.waiting.any Batch.isCmd then s.offerBatch { src := .cmd p release first count, flip := false, recs := [] }
    else s.pageStart p release first count

def execPageAssign (t : PortId) (p : PartId) (first count : BitVec 21) (s : State) : Res :=
  .next (s.pageCmd t p false first.toNat count.toNat)

def execPageRelease (t : PortId) (p : PartId) (first count : BitVec 21) (s : State) : Res :=
  .next (s.pageCmd t p true first.toNat count.toNat)

/-! ### Acceptance (R356, R357) -/

/-- The checks on a publish flip, in the order of R357 (log 37). -/
def State.checkFlip (s : State) (p : PartId) (recs : List (Nat × BitVec 64)) : Option (Nat × Nat) :=
  let old (n : Nat) := s.mapEntry n
  if 4096 < recs.length || !noTwice (recs.map (·.1)) || recs.any (fun r => 2 ^ 21 ≤ r.1 || r.2 ≠ 0) then some (1, 0)
  else if recs.any (fun r => eOwner (old r.1) ≠ p.val || !(eValid (old r.1) || eLost (old r.1))) then some (0x0B, 5)
  else if recs.any (fun r => eLost (old r.1)) then some (0x0B, 7)
  else if recs.any (fun r => (s.part p).declares r.1 || s.bound r.1) then some (0x0C, 0)
  else if recs.any (fun r => eMode (old r.1) ≠ 2) then some (1, 0)
  else none

/-- Triples of a list, the last one shorter. -/
def triples {α : Type} : List α → List (List α)
  | a :: b :: c :: r => [a, b, c] :: triples r
  | [] => []
  | l => [l]

/-- The loader accepts a batch: its update tick is 2,000 ticks later, and the other tiles are told (R356, R428). -/
def State.acceptBatch (s : State) (b : Batch) : State :=
  let recs := match b.src with
    | .lost k => s.lostPages k
    | _ => b.recs
  let u := s.now + 2000
  let s := { s with pm := { s.pm with accepted := s.pm.accepted ++ [{ b with recs, u := some u }], lastAccept := some s.now } }
  forEach ([29, 30, 31] : List EpId) (fun e s =>
    forEach (triples recs) (fun r s => s.sendCtl 28 e .pageMapEntries (.entries u r)) s) s

/-- The front batch leaves the waiting list; a refused one completes its descriptor (R357). -/
def State.takeBatch (s : State) (b : Batch) : State :=
  let s := { s with pm := { s.pm with waiting := s.pm.waiting.drop 1 } }
  match b.src with
  | .desc p d =>
    match (if b.flip then s.checkFlip p b.recs else s.checkBatch p b.recs) with
    | some (st, det) => s.finish p d st det
    | none => s.acceptBatch b
  | _ => s.acceptBatch b

def execPageMapBatchAccept (s : State) : Res :=
  .next (if !s.on || s.loaderDown || !(s.pm.lastAccept.all fun k => k + 10000 ≤ s.now) then s
    else match s.pm.waiting with
      | [] => s
      | b :: _ =>
        match b.src with
        | .cmd p release first count =>
          let w := s.pm.waiting.drop 1
          let s := { s with pm := { s.pm with waiting := [] } }.pageStart p release first count
          let mine := s.pm.waiting
          let s := { s with pm := { s.pm with waiting := mine ++ w } }
          match mine with
          | [] => s
          | b :: _ => s.takeBatch b
        | _ => s.takeBatch b)

/-- PAGE_MAP_ENTRIES at a hub: records and their update tick (R428). -/
def execPageMapEntries (a : Arr) (u : Nat) (recs : List (Nat × BitVec 64)) (s : State) : Res :=
  .next (s.arriveCtl a .pageMapEntries (.entries u recs) fun s =>
    s.modEp a.rx fun e => { e with mapRecs := e.mapRecs ++ recs.map fun r => (u, r.1, r.2) })

/-- Pages of a partition that are lost (R374). -/
def State.lostCount (s : State) (p : PartId) : Nat :=
  ((s.pm.rep (s.servTile 28)).filter fun (_, e) => eLost e && eOwner e = p.val).length

/-! ### Quarantine, self-refresh, rebuilding -/

/-- The interleave class of a group's layout (R347). -/
def layoutClass (l : BitVec 2) : Nat := if l = 1 then 0 else if l = 3 then 2 else 1

/-- A frame's quarantine ends: it was filled with zeros, and it is free; a group with no frame left has no layout (R348, R358). -/
def execQuarantineEnd (f : Nat) (s : State) : Res :=
  .next (if s.pm.quar.any fun q => q.1 = f && q.2.1 ≤ s.now then
      let cls := layoutClass (kget 0 s.pm.layouts (f / 16))
      let frames := kdel s.pm.frames f
      let used := frames.any fun x => x.1 / 16 = f / 16
      { s with
        hbm := s.hbm.filter fun c => !keyInFrame cls f c.1
        hbmBad := s.hbmBad.filter fun w => !keyInFrame cls f (8 * w)
        pm := { s.pm with
          frames := frames
          layouts := if used then s.pm.layouts else kdel s.pm.layouts (f / 16)
          quar := s.pm.quar.filter fun q => q.1 ≠ f } }
    else s)

/-- An HBM3 stack enters self-refresh: no partition needs it, and it had no access for 1 ms (R340). -/
def execHbmSelfRefreshEntry (h : Fin 16) (s : State) : Res :=
  let k := dieOfHbm h
  let needed := s.parts.any fun (_, b) => b.kernel.isSome || (b.bundle.isSome && b.work ≠ .stopped)
  .next (if s.on && !needed && kget 0 (s.die k).lastAccess (h.val % 2) + 1000000 ≤ s.now then
      s.modDie k fun d => { d with selfRef := putBit d.selfRef (h.val % 2) true }
    else s)

end Sys2Proof.Machine
end

