-- ==== Sys2Proof/Machine/Runs.lean ====
section
/-!
DEFINITION. Runs of periods and what stops a partition: notices (R453, R552), completion records of periods in deadline order (R555,
R557), the end of the periods that will not start (R556), work states (R201), the stop of a partition (R193, R542), and STOP's
completion (R539, R556).
-/

namespace Sys2Proof.Machine

/-! ### Periods of a run (R549) -/

/-- Periods of a run in all. -/
def Run.total (r : Run) : Nat := r.entries.length * r.repeats

/-- The table entry of period k of a run. -/
def Run.entry (r : Run) (k : Nat) : PeriodEntry :=
  (r.entries[k % r.entries.length]?).getD { start := 0, length := 0, work := 0, seed := 0, set := 0, plan := 0, outs := 0 }

/-- Start and deadline tick of period k of a run (R547, R549). -/
def Run.startOf (r : Run) (k : Nat) : Nat := r.base + k / r.entries.length * r.stride + (r.entry k).start
def Run.deadlineOf (r : Run) (k : Nat) : Nat := r.startOf k + (r.entry k).length

/-- The bundle of a partition, empty where none is loaded. -/
def Part.bundleD (b : Part) : Bundle := b.bundle.getD {}

/-- An endpoint accepts a tag of a partition: PERIOD_NOTICE (R453). -/
def State.acceptTag (s : State) (e : EpId) (p : PartId) (w : TagWin) : State :=
  let now := s.copyNow e
  s.modEp e fun x => { x with tags := kmod {} x.tags p.val fun t =>
    { t with wins := (t.wins.filter fun v => v.tag ≠ w.tag && now < v.deadline) ++ [w] } }

/-- No endpoint accepts a tag of a partition any more (R200, R527). -/
def State.retireTags (s : State) (p : PartId) : State :=
  { s with eps := kmapIf {} s.eps (fun _ => true) fun e => { e with tags := kdel e.tags p.val } }

/-- The next period of a partition is noticed to every endpoint: at acceptance, or at the start of the one before it (R552). -/
def State.noticeNext (s : State) (p : PartId) : State :=
  let b := s.part p
  if b.periods.any fun x => x.stage = .noticed then s
  else match b.runs.find? fun r => r.next < r.total && r.cut.isNone with
    | none => s
    | some r =>
      let k := r.next
      let e := r.entry k
      let x : Period :=
        { no := b.nextNo, d := r.d, start := r.startOf k, deadline := r.deadlineOf k, seed := e.seed, set := e.set
          outs := b.bundleD.outs.getD e.outs [], last := k + 1 = r.total, digest := b.bundleD.digest }
      let s := s.modPart p fun b =>
        { b with periods := b.periods ++ [x], runs := b.runs.map fun q => if q.d = r.d then { q with next := k + 1 } else q }
      let s := s.acceptTag (s.gwOf p) p { tag := periodTag x.no, start := x.start, deadline := x.deadline }
      s.sendAll (s.gwOf p) .periodNotice (.notice (periodTag x.no) x.start x.deadline) p

/-! ### Records in deadline order (R555, R557) -/

/-- The leading periods of a list that are decided and whose record is ready, or that report to nobody. -/
def ripePeriods (l : List Period) : List Period := l.takeWhile fun x => x.decided = 0xF && (x.compl.isSome || x.quiet)

/-- The records of the leading periods are written; a period's last record ends its run. -/
def State.flushPeriods (s : State) (p : PartId) : State :=
  let l := ripePeriods (s.part p).periods
  let s := s.modPart p fun b =>
    { b with periods := b.periods.drop l.length
             runs := b.runs.filter fun r => !(l.any fun x => x.last && x.d = r.d) }
  forEach l (fun x s => match x.compl with
    | some c => if x.quiet then s else s.complete p c
    | none => s) s

/-! ### Periods that will not start -/

/-- One record for each period of a run that will not start, in deadline order (R556; log 38). -/
def State.restOf (s : State) (p : PartId) (r : Run) (status detail : Nat) : State :=
  forEach ((List.range (r.total - r.next)).map (· + r.next)) (fun k s =>
    s.complete p { d := r.d, last := k + 1 = r.total, status, detail, tick := r.deadlineOf k }) s

/-- Cut runs end once none of their periods is in progress. -/
def State.flushRuns (s : State) (p : PartId) : State :=
  let b := s.part p
  let ripe := b.runs.filter fun r => r.cut.isSome && !(b.periods.any fun x => x.d = r.d)
  let s := s.modPart p fun b => { b with runs := b.runs.filter fun r => !(ripe.any fun q => q.d = r.d) }
  forEach ripe (fun r s => match r.cut with
    | some (st, det) => s.restOf p r st det
    | none => s) s

/-- The accepted runs start no later period: a noticed one is taken back, and each will be reported with a status (R542, R556). -/
def State.cutRuns (s : State) (p : PartId) (status detail : Nat) : State :=
  s.modPart p fun b =>
    { b with
      runs := b.runs.map fun r =>
        let back := (b.periods.filter fun x => x.stage = .noticed && x.d = r.d).length
        { r with next := r.next - back, cut := some (r.cut.getD (status, detail)) }
      periods := b.periods.filter fun x => x.stage ≠ .noticed }

/-! ### Work states -/

/-- The work state that follows from the kernel, the bundle and the runs of a partition (R201). -/
def Part.workNow (b : Part) : WorkState :=
  if b.kernel.any fun k => k.launch.isSome then .freeRun
  else if b.bundle.isNone then .idle
  else if b.runs.isEmpty && b.periods.isEmpty then .loaded else .scheduled

/-- STOPs complete once every core has stopped, and then unload the bundle where they ask so (R539, R556). -/
def State.settleStop (s : State) (p : PartId) : State :=
  let b := s.part p
  if b.stopping.isEmpty || b.running.isSome || b.kernel.isSome then s
  else
    let s := s.modPart p fun b => { b with stopping := [], bundle := if b.stopping.any (·.2) then none else b.bundle }
    forEach b.stopping (fun x s => s.finish p x.1 0) s

/-- What follows a change of a partition's work: records of decided periods are written, cut runs end, STOP completes, the next period is
noticed, and the work state is set unless the partition is stopped or resetting. -/
def State.settle (s : State) (p : PartId) : State :=
  let s := (((s.flushPeriods p).flushRuns p).settleStop p).noticeNext p
  s.modPart p fun b => if b.work = .stopped || b.work = .resetting || b.block ≠ .committed then b else { b with work := b.workNow }

/-- Seals in progress of a partition fail: the period stays committed, its record shows no handle, and an error is recorded (R584). -/
def State.failSeals (s : State) (p : PartId) (f : Sealing → Bool) : State :=
  let l := (s.part p).sealing.filter f
  if l.isEmpty then s
  else
    let s := s.modPart p fun b =>
      { b with sealing := b.sealing.filter fun x => !f x
               periods := b.periods.map fun y => match l.find? (fun x => x.period = y.no) with
                 | some x => { y with compl := some x.compl }
                 | none => y }
    (forEach l (fun _ s => s.ev 0xC005 err 0x0E p.val (some p)) s).settle p

/-! ### The stop of a partition (R193) -/

/-- Whether a cluster of a partition is in a period. -/
def State.inPeriod (s : State) (p : PartId) (no : Nat) : Bool :=
  s.clusters.any fun k => hasBit (s.part p).stackMask (k.1 / 96) && k.2.mode = 1 && k.2.period = no

/-- A running period that no cluster is in any more has ended (R241, R244). -/
def State.endPeriods (s : State) (p : PartId) : State :=
  match (s.part p).running with
  | none => s
  | some x =>
    if s.inPeriod p x.no then s
    else (s.modPeriods p (·.no = x.no) fun x => { x with stage := .ended }).settle p

/-- A partition stops with a cause: its running period fails, its kernel ends, an image being loaded is given up, and its runs are
cut; the cores stop; the bundle stays until a restart (R188, R193, R201, R231, R542; DEDUCED, log 75). One that is stopped already keeps its cause. -/
def State.stopPartition (s : State) (p : PartId) (cause : BitVec 8) : State :=
  let b := s.part p
  if b.block ≠ .committed || b.work = .stopped then s
  else
    let s := s.failPeriod p { status := 0x06, detail := cause.toNat, core := 0xFFFF, tick := s.copyNow (s.gwOf p) }
    let s := s.endKernel p 0x08 cause.toNat
    let s := forEach (s.stacksOf p) (fun x s => s.stopStack x 3) s
    let s := match b.loading with
      | some l => (s.modPart p fun b => { b with loading := none }).finish p l.d 0x08 cause.toNat
      | none => s
    let s := s.cutRuns p 0x08 cause.toNat
    let s := s.modPart p fun b =>
      { b with work := .stopped, cause := cause
               periods := b.periods.map fun x => if x.stage = .running then { x with stage := .ended } else x }
    s.settle p

/-- The partitions that contain a stack (R193). -/
def State.stopStackOwner (s : State) (x : StackId) (cause : BitVec 8) : State :=
  match s.partOfStack x with
  | some p => s.stopPartition p cause
  | none => s

end Sys2Proof.Machine
end

