-- ==== Sys2Proof/Machine/Paths.lean ====
section
/-!
DEFINITION. Duplicated paths: Tollgate tokens and leases (R473, R474, R651), switchovers from decision to completion (R475 to
R480), probes (R463 to R465), and the Causeway copy of a link controller (R466 to R471).
-/

namespace Sys2Proof.Machine

/-! ### Stewards (R472) -/

/-- The hub of a steward: 0 in hub 28, 1 in hub 30. -/
def stewHub (h : Fin 2) : EpId := if h = 0 then 28 else 30

/-- The steward of a hub endpoint. -/
def stewOf (e : EpId) : Option (Fin 2) := if e = 28 then some 0 else if e = 30 then some 1 else none

def State.stew (s : State) (h : Fin 2) : Steward := if h = 0 then s.stewA else s.stewB
def State.modStew (s : State) (h : Fin 2) (f : Steward → Steward) : State :=
  if h = 0 then { s with stewA := f s.stewA } else { s with stewB := f s.stewB }

/-- The other steward. -/
def otherStew (h : Fin 2) : Fin 2 := if h = 0 then 1 else 0

/-- A steward is in service: its hub is not isolated. -/
def State.stewUp (s : State) (h : Fin 2) : Bool := s.on && (s.stew h).up && !(s.ep (stewHub h)).isolated

/-- The lanes of a plane group. -/
def groupMask (g : Nat) : BitVec 32 := BitVec.ofNat 32 (0xFF * 2 ^ (8 * g))

/-- Whether a holder may announce: its lease lasts, or its partner's hub is lost (R473). -/
def State.leaseOk (s : State) (h : Fin 2) (g : GroupNo) : Bool :=
  let st := s.stew h
  s.stewUp h && hasBit st.holds g.val && (st.partnerLost.isSome || s.copyNow (stewHub h) < kget 0 st.leaseE g.val)

/-! ### What an endpoint does with a steward's packets (R474, R479) -/

/-- An acceptance reaches a steward (R479). -/
def State.takeAccept (s : State) (h : Fin 2) (sw : Switch) (e : EpId) : State :=
  s.modStew h fun st =>
    if st.pend.any fun w => w.group = sw.group && w.t = sw.t then
      { st with accepted := kmod 0 st.accepted sw.group.val fun m => putBit m e.val true }
    else st

/-- The planes whose loopback lane has failed on a path: a loopback lane serves the probe of its standby path (R379, R409). -/
def State.loopsFailed (s : State) (e : EpId) (path : Bool) : BitVec 32 :=
  (List.finRange 32).foldl (fun m p => if ((s.lane { snd := e, rcv := e, plane := p }).failOn path).isSome then putBit m p.val true else m) 0

/-- An endpoint's driver sets the path of a group: its taps probe the other path from now on, whose probes must show 1 s of clean readings where a
switchover left it, the one-way delays are measured again, and a steward of the endpoint notes the path (R141, R462, R465, R472, R482). A failed
probe passes again only by clean readings (R465, R483). -/
def State.setDriver (s : State) (e : EpId) (g : GroupNo) (path : Bool) (left : Bool := true) : State :=
  if hasBit (s.ep e).drivers g.val = path then s
  else
    let gm := groupMask g.val
    let s := s.modEp e fun x => { x with
      drivers := putBit x.drivers g.val path
      probeFail := x.probeFail ||| (gm &&& s.loopsFailed e (!path))
      probeNew := if left then x.probeNew ||| gm else x.probeNew
      probeClean := x.probeClean.filter fun c => c.1 / 8 ≠ g.val }
    let s := forEach (if e = 28 then others e else [e]) (fun j s => s.modEp j fun x => { x with delay := none }) s
    match stewOf e with
    | some h => s.modStew h fun st => { st with paths := putBit st.paths g.val path }
    | none => s

/-- The value of a pending switchover (R468, kind 0xA). -/
def switchValue (w : Switch) : BitVec 64 := BitVec.ofNat 64 (w.group.val + b2n w.path * 4 + w.t * 8)

/-- An announcement at an endpoint: recorded beside those of other groups and accepted, or, after T, obeyed at once; an old generation is ignored
(R474, R479). -/
def State.takeAnnounce (s : State) (e : EpId) (sw : Switch) (h : Fin 2) : State :=
  if sw.gen < kget 0 (s.ep e).genSeen sw.group.val then s
  else
    let s := s.modEp e fun x => { x with genSeen := kput 0 x.genSeen sw.group.val sw.gen }
    let s := if sw.t ≤ s.copyNow e then s.setDriver e sw.group sw.path
      else if (s.ep e).pends.contains sw then s
      else (s.modEp e fun x => { x with pends := x.pends.filter (·.group ≠ sw.group) ++ [sw] }).cwPut e
        { kind := 0xA, ep := 0, vc := 0, value := switchValue sw }
    if stewHub h = e then s.takeAccept h sw e else s.sendCtl e (stewHub h) .switchAnnounce (.accept sw)

/-- A state record at an endpoint, with its one generation: it sets the driver of each group of which the endpoint has seen no higher one, and a
group that waited may train (R462, R474, R478; log 40). -/
def State.takeRecord (s : State) (e : EpId) (paths : BitVec 4) (gen : Nat) : State :=
  forEach (List.finRange 4) (fun g s =>
    if gen < kget 0 (s.ep e).genSeen g.val then s
    else
      let waited := hasBit (s.ep e).waits g.val
      (s.modEp e fun x => { x with genSeen := kput 0 x.genSeen g.val gen, waits := putBit x.waits g.val false }).setDriver e g
        (hasBit paths g.val) (!waited)) s

/-- The generation of a state record: the highest of the tokens that its steward holds (R478; log 40). -/
def Steward.recordGen (st : Steward) : Nat := (bitList st.holds).foldl (fun n g => max n (kget 0 st.gen g)) 0

/-- A steward sends its state record to one endpoint (R474, R479; log 40). -/
def State.sendRecord (s : State) (h : Fin 2) (e : EpId) : State :=
  let st := s.stew h
  if e = stewHub h then s.takeRecord e st.paths st.recordGen
  else s.sendCtl (stewHub h) e .switchAnnounce (.stateRec st.paths (stewHub h) st.recordGen)

/-- A steward sends its state record to every endpoint. -/
def State.sendRecords (s : State) (h : Fin 2) : State := forEach allEps (fun e s => s.sendRecord h e) s

/-! ### Switchovers (R475 to R477) -/

/-- Announce a switchover to endpoints (R479). -/
def State.announceTo (s : State) (h : Fin 2) (sw : Switch) (l : List EpId) : State :=
  forEach l (fun e s =>
    if e = stewHub h then s.takeAnnounce e sw h
    else s.sendCtl (stewHub h) e .switchAnnounce (.announce sw (stewHub h))) s

/-- The earliest T after the switchovers already announced (R477). -/
def Steward.afterPend (st : Steward) : Nat :=
  (st.pend.filter fun w => hasBit st.echoed w.group.val).foldl (fun m w => max m (w.t + 1700)) 0

/-- Sideband commands that wait for the T of a group's switchover are answered (R476). -/
def State.answerAsked (s : State) (h : Fin 2) (g : GroupNo) (status : BitVec 8) (body : List Byte) : State :=
  let l := (s.stew h).asked.filter (·.1 = g.val)
  let s := s.modStew h fun st => { st with asked := st.asked.filter (·.1 ≠ g.val) }
  if s.pyhDown then s else forEach l (fun q s => s.respond (vendorReply 0x05 q.2 status body)) s

/-- Both stewards keep a switchover; the other one while it is in service (R472, R477). -/
def State.keepSwitch (s : State) (h : Fin 2) (sw : Switch) (announced : Bool) : State :=
  let put (st : Steward) : Steward :=
    { st with pend := st.pend.filter (·.group ≠ sw.group) ++ [sw], echoed := putBit st.echoed sw.group.val announced
              accepted := if announced then st.accepted else kput 0 st.accepted sw.group.val 0 }
  let s := s.modStew h put
  if s.stewUp (otherStew h) then s.modStew (otherStew h) put else s

/-- The holder announces a switchover: it chooses T, which the other steward learns and a sideband command is answered with, 2,000 ticks ahead and
1,700 after the last one announced (R476, R477, R480). -/
def State.announceSwitch (s : State) (h : Fin 2) (w : Switch) : State :=
  let sw := { w with t := max (s.copyNow (stewHub h) + 2000) (s.stew h).afterPend }
  ((s.keepSwitch h sw true).answerAsked h w.group 0 (leBytes 8 sw.t)).announceTo h sw allEps

/-- A holder decides a switchover: it copies it to the other steward and waits for the echo, or announces at once where its partner
is lost (R477). Until the announcement no T is chosen. -/
def State.decideSwitch (s : State) (h : Fin 2) (g : GroupNo) (path : Bool) : State :=
  let sw : Switch := { group := g, path, t := 0, gen := kget 0 (s.stew h).gen g.val }
  let s := s.keepSwitch h sw false
  if (s.stew h).partnerLost.isSome then s.announceSwitch h sw else s

/-- A holder whose partner's hub is lost waits for no echo: it announces what it has decided (R473, R477). -/
def State.announceHeld (s : State) (h : Fin 2) : State :=
  let l : List Switch := (s.stew h).pend.filter fun w => !hasBit (s.stew h).echoed w.group.val && s.leaseOk h w.group
  forEach l (fun w s => s.announceSwitch h w) s

/-- Whether a steward counts a lane unusable on a path: failed for a ring; on the standby path, not passed at start-up, or with a failed probe at an
end; on the active path, failed there (R463, R472, R650). -/
def Steward.counts (st : Steward) (path : Bool) (l : LaneId) : Bool :=
  let start := if path then st.startB else st.startA
  let probe (e : EpId) : Bool := st.probes.contains (32 * e.val + l.plane.val) || start.contains { snd := e, rcv := e, plane := l.plane }
  st.rings.contains l ||
    (if path ≠ hasBit st.paths (groupOf l.plane).val then start.contains l || probe l.snd || probe l.rcv
     else (if path then st.badB else st.badA).contains l)

/-- The lanes of a group. -/
def groupLanes (g : GroupNo) : List LaneId :=
  (lanesIn (groupMask g.val)).flatMap fun p => allEps.flatMap fun i => (others i).map fun j => { snd := i, rcv := j, plane := p }

/-- Lanes of a group that a steward counts unusable on a path (R463, R475). -/
def Steward.badCount (st : Steward) (g : GroupNo) (path : Bool) : Nat := ((groupLanes g).filter (st.counts path)).length

/-- Distinct elements of a list of endpoints, counted. -/
def distinct (l : List EpId) : Nat := (allEps.filter l.contains).length

/-- A path that a switchover left is the group's standby again after 1 s of clean probes at every endpoint in service (R482). -/
def State.standbyReady (s : State) (g : GroupNo) : Bool :=
  allEps.all fun e => !(s.ep e).inService || (List.range 8).all fun k => !hasBit (s.ep e).probeNew (8 * g.val + k)

/-- The holder judges the active path of a group failed: in any 10 µs, failed lanes from at least 3 senders to at least 3 receivers;
it then switches where the group has a standby path and more lanes are presumed usable on it (R475, R482). -/
def State.judgeGroup (s : State) (h : Fin 2) (g : GroupNo) : State :=
  let st := s.stew h
  let act := hasBit st.paths g.val
  let l := st.reports.filter fun f => f.group = g && f.path = act && f.cause.toNat < 6
  if s.leaseOk h g && !(st.pend.any (·.group = g)) && s.standbyReady g && 3 ≤ distinct (l.map (·.snd)) && 3 ≤ distinct (l.map (·.rcv)) &&
      st.badCount g (!act) < st.badCount g act then s.decideSwitch h g (!act)
  else s

/-- Join lanes to a list of lanes. -/
def addLanes (l : List LaneId) (n : List LaneId) : List LaneId := l ++ n.filter fun x => !l.contains x

/-- The lanes that a fault report names. -/
def laneIds (f : FaultRep) : List LaneId :=
  ((List.finRange 32).filter fun p => hasBit f.lanes p.val).map fun p => { snd := f.snd, rcv := f.rcv, plane := p }

/-- A fault report at a steward: a ring cause counts on both paths, a failed probe on the standby side (R463, R465, R475, R650). -/
def State.takeFault (s : State) (h : Fin 2) (f : FaultRep) : State :=
  if !s.stewUp h then s
  else
    let now := s.copyNow (stewHub h)
    let ring := f.cause = 4 || f.cause = 5
    let s := s.modStew h fun st =>
      { st with
        reports := (st.reports.filter fun r => now < r.tick + 10000) ++ [{ f with tick := now }]
        badA := if f.cause ≠ 6 && !ring && !f.path then addLanes st.badA (laneIds f) else st.badA
        badB := if f.cause ≠ 6 && !ring && f.path then addLanes st.badB (laneIds f) else st.badB
        rings := if ring then addLanes st.rings (laneIds f) else st.rings
        probes := if f.cause = 6 then (bitList f.lanes).foldl (fun l p =>
            if l.contains (32 * f.snd.val + p) then l else l ++ [32 * f.snd.val + p]) st.probes else st.probes }
    if f.cause = 6 then s else s.judgeGroup h f.group

/-- An endpoint reports a fault to both stewards (R472, R478). -/
def State.reportFault (s : State) (e : EpId) (f : FaultRep) : State :=
  forEach ([0, 1] : List (Fin 2)) (fun h s =>
    if e = stewHub h then s.takeFault h f else s.sendCtl e (stewHub h) .switchAnnounce (.fault f)) s

/-- A lane is usable again: the stewards no longer count it failed on the path named, nor for a ring (R414, R650; log 39). -/
def State.stewReturn (s : State) (l : LaneId) (path : Bool) : State :=
  let go (st : Steward) : Steward :=
    { st with badA := if path then st.badA else st.badA.filter (· ≠ l), badB := if path then st.badB.filter (· ≠ l) else st.badB
              rings := st.rings.filter (· ≠ l) }
  (s.modStew 0 go).modStew 1 go

/-- A switchover asked for by the sideband, with its answer: status and T, or none while the command waits for the T that its announcement
chooses. A path that is not standby yet is refused (R476, R482; log 40). -/
def State.askSwitch (s : State) (g : GroupNo) (path : Bool) (instance_ : BitVec 16) : Option (BitVec 8 × List Byte) × State :=
  match ([0, 1] : List (Fin 2)).find? fun h => s.leaseOk h g with
  | none => (some (3, []), s)
  | some h =>
    let st := s.stew h
    let act := hasBit st.paths g.val
    let wait : State := s.modStew h fun st => { st with asked := st.asked ++ [(g.val, instance_)] }
    match st.pend.find? (·.group = g) with
    | some w =>
      if w.path ≠ path then (some (3, []), s)
      else if hasBit st.echoed g.val then (some (0, leBytes 8 w.t), s) else (none, wait)
    | none =>
      if path = act || !s.standbyReady g || st.badCount g act < st.badCount g path then (some (3, []), s)
      else (none, wait.decideSwitch h g path)

/-! ### Meanings: stewards -/

/-- The holder renews its leases every 250 ticks (R473). -/
def execLeaseRenew (h : Fin 2) (s : State) : Res :=
  let now := s.copyNow (stewHub h)
  .next (if s.stewUp h && (s.stew h).holds ≠ 0 && (s.stew h).lastRenew + 250 ≤ now then
      let s := s.modStew h fun st =>
        { st with lastRenew := now
                  sentE := (bitList st.holds).foldl (fun m g => kput 0 m g (now + 1000)) st.sentE }
      forEach ((List.finRange 4).filter fun g => hasBit (s.stew h).holds g.val) (fun g s =>
        s.emit (.lease h false g (kget 0 (s.stew h).gen g.val) (now + 1000))) s
    else s)

/-- A renewal that the holder sent reaches the standby, which keeps E and the generation and echoes it (R473, R651). -/
def execLeaseRenewal (h : Fin 2) (g : GroupNo) (gen ex : Nat) (s : State) : Res :=
  let o := s.stew (otherStew h)
  .next (if s.stewUp h && !hasBit (s.stew h).holds g.val && hasBit o.holds g.val && gen ≤ kget 0 o.gen g.val && ex ≤ kget 0 o.sentE g.val then
      (s.modStew h fun st =>
        { st with
          heardE := kput 0 st.heardE g.val (max ex (kget 0 st.heardE g.val))
          gen := kput 0 st.gen g.val (max gen (kget 0 st.gen g.val))
          heard := putBit st.heard g.val true
          known := putBit st.known g.val true }).emit (.lease h true g gen ex)
    else s)

/-- An echo of a renewal that the other steward received extends the holder's lease to its E (R473). -/
def execLeaseEcho (h : Fin 2) (g : GroupNo) (ex : Nat) (s : State) : Res :=
  .next (if s.stewUp h && hasBit (s.stew h).holds g.val && ex ≤ kget 0 (s.stew h).sentE g.val &&
      ex ≤ kget 0 (s.stew (otherStew h)).heardE g.val then
      s.modStew h fun st => { st with leaseE := kput 0 st.leaseE g.val (max ex (kget 0 st.leaseE g.val)) }
    else s)

/-- A steward takes a token with a generation; its lease starts with its next renewals. A switchover that the old holder announced goes on; one
that waited for its echo was never announced, and what asked for it is refused (R473, R474, R476). -/
def State.takeToken (s : State) (h : Fin 2) (g : GroupNo) (up : Nat) : State :=
  let drop (st : Steward) : Steward := { st with pend := st.pend.filter fun w => w.group ≠ g || hasBit st.echoed g.val }
  let s := s.modStew h fun st =>
    { st with pend := (drop st).pend, holds := putBit st.holds g.val true, gen := kmod 0 st.gen g.val (· + up), leaseE := kput 0 st.leaseE g.val 0 }
  let s := s.modStew (otherStew h) fun st => { st with pend := (drop st).pend, holds := putBit st.holds g.val false }
  let s := (s.answerAsked h g 3 []).answerAsked (otherStew h) g 3 []
  { s with holder := putBit s.holder g.val (h = 1) }

/-- The standby's copy reaches the latest E it has received plus 10; a steward that has returned counts from its first renewal (R473, R474, R482). -/
def execTokenTakeover (h : Fin 2) (g : GroupNo) (s : State) : Res :=
  let st := s.stew h
  .next (if s.stewUp h && !hasBit st.holds g.val && hasBit st.known g.val && (!st.returned || hasBit st.heard g.val) &&
      kget 0 st.heardE g.val + 10 ≤ s.copyNow (stewHub h) then (s.takeToken h g 1).sendRecords h
    else s)

/-- A returned steward whose partner's hub is lost takes the tokens without renewals, 1,010 ticks later (R651). -/
def execStewardReturnTakeover (h : Fin 2) (s : State) : Res :=
  let st := s.stew h
  .next (if s.stewUp h && st.returned && st.partnerLost.any fun k => k + 1010 ≤ s.copyNow (stewHub h) then
      let l := (List.finRange 4).filter fun g => !hasBit st.heard g.val && !hasBit st.holds g.val
      if l.isEmpty then s else ((forEach l (fun g s => s.takeToken h g 2) s).modStew h fun st => { st with returned := false }).sendRecords h
    else s)

/-- The other steward echoes a copied switchover: the holder announces it (R477). -/
def execSwitchoverEcho (h : Fin 2) (g : GroupNo) (s : State) : Res :=
  let st := s.stew h
  .next (match st.pend.find? (·.group = g) with
    | none => s
    | some w =>
      if hasBit st.echoed g.val || !s.leaseOk h g then s else s.announceSwitch h w)

/-- Repeat an announcement to each endpoint in service that has not accepted, until T (R479). -/
def execAnnounceRepeat (h : Fin 2) (s : State) : Res :=
  let st := s.stew h
  .next (forEach (st.pend.filter fun w => hasBit st.echoed w.group.val && s.copyNow (stewHub h) < w.t && s.leaseOk h w.group)
    (fun w s => s.announceTo h w (allEps.filter fun e =>
      (s.ep e).inService && !hasBit (kget 0 st.accepted w.group.val) e.val)) s)

/-- Every 10 ms the holder sends a state record to every endpoint (R479). -/
def execStateRecordSend (h : Fin 2) (s : State) : Res :=
  .next (if s.stewUp h && (s.stew h).holds ≠ 0 then s.sendRecords h else s)

/-- The switchover completes: the holder records it, and the delays are measured again (R480). -/
def execSwitchComplete (h : Fin 2) (g : GroupNo) (s : State) : Res :=
  .next (match (s.stew h).pend.find? (·.group = g) with
    | none => s
    | some w =>
      if !(s.stewUp h && hasBit (s.stew h).holds g.val && hasBit (s.stew h).echoed g.val) || s.copyNow (stewHub h) < w.t + 800 then s
      else
        let drop (st : Steward) : Steward := { st with pend := st.pend.filter (·.group ≠ g), echoed := putBit st.echoed g.val false }
        let s := (s.modStew 0 drop).modStew 1 drop
        let s := { s with eps := kmapIf {} s.eps (fun _ => true) fun e => { e with delay := none } }
        s.ev 0x9005 warn 0x03 (tileOfEp (stewHub h)).val none (BitVec.ofNat 96 g.val))

/-! ### Meanings: packets of the stewards -/

def execSwitchAnnouncement (a : Arr) (sw : Switch) (h : Fin 2) (s : State) : Res :=
  .next (s.arriveCtl a .switchAnnounce (.announce sw (stewHub h)) fun s => s.takeAnnounce a.rx sw h)

def execSwitchAcceptance (a : Arr) (sw : Switch) (s : State) : Res :=
  .next (s.arriveCtl a .switchAnnounce (.accept sw) fun s => match stewOf a.rx with
    | some h => s.takeAccept h sw a.h.origin
    | none => s)

def execFaultReport (a : Arr) (f : FaultRep) (s : State) : Res :=
  .next (s.arriveCtl a .switchAnnounce (.fault f) fun s => match stewOf a.rx with
    | some h => s.takeFault h f
    | none => s)

def execStateRecord (a : Arr) (paths : BitVec 4) (h : Fin 2) (gen : Nat) (s : State) : Res :=
  .next (s.arriveCtl a .switchAnnounce (.stateRec paths (stewHub h) gen) fun s => s.takeRecord a.rx paths gen)

/-! ### Probes (R465) -/

/-- A probe fails: a warning and a fault report to both stewards, once until it passes again (R465). -/
def State.probeFails (s : State) (e : EpId) (p : PlaneNo) : State :=
  let x := s.ep e
  let s' := s.modEp e fun x => { x with probeFail := putBit x.probeFail p.val true, probeClean := kput 0 x.probeClean p.val 0 }
  if hasBit x.probeFail p.val then s'
  else
    let f : FaultRep := { snd := e, rcv := e, group := groupOf p, path := !hasBit x.drivers (groupOf p).val, cause := 6
                          lanes := putBit 0 p.val true, tick := s.copyNow e }
    (s'.ev 0x9001 warn 0x08 e.val none (BitVec.ofNat 96 p.val)).reportFault e f

/-- A probe reading in hundredths of a dBm, with the pilot it shows in kHz: a fault, or a clean reading, of which 100 in a row pass a failed
probe and make a path that was left standby again (R465, R482). -/
def execProbeReading (e : EpId) (p : PlaneNo) (cdBm : Int) (khz : Nat) (s : State) : Res :=
  let x := s.ep e
  let bad := khz ≠ pilotKhz 0 || cdBm < kget 0 x.probeRef p.val - 300 || cdBm < -4000
  .next (if !s.on || x.isolated then s
    else if bad then s.probeFails e p
    else if !hasBit x.probeFail p.val && !hasBit x.probeNew p.val then s
    else
      let n := kget 0 x.probeClean p.val + 1
      if n < 100 then s.modEp e fun x => { x with probeClean := kput 0 x.probeClean p.val n }
      else
        let s := s.modEp e fun x => { x with
          probeFail := putBit x.probeFail p.val false, probeNew := putBit x.probeNew p.val false, probeClean := kput 0 x.probeClean p.val 0 }
        let go (st : Steward) : Steward := { st with probes := st.probes.filter (· ≠ 32 * e.val + p.val) }
        (s.modStew 0 go).modStew 1 go)

/-! ### The Causeway copy (R467 to R471) -/

/-- A Causeway fault: the standby copy is not valid, and the image is sent again (R471). -/
def State.cwFault (s : State) (e : EpId) : State :=
  (s.modEp e fun x => { x with standbyOk := false, cwImage := {}, cwPos := some 0, cwRx := none }).ev 0x9003 warn 0x08 e.val

/-- The key of a slot's state: kind, endpoint and VC; a link mask's direction stands for its VC, and a switchover goes by its group (R468). -/
def slotKey (k : CwSlot) : Nat :=
  if k.kind = 0xA then 0xA00 + k.value.toNat % 4
  else k.kind.toNat * 256 + k.ep.val * 4 + (if k.kind = 6 then b2n (k.value.getLsbD 43) else k.vc.toNat)

/-- Set or clear a scoreboard entry of the copy. -/
def CwCopy.put (c : CwCopy) (d seq : Nat) (set : Bool) : CwCopy :=
  let rest := c.board.filter (· ≠ (d, seq))
  { c with board := if set then rest ++ [(d, seq)] else rest }

/-- One state change at the standby: an allotment moves the sequence, the window and the scoreboard; kind 0x0 is empty, and reserved kinds carry none
(R468). -/
def CwCopy.one (c : CwCopy) (k : CwSlot) : CwCopy :=
  let v := k.value.toNat
  let set (c : CwCopy) (k : CwSlot) : CwCopy := { c with vals := kins c.vals (slotKey k) k.value }
  if k.kind = 0 || 0xD ≤ k.kind.toNat then c
  else if k.kind = 7 then c.put k.ep.val (v % 2 ^ 24) (k.value.getLsbD 28)
  else if k.kind = 0xC then
    let c := c.put k.ep.val (v % 2 ^ 24) false
    if k.value.getLsbD 56 then c.put k.ep.val (v / 2 ^ 28 % 2 ^ 24) false else c
  else if k.kind = 0xB then
    let next := BitVec.ofNat 64 ((v + 1) % 2 ^ 24)
    let w : CwSlot := { kind := 3, ep := k.ep, vc := k.vc, value := 0 }
    let c := if k.value.getLsbD 33 then set c { kind := 2, ep := 0, vc := 0, value := next } else set c { kind := 1, ep := k.ep, vc := 0, value := next }
    let c := if v / 2 ^ 24 % 256 = 0 then c
      else set c { w with value := BitVec.ofNat 64 ((kget 0 c.vals (slotKey w)).toNat + v / 2 ^ 24 % 256) }
    if k.value.getLsbD 32 then c.put k.ep.val (v % 2 ^ 24) true else c
  else set c k

/-- The value of a link mask's state change (R468, kind 0x6). -/
def maskValue (k : Link) (epoch : BitVec 8) (inbound : Bool) : BitVec 64 :=
  BitVec.ofNat 64 (k.mask.toNat + k.width.toNat * 2 ^ 32 + epoch.toNat * 2 ^ 35 + b2n inbound * 2 ^ 43)

/-- The items of an endpoint's image before its scoreboard: eleven for each peer, then what belongs to none (R468, R469). -/
def imageFixed : Nat := 359
def State.imageItem (s : State) (e : EpId) (n : Nat) : Option CwSlot :=
  let x := s.ep e
  let j : EpId := ⟨n / 11 % 32, by omega⟩
  let k := kget {} x.acks j.val
  let slot (kind : BitVec 4) (vc : BitVec 2) (v : BitVec 64) : Option CwSlot := some { kind, ep := j, vc, value := v }
  let epoch (vc : BitVec 2) : BitVec 64 := BitVec.ofNat 64
    (b2n x.routeEpoch + 2 * b2n (kget false x.accEpoch (epochKey j vc)) + 4 * b2n (kget false x.discarding (epochKey j vc)))
  if n < 352 then match n % 11 with
    | 0 => slot 1 0 (BitVec.ofNat 64 (s.link e j).seq)
    | 1 => slot 3 1 (BitVec.ofNat 64 (s.link e j).win1)
    | 2 => slot 3 2 (BitVec.ofNat 64 (s.link e j).win2)
    | 3 => slot 4 1 (BitVec.ofNat 64 k.freed1)
    | 4 => slot 4 2 (BitVec.ofNat 64 k.freed2)
    | 5 => slot 5 1 (epoch 1)
    | 6 => slot 5 2 (epoch 2)
    | 7 => slot 6 0 (maskValue (s.link e j) x.epoch false)
    | 8 => slot 6 0 (maskValue (s.link j e) (s.link j e).sndEpoch true)
    | 9 => slot 8 0 (kget 0 x.bankA j.val)
    | _ => slot 8 1 (kget 0 x.bankB j.val)
  else if n = 352 then some { kind := 2, ep := 0, vc := 0, value := BitVec.ofNat 64 x.mseq }
  else if n = 353 then some { kind := 9, ep := 0, vc := 0, value := BitVec.ofNat 64 x.opCtr }
  else if n = 354 then some { kind := 5, ep := 0, vc := 0, value := BitVec.ofNat 64 (b2n x.routeEpoch) }
  else (x.pends.find? fun w => w.group.val = n - 355).map fun w => { kind := 0xA, ep := 0, vc := 0, value := switchValue w }

/-- The scoreboard entry of an endpoint at a place or the next one after it, and its place: four to each operation (R458, R469). -/
def State.boardItem (s : State) (e : EpId) (n : Nat) : Option (CwSlot × Nat) :=
  let entries := ((s.ops ++ s.tails).filter fun o => o.snd = e && o.onBoard).flatMap fun o =>
    (o.attempts.zipIdx.filter fun a => a.1.sent && !a.1.answered && !a.1.timedOut).map fun a => (4 * o.serial + a.2, o.ackBy, a.1.seq)
  let least := (entries.filter fun q => n ≤ q.1).foldl (fun (m : Option (Nat × EpId × BitVec 24)) q =>
    if m.all fun p => q.1 < p.1 then some q else m) none
  least.map fun q => ({ kind := 7, ep := q.2.1, vc := 0, value := BitVec.ofNat 64 (q.2.2.toNat + 2 ^ 24 + 2 ^ 28) }, q.1)

/-- The next items of the image, at most some, and where the image goes on; none when it is whole (R469). -/
def State.imageFill (s : State) (e : EpId) : Nat → Nat → Nat → List CwSlot × Option Nat
  | 0, _, pos => ([], some pos)
  | f + 1, room, pos =>
    if room = 0 then ([], some pos)
    else if pos < imageFixed then
      match s.imageItem e pos with
      | some k => let r := s.imageFill e f (room - 1) (pos + 1); (k :: r.1, r.2)
      | none => s.imageFill e f room (pos + 1)
    else match s.boardItem e (pos - imageFixed) with
      | some (k, n) => let r := s.imageFill e f (room - 1) (imageFixed + n + 1); (k :: r.1, r.2)
      | none => ([], none)

/-- The record of a tick: up to six of the waiting changes, and items of the image in the slots left free; the packets whose allotments it carries
leave after it (R467, R469). -/
def State.causewayRecord (s : State) (e : EpId) : State :=
  let x := s.ep e
  let l := x.cwQueue.take 6
  let rest := x.cwQueue.drop 6
  let (fill, pos) := match x.cwPos with
    | some p => s.imageFill e 16 (6 - l.length) p
    | none => ([], none)
  let go (y : Leaving) : Bool := y.ahead ≤ 6
  let s := s.modEp e fun x => { x with
    cwQueue := rest, cwPos := pos, cwTx := (x.cwTx + 1) % 65536
    cwDone := if x.cwPos.isSome && pos.isNone then x.cwTx else x.cwDone
    cwEnded := x.cwEnded.filter fun o => rest.any fun k => o.attempts.any fun a => clearsEntry k o.ackBy a.seq
    leaving := (x.leaving.dropWhile go).map fun y => { y with ahead := y.ahead - 6 } }
  (x.leaving.takeWhile go).foldl (fun s y => s.putOut2 e y.rcv y.op y.h y.p) (s.emit (.causeway e (cwRecordOf x.cwTx (l ++ fill))))

/-- Every endpoint's active controller sends the record of the tick (R467). -/
def State.causewayTick (s : State) : State :=
  forEach s.eps (fun q s => if q.2.isolated then s else s.causewayRecord ⟨q.1 % 32, by omega⟩) s

/-- A record at the standby: checked, counted and applied. The copy is valid once the record that completes its image has come, and each one since
with a right Check and the next count (R467 to R469, R471; log 41). -/
def execCausewayRecord (e : EpId) (w : BitVec 512) (s : State) : Res :=
  let x := s.ep e
  .next (if !s.on || x.isolated || x.ctlDead ≠ 0 then s
    else if !cwCheckOk w || x.cwRx.any (fun c => cwCountOf w ≠ (c + 1) % 65536) then s.cwFault e
    else
      let whole := x.cwPos.isNone && (cwCountOf w + 65536 - x.cwDone) % 65536 < 32768
      s.modEp e fun x => { x with
        cwRx := some (cwCountOf w), cwImage := ((List.range 6).map (cwSlotOf w)).foldl CwCopy.one x.cwImage, standbyOk := x.standbyOk || whole })

def execCausewayRecordMissing (e : EpId) (s : State) : Res :=
  .next (if s.on && !(s.ep e).isolated && (s.ep e).ctlDead = 0 then s.cwFault e else s)

/-- One value of the standby's copy becomes its endpoint's state (R468, R470). -/
def State.applyItem (s : State) (e : EpId) (q : Nat × BitVec 64) : State :=
  let j : EpId := ⟨q.1 % 256 / 4 % 32, by omega⟩
  let vc : BitVec 2 := BitVec.ofNat 2 (q.1 % 4)
  let v := q.2.toNat
  match q.1 / 256 with
  | 1 => s.modLink e j fun l => { l with seq := v % 2 ^ 24 }
  | 2 => s.modEp e fun x => { x with mseq := v % 2 ^ 24 }
  | 3 => s.modLink e j fun l => if vc = 1 then { l with win1 := v % 2 ^ 32 } else { l with win2 := v % 2 ^ 32 }
  | 4 => s.modEp e fun x => { x with acks := kmod {} x.acks j.val fun k =>
      if vc = 1 then { k with freed1 := v % 2 ^ 32 } else { k with freed2 := v % 2 ^ 32 } }
  | 5 => s.modEp e fun x =>
      if vc = 0 then { x with routeEpoch := q.2.getLsbD 0 }
      else { x with accEpoch := kput false x.accEpoch (epochKey j vc) (q.2.getLsbD 1)
                    discarding := kput false x.discarding (epochKey j vc) (q.2.getLsbD 2) }
  | 6 => if q.2.getLsbD 43 then s else s.modLink e j fun l => { l with mask := q.2.setWidth 32, width := q.2.extractLsb' 32 3 }
  | 8 => s.modEp e fun x =>
      if vc = 1 then { x with bankB := kput 0 x.bankB j.val q.2 } else { x with bankA := kput 0 x.bankA j.val q.2 }
  | 9 => s.modEp e fun x => { x with opCtr := v % 2 ^ 43 }
  | 0xA => s.modEp e fun x =>
      let g : GroupNo := ⟨v % 4, by omega⟩
      let w : Switch := { group := g, path := q.2.getLsbD 2, t := v / 8, gen := kget 0 x.genSeen g.val }
      if w.t + 800 ≤ s.copyNow e then x else { x with pends := x.pends.filter (·.group ≠ g) ++ [w] }
  | _ => s

/-- The standby takes over with what its copy holds: a change that still waited for a record is lost, a scoreboard entry whose clear waited is open
again until its attempt times out, and packets started, or received and not delivered, are lost (R469, R470). -/
def State.takeOver (s : State) (e : EpId) : State :=
  let x := s.ep e
  let s := x.cwImage.vals.foldl (fun s q => s.applyItem e q) (s.modEp e fun x => { x with pends := [] })
  let back := x.cwEnded.filter fun o => (s.op? o.serial).isNone
  let opened : List RemOp := back.map fun o => { o with issuer := .gone }
  let s := { s with ops := s.ops ++ opened, tails := s.tails.filter fun o => !(back.any fun b => b.serial = o.serial) }
  s.modEp e fun x => { x with
    ctlDead := putBit x.ctlDead (b2n x.ctlB) true, ctlB := !x.ctlB, standbyOk := false, cwImage := {}, cwPos := none, cwRx := none
    cwQueue := [], cwEnded := [], leaving := [], held := [], stalled := [] }

end Sys2Proof.Machine
end

