-- ==== Sys2Proof/Machine/Links.lean ====
section
/-!
DEFINITION. Lanes and pair links: masks (R407, R408), lane failures and returns (R411 to R415, R650), rings and lasers (R384,
R389, R393 to R396), training (R417 to R421), and the switchover of a group at the links (R480).
-/

namespace Sys2Proof.Machine

/-! ### Masks (R407, R408) -/

/-- The lanes of several groups. -/
def groupsMask (m : BitVec 4) : BitVec 32 := (bitList m).foldl (fun u g => u ||| groupMask g) 0

/-- The widest form of usable lanes only, lowest-numbered first, with its width code (R400, R407, R408). -/
def widest (u : BitVec 32) : BitVec 32 × BitVec 3 :=
  let full := (List.range 4).filter fun g => u &&& groupMask g = groupMask g
  if !full.isEmpty then
    (full.foldl (fun m g => m ||| groupMask g) 0, if full.length = 4 then 0 else if full.length = 3 then 1 else if full.length = 2 then 2 else 3)
  else match (List.range 8).find? fun h => u &&& BitVec.ofNat 32 (0xF * 2 ^ (4 * h)) = BitVec.ofNat 32 (0xF * 2 ^ (4 * h)) with
    | some h => (BitVec.ofNat 32 (0xF * 2 ^ (4 * h)), 4)
    | none => match (List.range 32).find? fun p => hasBit u p with
      | some p => (BitVec.ofNat 32 (2 ^ p), 5)
      | none => (0, 7)

/-- A lane that its receiver may use: not failed on the path in use, not held out, tested since the last reset, and its group's driver set (R411,
R415, R420, R462). -/
def State.laneOk (s : State) (l : LaneId) : Bool :=
  let k := s.lane l
  (k.failOn (s.pathOf l)).isNone && !k.held && !k.untested && !hasBit (s.ep l.rcv).waits (groupOf l.plane).val

/-- A lane in service: tested by a start-up that has ended its step 10, at a receiver not isolated, and usable there (R409, R411). -/
def State.laneInService (s : State) (l : LaneId) : Bool := s.on && hasBit s.bt.ended 10 && !(s.ep l.rcv).isolated && s.laneOk l

/-- The receiver's usable lanes of the link from i to j, and those that the sender offers: its ring is locked and its group's driver set (R418,
R462). -/
def State.usableRx (s : State) (i j : EpId) : BitVec 32 :=
  (List.finRange 32).foldl (fun m p => if s.laneOk { snd := i, rcv := j, plane := p } then putBit m p.val true else m) 0
def State.usableTx (s : State) (i j : EpId) : BitVec 32 :=
  (List.finRange 32).foldl (fun m p =>
    if (s.lane { snd := i, rcv := j, plane := p }).modBad || hasBit (s.ep i).waits (groupOf p).val then m else putBit m p.val true) 0

/-- A marker on each of some lanes of the link from i to j, with a mask and width code and the link's marker count (R400). -/
def State.showMarkers (s : State) (i j : EpId) (lanes mask : BitVec 32) (width : BitVec 3) : State :=
  forEach (lanesIn lanes) (fun p s =>
    s.emit (.marker i j p (markerWord i j p (s.ep i).epoch mask width (hasBit (s.ep i).drivers (groupOf p).val) (s.link i j).markers))) s

/-- A marker block of the link from i to j: the count adds one, and the next block is due a marker interval later (R400, R402). -/
def State.sendMarkers (s : State) (i j : EpId) (mask : BitVec 32) (width : BitVec 3) : State :=
  if mask = 0 then s
  else (s.modLink i j fun k => { k with markers := (k.markers + 1) % 65536, nextMark := 16 * s.now + markerInterval mask }).showMarkers i j mask mask width

/-- After every 255 codewords of a trained link its sender sends a marker block (R400). -/
def State.dueMarkers (s : State) : State :=
  forEach s.links (fun k s =>
    let i : EpId := ⟨k.1 / 32 % 32, by omega⟩
    let j : EpId := ⟨k.1 % 32, by omega⟩
    if k.2.trained && !(s.ep i).isolated && k.2.nextMark ≤ 16 * s.now then s.sendMarkers i j k.2.mask k.2.width else s) s

/-- The sender puts a mask in force, announces it by a marker, and its routes follow (R412, R418, R444). -/
def State.putMask (s : State) (i j : EpId) (mask : BitVec 32) (width : BitVec 3) : State :=
  let s := s.modLink i j fun k => { k with mask, width, trained := k.trained && mask ≠ 0 }
  let s := s.cwPut i { kind := 6, ep := j, vc := 0, value := maskValue (s.link i j) (s.ep i).epoch false }
  (s.sendMarkers i j mask width).reroute i

/-- What a lane carries: markers and codewords of the mask, markers alone while its link is quiet, training markers, a return test's patterns, or
nothing (R401, R405, R414, R420). -/
inductive LaneUse where
  | dark | idle | data | quiet | training | test
  deriving DecidableEq, Repr

def State.laneUse (s : State) (l : LaneId) : LaneUse :=
  let k := s.link l.snd l.rcv
  if !hasBit s.bt.laserLit (tileOfEp l.snd).val then .dark
  else if l.snd = l.rcv || (s.ep l.snd).isolated then .idle
  else if k.trained && hasBit k.mask l.plane.val then (if k.quiet then .quiet else .data)
  else if (s.lane l).testing then .test
  else if !k.trained && hasBit (s.usableTx l.snd l.rcv) l.plane.val then .training
  else .idle

/-- The lowest plane of a mask. -/
def lowest (m : BitVec 32) : PlaneNo := ((List.finRange 32).find? fun p => hasBit m p.val).getD 0

/-- The receiver j decides the mask of the link from i and sends LINK_MASK. A second decision of one tick has the next tick, for the sender applies
later ones alone; the path is that of the mask's lowest plane (R416, R418, R419; log 59). -/
def State.decide (s : State) (i j : EpId) : State :=
  let k := s.link i j
  if !k.seen || i = j then s
  else
    let rx := s.usableRx i j
    let w := widest (rx &&& k.usableSnd &&& ~~~groupsMask k.excluded)
    let tick := match k.decSent with
      | some t => max (s.copyNow j) (t + 1)
      | none => s.copyNow j
    (s.modLink i j fun k => { k with decSent := some tick }).sendCtl j i .linkMask (.linkMask true
      { snd := i, rcv := j, sndEpoch := k.sndEpoch, rcvEpoch := (s.ep j).epoch, width := w.2
        path := hasBit (s.ep j).drivers (groupOf (lowest w.1)).val, mask := w.1, rcvUsable := rx, tick })

/-- The sender i announces its usable transmit lanes toward j, with the epoch of j that j's own markers have shown it (R418, R419; log 59). -/
def State.announceTx (s : State) (i j : EpId) : State :=
  let u := s.usableTx i j
  s.sendCtl i j .linkMask (.linkMask false
    { snd := i, rcv := j, sndEpoch := (s.ep i).epoch, rcvEpoch := (s.link j i).sndEpoch, width := (widest u).2
      path := hasBit (s.ep i).drivers (groupOf (lowest u)).val, mask := u, rcvUsable := 0, tick := s.copyNow i })

/-! ### Lane failures (R411, R415, R650) -/

/-- Failures of the last hour with a new one. -/
def withinHour (l : List Nat) (now : Nat) : List Nat := (l.filter fun t => now < t + 3600000000000) ++ [now]

/-- Count a failure of a lane; a second one within an hour holds the lane out until the next start (R415). -/
def State.countFail (s : State) (l : LaneId) : State :=
  let f := withinHour (s.lane l).fails s.now
  let twice := 2 ≤ f.length && !(s.lane l).held
  let s := s.modLane l fun k => { k with fails := f, held := k.held || twice, lastTest := s.now }
  if twice then s.ev 0x7005 err 0x08 l.rcv.val none (BitVec.ofNat 96 (laneKey l)) else s

/-- A lane in service fails with a cause (the row of R411): on the path in use, or on both for a ring (R650); the fault is reported and
the receiver decides a new mask (R412, R475). A loopback lane belongs to no link; one that fails for a ring fails the probe of its standby path
too (R379, R650). -/
def State.laneFail (s : State) (l : LaneId) (cause : BitVec 8) : State :=
  let path := s.pathOf l
  let ring := cause = 4 || cause = 5
  if !s.laneInService l then s
  else
    let now := s.copyNow l.rcv
    let s := s.modLane l fun k =>
      { k with ring := if ring then some cause else k.ring, failA := if ring || path then k.failA else some cause
               failB := if !ring && path then some cause else k.failB, tests := 0 }
    let s := s.countFail l
    if l.snd = l.rcv then (if ring then s.probeFails l.rcv l.plane else s)
    else
      let s := s.reportFault l.rcv { snd := l.snd, rcv := l.rcv, group := groupOf l.plane, path, cause, lanes := putBit 0 l.plane.val true, tick := now }
      s.decide l.snd l.rcv

/-- A margin reading of a lane in service, from its received power in 0.01 dBm: a warning below 1.0 dB, once per lane and start, and a failure
below 0.5 dB (R388, R389, R391). -/
def execMarginReading (l : LaneId) (cdBm : Int) (s : State) : Res :=
  let m := marginOf cdBm
  .next (if !s.on then s
    else
      let ok := s.laneInService l
      let s := s.modLane l fun k => { k with margin := m }
      if !ok then s
      else
        let s := if m < 100 && !(s.lane l).warned then
            (s.modLane l fun k => { k with warned := true }).ev 0x7003 warn 0x08 l.rcv.val none (BitVec.ofNat 96 (laneKey l))
          else s
        if m < 50 then s.laneFail l 3 else s)

/-- Whether a receiver's group is between its switch and the check of its new path (R480). -/
def State.switching (s : State) (j : EpId) (g : GroupNo) : Bool :=
  (s.ep j).pends.any fun w => w.group = g && w.t ≤ s.copyNow j && s.copyNow j < w.t + 600

/-- The light received on a lane, in 0.01 dBm: below −24 dBm the lane fails, or while its group switches begins its valid markers anew (R411,
R480). -/
def execLightLoss (x : LaneLight) (s : State) : Res :=
  .next (if -2400 ≤ x.cdBm then s
    else if s.switching x.lane.rcv (groupOf x.lane.plane) then s.modLane x.lane fun k => { k with run := 0 }
    else s.laneFail x.lane 0)

/-- Symbols received on a lane in 10 µs and those corrected, and the symbols in error of each codeword of its link that it counts then: the lost
ones are counted for the link (R403, R411). -/
def execSymbolErrorCheck (l : LaneId) (symbols corrected : Nat) (codewords : List Nat) (s : State) : Res :=
  let lost := (codewords.filter codewordLost).length
  .next (if !s.on then s
    else
      let s := s.modLane l fun k => { k with corrected := min (k.corrected + corrected) (2 ^ 64 - 1) }
      let s := if lost = 0 then s else s.modEp l.rcv fun e => { e with lostCw := kmod 0 e.lostCw l.snd.val (satInc · lost) }
      if symbols < 1000 * corrected then s.laneFail l 2 else s)

/-! ### Rings and lasers -/

/-- A ring is parked: its heater goes midway between the two dips nearest its line (R394). -/
def Lane.park (k : Lane) (modulator : Bool) : Lane :=
  { k with parked := putBit k.parked (b2n modulator) true, heat := if modulator then (k.heat.1, k.mid.2) else (k.mid.1, k.heat.2)
           modBad := k.modBad || modulator }

/-- A ring of a lane is out: a drop ring fails the lane at its receiver, a modulator ring is announced by its sender, and both rings of a loopback
lane are its own endpoint's (R379, R395, R411, R418). -/
def State.ringOut (s : State) (l : LaneId) (modulator : Bool) (park : Bool) : State :=
  let mark (k : Lane) : Lane :=
    let k := if park then k.park modulator else k
    { k with relocking := putBit k.relocking (b2n modulator) true, modBad := k.modBad || modulator }
  if l.snd = l.rcv then (s.laneFail l (if modulator then 5 else 4)).modLane l mark
  else if modulator then
    let s := s.modLane l mark
    if (s.ep l.snd).isolated then s else s.announceTx l.snd l.rcv
  else (s.laneFail l 4).modLane l mark

/-- A ring has lost lock when its error lies beyond ±2 GHz throughout 10 µs, or grows with the heater at an end of its range (R392, R395). -/
def execRingLossOfLock (l : LaneId) (r : RingTrack) (s : State) : Res :=
  .next (if s.on && (2000 < r.errMHz || ((r.uw = 0 || 2000 ≤ r.uw) && r.growing)) then s.ringOut l r.modulator false else s)

/-- The pilot of a locked ring, in kHz; that of another line fails the lane and parks the ring, which relocks (R385, R396). -/
def execPilotCheck (l : LaneId) (modulator : Bool) (khz : Nat) (s : State) : Res :=
  .next (if !s.on || khz = pilotKhz (lineOf l.snd l.rcv) then s
    else (s.ringOut l modulator true).ev 0x7004 warn 0x08 (if modulator then l.snd else l.rcv).val none (BitVec.ofNat 96 (laneKey l)))

/-- The heater baseline of a lane's ring in µW (section 0x0005 of R179). -/
def State.baseline (s : State) (l : LaneId) (modulator : Bool) : Int :=
  match (s.bt.applied.map (·.calib)).bind fun c => c.find? fun e => e.ep = (if modulator then l.snd else l.rcv) with
  | some e => kget 0 e.rings (2 * laneKey l + b2n modulator)
  | none => 0

/-- The last lock point of a ring, and a new one. -/
def Lane.lockOf (k : Lane) (modulator : Bool) : Nat := if modulator then k.lockAt.2 else k.lockAt.1
def Lane.locks (k : Lane) (modulator : Bool) (uw : Nat) : Lane :=
  let bit := b2n modulator
  { k with relocking := putBit k.relocking bit false, parked := putBit k.parked bit false
           lockAt := if modulator then (k.lockAt.1, uw) else (uw, k.lockAt.2), modBad := k.modBad && !modulator
           heat := if modulator then (k.heat.1, uw) else (uw, k.heat.2) }

/-- The dips of a ring's sweep give the setting at which it would be parked (R394). -/
def Lane.swept (k : Lane) (modulator : Bool) (mid : Option Nat) : Lane :=
  match mid with
  | some m => { k with mid := if modulator then (k.mid.1, m) else (m, k.mid.2) }
  | none => k

/-- A ring's acquisition ends: from the dips of a sweep of ±0.83 mW about its last lock point, with lock, or with the ring parked and failed (R393,
R394, R397). -/
def execRingAcquisitionDone (l : LaneId) (modulator : Bool) (dips : List Dip) (s : State) : Res :=
  let bit := b2n modulator
  let k := s.lane l
  .next (if !s.on || !hasBit k.relocking bit then s
    else
      let base := s.baseline l modulator
      let window : Option (Int × Nat) := some (k.lockOf modulator, 830)
      let s := s.modLane l fun k => k.swept modulator (midway base window dips)
      let s := match acquire base (lineOf l.snd l.rcv) window dips with
        | some d => s.modLane l fun k => k.locks modulator d.uw
        | none =>
          let park (k : Lane) : Lane := { k.park modulator with relocking := putBit k.relocking bit false }
          if modulator && l.snd ≠ l.rcv then s.modLane l park else (s.laneFail l (if modulator then 5 else 4)).modLane l park
      if modulator && l.snd ≠ l.rcv && !(s.ep l.snd).isolated then s.announceTx l.snd l.rcv else s)

/-- A laser's weakest line is read: a warning below +12.0 dBm with the bias loop at its maximum, and an error below +10.0 dBm, each once (R384). -/
def execLaserPowerLow (e : EpId) (r : LaserReading) (s : State) : Res :=
  .next (if !s.on then s
    else
      let s := if r.maxBias && r.cdBm < 1200 && !(s.ep e).laserWarned then
          (s.modEp e fun x => { x with laserWarned := true }).ev 0x7001 warn 0x07 e.val else s
      if r.cdBm < 1000 && !(s.ep e).laserEol then (s.modEp e fun x => { x with laserEol := true }).ev 0x7002 err 0x07 e.val else s)

/-! ### Return tests (R414, R415, R420) -/

/-- A failed lane's test begins 1 s after it failed, or after its last test; a parked ring is relocked first (R414). -/
def execLaneReturnTest (l : LaneId) (s : State) : Res :=
  let k := s.lane l
  .next (if s.on && (k.failOn (s.pathOf l)).isSome && !k.held && !k.testing && k.tests < 10 && k.lastTest + 1000000000 ≤ s.now then
      s.modLane l fun k => { k with testing := true, relocking := k.relocking ||| k.parked }
    else s)

/-- Whether a lane of the link from i to j that its sender offers is still under test. -/
def State.anyTesting (s : State) (i j : EpId) : Bool :=
  (List.finRange 32).any fun p => hasBit (s.link i j).usableSnd p.val && (s.lane { snd := i, rcv := j, plane := p }).testing

/-- A lane's test ends, with what it found; both its rings must be locked. A lane that passes is usable again on the path of the test, and for its
rings on the other too; one that fails in training has failed, and ten failed return tests hold it out. The receiver decides a link that carries
traffic at once, and one in training when no lane is under test any more (R414, R415, R420, R650). -/
def execLaneReturnTestDone (l : LaneId) (r : LaneTest) (s : State) : Res :=
  let k := s.lane l
  let pass := r.passes l 320 && k.relocking = 0 && k.parked = 0
  let path := s.pathOf l
  .next (if !s.on || !k.testing then s
    else
      let old := k.failOn path
      let s :=
        if pass then
          (s.modLane l fun k => { k with
            testing := false, untested := false, tests := 0, ring := none
            failA := if path then k.failA else none
            failB := if path then none else k.failB }).stewReturn l path
        else if old.isNone then
          (s.modLane l fun k => { k with
            testing := false, untested := false, tests := 0
            failA := if path then k.failA else some 1
            failB := if path then some 1 else k.failB }).countFail l
        else
          let n := k.tests + 1
          let s := s.modLane l fun k => { k with testing := false, tests := n, lastTest := s.now, held := k.held || n = 10 }
          if n = 10 && !k.held then s.ev 0x7005 err 0x08 l.rcv.val none (BitVec.ofNat 96 (laneKey l)) else s
      if l.snd = l.rcv || (!(s.link l.snd l.rcv).trained && s.anyTesting l.snd l.rcv) then s else s.decide l.snd l.rcv)

/-! ### Markers and LINK_MASK (R400, R416, R418, R420) -/

/-- The receiver of a link meets a sender's epoch: a new one returns training to step 2 and has the link's codewords discarded until step 5. Its
accepted route epoch of that origin returns to 0, and packets held under another are judged again (R420, R444, R447). -/
def State.newEpoch (s : State) (i j : EpId) (epoch : BitVec 8) : State :=
  let k := s.link i j
  if k.seen && k.sndEpoch = epoch then s
  else
    let s := s.modLink i j fun k => { k with sndEpoch := epoch, seen := true, stale := k.stale || k.seen, trained := false }
    let s := s.modEp j fun e => { e with
      accEpoch := kdel (kdel e.accEpoch (epochKey i 1)) (epochKey i 2)
      discarding := kdel (kdel e.discarding (epochKey i 1)) (epochKey i 2) }
    (s.releaseHeld j i 1).releaseHeld j i 2

/-- Whether a lane needs the test of R414 in training: it has not passed it since the last reset of an end, or since its own last failure (R420). -/
def State.needsTest (s : State) (l : LaneId) : Bool :=
  let x := s.lane l
  (x.untested || (x.failOn (s.pathOf l)).isSome) && !x.held && !x.testing && !hasBit (s.ep l.rcv).waits (groupOf l.plane).val

/-- A lane's marker of a marker block arrives, or is missing: a missing or wrong one fails its lane, and a marker of another epoch than the one
decided for returns the link to training; a training marker tells the sender's usable lanes, starts the tests that lanes need, and where none is
needed brings the decision, once a tick; a marker with the agreed mask and epoch opens the link to data. On a group in switchover valid ones are
counted up to the 32 in a row that it needs (R400, R411, R420, R480). -/
def execLaneMarker (m : LaneMark) (s : State) : Res :=
  let j := m.rcv
  let p := m.plane
  let line := m.line
  let i := senderOn j line
  let l : LaneId := { snd := i, rcv := j, plane := p }
  let k := s.link i j
  let bad (s : State) : State :=
    if s.switching j (groupOf p) then s.modLane l fun k => if k.run = 32 then k else { k with run := 0 }
    else if hasBit k.mask p.val || i = j || (!k.trained && k.seen && hasBit k.usableSnd p.val) then s.laneFail l 1 else s
  .next (if !s.on || (s.ep j).isolated then s
    else match m.word with
    | none => bad s
    | some w =>
      if !markerGood j p line w then bad s
      else if i = j then s
      else
        let s := if s.switching j (groupOf p) && mkPath w = hasBit (s.ep j).drivers (groupOf p).val then
            s.modLane l fun k => { k with run := min 32 (k.run + 1) } else s
        if mkWidth w = 6 then
          if k.trained && k.seen && k.sndEpoch = mkEpoch w then s
          else
            let same := k.seen && k.sndEpoch = mkEpoch w && k.usableSnd = mkMask w && k.decSent.any (s.copyNow j ≤ ·)
            let s := (s.newEpoch i j (mkEpoch w)).modLink i j fun k => { k with usableSnd := mkMask w }
            let need := (lanesIn (mkMask w)).filter fun p => s.needsTest { snd := i, rcv := j, plane := p }
            let s := forEach need (fun p s => s.modLane { snd := i, rcv := j, plane := p } fun x =>
              { x with testing := true, relocking := x.relocking ||| x.parked }) s
            if same || s.anyTesting i j then s else s.decide i j
        else if !k.seen || k.sndEpoch ≠ mkEpoch w then (bad s).modLink i j fun k => { k with trained := false, stale := true }
        else if mkMask w = k.mask && k.mask ≠ 0 && !k.trained then
          let s := s.cwPut j { kind := 6, ep := i, vc := 0, value := maskValue k (mkEpoch w) true }
          (s.modLink i j fun k => { k with trained := true, stale := false }).reroute i
        else s)

/-- A group in switchover: from 10 to 600 ticks after the switch each sender shows the group's lanes with training markers, one block after
another, and at 600 a lane that has not shown 32 valid ones in a row fails; its receiver reports it, and a decision leaves it out as it leaves out
those that had failed on the new path before (R480). -/
def State.switchTick (s : State) : State :=
  forEach s.eps (fun q s =>
    let e : EpId := ⟨q.1 % 32, by omega⟩
    forEach q.2.pends (fun w s =>
      let now := s.copyNow e
      let gm := groupMask w.group.val
      let lanes (i : EpId) : List LaneId := (lanesIn gm).map fun p => { snd := i, rcv := e, plane := p }
      if w.t + 10 ≤ now && now < w.t + 600 && (now - w.t - 10) % 6 = 0 then
        forEach (others e) (fun j s => s.showMarkers e j (gm &&& s.usableTx e j) (s.usableTx e j) 6) s
      else if w.t + 600 ≤ now && now < w.t + 800 then forEach (others e) (fun i s =>
        let old := (lanes i).any fun l => !s.laneOk l
        let s := forEach (lanes i) (fun l s => if hasBit (s.usableTx i e) l.plane.val && (s.lane l).run < 32 then s.laneFail l 1 else s) s
        if old && now = w.t + 600 then s.decide i e else s) s
      else s) s) s

/-- A decision reaches the sender, which adopts it when its own epoch is echoed and it is later than the one in force (R416, R418). -/
def execLinkMaskDecision (a : Arr) (m : LinkMask) (s : State) : Res :=
  .next (s.arriveCtl a .linkMask (.linkMask true m) fun s =>
    let i := a.rx
    let j := a.h.origin
    let k := s.link i j
    if m.snd ≠ i || m.rcv ≠ j || m.sndEpoch ≠ (s.ep i).epoch || (m.tick ≤ k.decTick && k.decTick ≠ 0) then s
    else
      let agreed := m.rcvUsable &&& s.usableTx i j
      let s := s.modLink i j fun k => { k with agreed, decTick := m.tick }
      let w := if k.excluded = 0 then (m.mask, m.width) else widest (agreed &&& ~~~groupsMask k.excluded)
      if w.1 = k.mask && k.trained then s else s.putMask i j w.1 w.2)

/-- An announcement reaches the receiver: lanes in use that the sender no longer offers fail, and it decides anew (R411, R418). -/
def execLinkMaskAnnouncement (a : Arr) (m : LinkMask) (s : State) : Res :=
  .next (s.arriveCtl a .linkMask (.linkMask false m) fun s =>
    let i := a.h.origin
    let j := a.rx
    if m.snd ≠ i || m.rcv ≠ j then s
    else
      let gone := (List.finRange 32).filter fun p => hasBit (s.link i j).usableSnd p.val && !hasBit m.mask p.val
      let s := (s.newEpoch i j m.sndEpoch).modLink i j fun k => { k with usableSnd := m.mask }
      let s := forEach gone (fun p s => s.laneFail { snd := i, rcv := j, plane := p } 5) s
      if !(s.link i j).trained && s.anyTesting i j then s else s.decide i j)

/-- A training sender without a current decision repeats its training markers every 10 µs (R420). -/
def execTrainingRepeat (i j : EpId) (s : State) : Res :=
  let k := s.link i j
  .next (if s.on && i ≠ j && !(s.ep i).isolated && !k.trained && k.repTick + 10000 ≤ s.now then
      let u := s.usableTx i j
      (s.modLink i j fun k => { k with repTick := s.now }).sendMarkers i j u 6
    else s)

/-- A link that has carried no packet for 10 µs goes quiet (R405). -/
def execLinkQuiet (i j : EpId) (s : State) : Res :=
  .next (if (s.link i j).trained && (s.link i j).lastPkt + 10000 ≤ s.now then s.modLink i j fun k => { k with quiet := true } else s)

/-! ### A switchover at the links (R480) -/

/-- At T − 200 a sender leaves the group out of every link's mask. -/
def execSwitchExclude (e : EpId) (s : State) : Res :=
  .next (forEach ((s.ep e).pends.filter fun w => w.t ≤ s.copyNow e + 200) (fun w s =>
    forEach (others e) (fun j s =>
      let k := s.link e j
      let ex := putBit k.excluded w.group.val true
      let s := s.modLink e j fun k => { k with excluded := ex }
      if k.mask &&& groupMask w.group.val = 0 then s
      else
        let n := widest (k.agreed &&& ~~~groupsMask ex)
        s.putMask e j n.1 n.2) s) s)

/-- At T an endpoint's driver switches the group, and its receiver counts the new path's markers from none (R462, R480). -/
def execDriverSwitch (e : EpId) (s : State) : Res :=
  .next (forEach ((s.ep e).pends.filter fun w => w.t ≤ s.copyNow e && hasBit (s.ep e).drivers w.group.val ≠ w.path) (fun w s =>
    let s := forEach (others e) (fun i s => forEach (lanesIn (groupMask w.group.val)) (fun p s =>
      s.modLane { snd := i, rcv := e, plane := p } fun k => { k with run := 0 }) s) s
    { s.setDriver e w.group w.path with groups := putBit s.groups w.group.val w.path }) s)

/-- At T + 800 a sender restores the widest mask: the group's lanes usable on the new path, less those that decisions left out. -/
def execSwitchRestore (e : EpId) (s : State) : Res :=
  .next (forEach ((s.ep e).pends.filter fun w => w.t + 800 ≤ s.copyNow e && hasBit (s.ep e).drivers w.group.val = w.path) (fun w s =>
    let s := s.modEp e fun x => { x with pends := x.pends.filter (· ≠ w) }
    forEach (others e) (fun j s =>
      let k := s.link e j
      let gm := groupMask w.group.val
      let agreed := (k.agreed &&& ~~~gm) ||| (gm &&& s.usableRx e j &&& s.usableTx e j)
      let ex := putBit k.excluded w.group.val false
      let s := s.modLink e j fun k => { k with agreed, excluded := ex }
      let n := widest (agreed &&& ~~~groupsMask ex)
      if n.1 = k.mask then s else s.putMask e j n.1 n.2) s) s)

end Sys2Proof.Machine
end

