-- ==== Sys2Proof/Machine/Resets.lean ====
section
/-!
DEFINITION. Reset domains and the loss of a die (R188 to R198, R235, R396, R397, R417, R421, R462, R500, R510, R511, R537), and a
controller's takeover (R470, R471).
-/

namespace Sys2Proof.Machine

/-! ### Endpoints (R188, R417, R421, R462) -/

/-- The lanes of an endpoint as sender or receiver. -/
def LaneId.touches (l : LaneId) (e : EpId) : Bool := l.snd = e || l.rcv = e

/-- A reset of either end: a lane that is not held out is measured afresh on the path in use; its history stays (R415, R420 to R422). -/
def Lane.renew (k : Lane) (path : Bool) : Lane :=
  { k with ring := if k.held then k.ring else none, failA := if path || k.held then k.failA else none
           failB := if path && !k.held then none else k.failB, tests := 0, testing := false, untested := true }

/-- Every lane of an endpoint is to be tested again; at a tile reset the endpoint's rings, a lane's modulator at its sender and its drop ring at its
receiver, relock from the last setting of their heaters (R397, R420). -/
def State.renewLanes (s : State) (e : EpId) (rings : Bool) : State :=
  let one (s : State) (l : LaneId) : State := s.modLane l fun k =>
    let k := k.renew (hasBit s.groups (groupOf l.plane).val)
    if rings then { k with relocking := k.relocking ||| BitVec.ofNat 2 (b2n (l.rcv = e) + 2 * b2n (l.snd = e)) } else k
  (List.finRange 32).foldl (fun s p =>
    allEps.foldl (fun s j => one (if j = e then s else one s { snd := j, rcv := e, plane := p }) { snd := e, rcv := j, plane := p }) s) s

/-- What an endpoint keeps through its reset: the link epoch, one higher, what is not its own logic, which controller is active, and the failed
probes, which pass again only by clean readings. It waits for its groups' paths, and its standby for an image (R417, R462, R465, R469, R482). -/
def EpState.cleared (x : EpState) : EpState :=
  { inService := x.inService, isolated := x.isolated, epoch := x.epoch + 1, laserWarned := x.laserWarned, laserEol := x.laserEol
    probeRef := x.probeRef, lostCw := x.lostCw, discards := x.discards, waits := 0xF, ctlB := x.ctlB, cwPos := some 0
    probeFail := x.probeFail, probeNew := x.probeNew }

/-- What another endpoint holds of one that was reset or lost goes with the views of their links, its accepted epochs among it (R421, R444). -/
def EpState.forgetPeer (x : EpState) (e : EpId) : EpState :=
  { x with accEpoch := kdel (kdel x.accEpoch (epochKey e 1)) (epochKey e 2)
           discarding := kdel (kdel x.discarding (epochKey e 1)) (epochKey e 2)
           acks := kdel x.acks e.val, sentCredits := kdel x.sentCredits e.val, credOwed := kdel x.credOwed e.val
           transit := kdel x.transit e.val, transitRet := kdel x.transitRet e.val }

/-- Operations of an endpoint end with "endpoint reset"; those of cores are discarded with the cores (R195, R241). -/
def State.endOpsOf (s : State) (e : EpId) : State :=
  let s := s.dropOps fun o => o.snd = e && match o.issuer with
    | .convoy _ => true
    | .copy _ _ => true
    | _ => false
  (s.ops.filter fun o => o.snd = e).foldl (fun s o => s.finishOp o stReset []) s

/-- Packets that an endpoint held for another's route epochs are judged again, once its accepted epochs of it are back at 0 (R444, R447). -/
def State.releaseOf (s : State) (j e : EpId) : State :=
  if (s.ep j).held.isEmpty then s else (s.releaseHeld j e 1).releaseHeld j e 2

/-- A reset that clears an endpoint's state, with or without its tile's lock loops. A steward goes with its hub and keeps its generations, and refuses
the sideband commands that waited for it (R188, R397, R476, R651). -/
def State.resetEp (s : State) (e : EpId) (rings : Bool) : State :=
  let s := s.endOpsOf e
  let s := { s with
    eps := kmapIf {} s.eps (fun k => k ≠ e.val) (·.forgetPeer e)
    links := s.links.filter fun k => k.1 / 32 ≠ e.val && k.1 % 32 ≠ e.val
    ringSeg := s.ringSeg.filter fun k => k.1 / 2 / 32 ≠ e.val && k.1 / 2 % 32 ≠ e.val }
  let s := forEach (others e) (fun j s => s.releaseOf j e) ((s.modEp e EpState.cleared).renewLanes e rings)
  match stewOf e with
  | some h => (forEach (List.finRange 4) (fun g s => s.answerAsked h g 3 []) s).modStew h fun st => { gen := st.gen }
  | none => s

/-! ### Stacks (R196, R197, R235) -/

/-- A CD reset: cores, registers, waymark files, copy engines, cluster registers, owners (R188, R197, R234). -/
def State.resetCd (s : State) (x : StackId) : State :=
  let s := s.dropOps fun o => o.ofStack x
  { s with cores := s.cores.filter fun k => k.1 / 1536 ≠ x.val, clusters := s.clusters.filter fun k => k.1 / 96 ≠ x.val }

/-- An ML reset: contents, owner fields, march state, and the data in its buffers (R188, R196, R235). The accesses of convoys that wait at the
layer wait from now (R196). -/
def State.resetMl (s : State) (x : StackId) : State :=
  let held (c : Convoy) : Convoy := { c with stall := c.stall.map fun w => (s.now, w.2) }
  let s := { s with
    cores := kmapIf {} s.cores (fun k => k / 1536 = x.val) fun c => { c with c0 := held c.c0, c1 := held c.c1 }
    regions := kmapIf {} s.regions (fun k => k / 100 = x.val) fun r => { r with rx := { r.rx with entries := [] }, dma := [] }
    ml := memZero s.ml (x.val * 2 ^ 29) (2 ^ 29)
    mlBad := s.mlBad.filter fun w => w / 2 ^ 26 ≠ x.val
    clusters := kmapIf {} s.clusters (fun k => k / 96 = x.val) fun c => { c with owners := kmapIf {} c.owners (fun _ => true) SliceOwner.mlReset } }
  s.modStack x fun k => { k with marching := none, marchBuf := 0 }

/-- A stack reset: CD, ML and the stack endpoint; its sensors are no longer suspect (R122, R188). -/
def State.resetStack (s : State) (x : StackId) (rings : Bool := false) : State :=
  let s := ((s.resetCd x).resetMl x).resetEp (stackEp x) rings
  { s with th := { s.th with suspect := s.th.suspect.filter fun k => k.1 / 100 ≠ x.val } }

/-- Every mapped region of a stack is cleared before its next use (R196, R330). -/
def State.startClear (s : State) (x : StackId) : State :=
  (List.finRange 100).foldl (fun s p =>
    if hasBit (s.stack x).cmap p.val then s.modRegion x p fun r => { r with clearing := true } else s) s

/-! ### Port dies (R198, R373) -/

/-- A port die is reset: its replay table is empty and its operations are gone; without self-refresh its contents and its pages are lost
(R198, R373). -/
def State.resetDie (s : State) (k : Fin 8) (selfRef : Bool) : State :=
  let s := forEach allParts (fun p s => s.failSeals p fun x => !x.hashed) s
  let s := s.modDie k fun d =>
    { d with replay := [], full := [], resetAt := some (s.copyNow (dieEp k)), selfRef := if selfRef then 3 else d.selfRef }
  if selfRef then s
  else
    let gone (key : Nat) : Bool := key / 2 ^ 37 / 2 = k.val
    let s := { s with hbm := s.hbm.filter fun c => !gone c.1, hbmBad := s.hbmBad.filter fun w => !gone (8 * w) }
    s.offerBatch { src := .lost k, flip := false, recs := [] }

/-! ### Binds (R577) -/

/-- Zero the frames of pages (R577, R579). -/
def State.zeroPages (s : State) (first count : Nat) : State :=
  let l := (s.pm.rep (s.servTile 28)).filter fun k => first ≤ k.1 && k.1 < first + count && eValid k.2
  l.foldl (fun s (n, e) => (eFrames n e).foldl (fun s f =>
    { s with hbm := s.hbm.filter fun c => !keyInFrame (eClass e) f c.1
             hbmBad := s.hbmBad.filter fun w => !keyInFrame (eClass e) f (8 * w) }) s) s

/-- The binding step of a partition has offered a batch. -/
def Batch.binds (b : Batch) (p : PartId) : Bool :=
  match b.src with
  | .bound q _ => q = p
  | _ => false

/-- Running binds of a partition are aborted: their target pages are filled with zeros, the key is gone, and a batch of theirs that has not
taken effect never does (R577). -/
def State.abortBinds (s : State) (p : PartId) : State :=
  let run := (s.part p).binds.filter fun x => !x.ended
  if run.isEmpty then s
  else
    let s := forEach run (fun x s => s.zeroPages x.first x.pages) s
    let s := s.modPart p fun b =>
      { b with binds := b.binds.map fun x => if x.ended then x else { x with ended := true, status := 7, key := [] } }
    let us := (s.pm.accepted.filter fun b => b.binds p).map (·.u.getD 0)
    { s with
      pm := { s.pm with waiting := s.pm.waiting.filter fun b => !b.binds p, accepted := s.pm.accepted.filter fun b => !b.binds p }
      eps := if us.isEmpty then s.eps else kmapIf {} s.eps (fun _ => true) fun e => { e with mapRecs := e.mapRecs.filter fun r => !us.contains r.1 } }

/-! ### Gateways (R510, R511, R537) -/

/-- An operation of the fabric that waits for the host ends with "endpoint reset" (R510). -/
def State.endHostRead (s : State) (r : HostRead) : State :=
  if r.op = .load then s.replyLoad r.a.rx r.a stReset (List.replicate 64 0)
  else
    let o : EpId := if r.op = .copyData then ⟨r.a.h.otag.toNat % 32, by omega⟩ else r.a.h.origin
    let seq : BitVec 24 := if r.op = .copyData then BitVec.ofNat 24 (r.a.h.otag.toNat / 32) else r.a.h.seq
    s.pushAck r.a.rx o seq r.a.h.mcast stReset true

/-- Fetched descriptors and unwritten records of a partition are discarded; what its runs still report is too (R537). -/
def State.discardWork (s : State) (p : PartId) : State :=
  s.modPart p fun b =>
    { b with descs := [], compl := [], runs := [], stopping := [], loading := none
             periods := (b.periods.filter fun x => x.stage ≠ .noticed).map fun x => { x with quiet := true }
             kernel := b.kernel }

/-- The work of a partition at a gateway reset: scheduled or free-run work and a loaded bundle stop with cause 0x09, and a period
between its deadline and its confirmation is dropped too (R511, R557). -/
def State.gatewayStop (s : State) (p : PartId) : State :=
  let b := s.part p
  let s := forEach (b.periods.filter fun x => x.stage = .ended && x.decided ≠ 0xF) (fun x s =>
    s.failNo p x.no { status := 0x06, detail := 0x09, core := 0xFFFF, tick := s.copyNow (s.gwOf p) }) s
  if b.work = .loaded || b.work = .scheduled || b.work = .freeRun then s.stopPartition p 0x09 else s

/-- The committed partitions that a port serves. -/
def State.servedBy (s : State) (t : PortId) : List PartId :=
  allParts.filter fun p => (s.part p).block = .committed && (s.part p).servPort = t

/-- A gateway reset: the port's link, configuration space, decoders, keys, doorbell lines, fetch positions and requests in flight. No record of what
it stops is written through it (R510, R511, R537). -/
def State.resetGateway (s : State) (t : PortId) : State :=
  let q := s.port t
  let s := if s.ptmOn t && q.linkUp then s.sourceLost else s
  let s := s.dropOps fun o => match o.issuer with
    | .mem t' _ => t' = t
    | _ => false
  let s := forEach q.pendingReads (fun r s => s.endHostRead r) s
  let s := s.modPort t fun q => { q with linkUp := false }
  let s := forEach (s.servedBy t) (fun p s =>
    let s := ((s.discardWork p).gatewayStop p).abortBinds p
    let s := s.discardWork p
    s.modPart p fun b => { b with
      rings := b.rings.map fun k => (k.1, { k.2 with fetch := 0, tail := 0, warnTick := none })
      crings := b.crings.map fun k => (k.1, { k.2 with write := 0, head := 0 })
      lines := [], heldLines := 0, lostLines := 0, wakeAt := none }) s
  s.modPort t fun _ =>
    { perstHigh := q.perstHigh, refclk := q.refclk, powerStable := q.powerStable, trainPending := q.trainPending, idleNoClk := q.idleNoClk
      clkWarned := q.clkWarned, oos := q.oos, isolated := q.isolated, detached := q.detached, poisonTick := q.poisonTick
      discardTick := q.discardTick, refuseTick := q.refuseTick }

/-! ### Tiles -/

/-- The stacks and endpoints of a tile (R26, R30). -/
def stacksOfTile (t : TileId) : List StackId := allStacks.filter fun x => tileOfStack x = t
def epsOfTile (t : TileId) : List EpId := allEps.filter fun e => tileOfEp e = t

/-- A tile reset: its stacks, its eight endpoints and its replica; tile 0 takes the loader's frame table with it (R188, R348). -/
def State.resetTile (s : State) (t : TileId) : State :=
  let s := forEach (stacksOfTile t) (fun x s => s.resetStack x true) s
  let s := forEach ((epsOfTile t).filter fun e => 16 ≤ e.val) (fun e s => s.resetEp e true) s
  { s with pm :=
      { s.pm.modRep t fun _ => [] with
        repDown := putBit s.pm.repDown t.val true
        copying := putBit s.pm.copying t.val false
        rebuilding := s.pm.rebuilding || t = 0 } }

/-! ### Isolation (R191, R192) -/

/-- The element class and number of a die (R609). -/
def dieClass : DieId → BitVec 8 × Nat
  | .cd x => (0x01, x.val)
  | .ml x => (0x02, x.val)
  | .tile t => (0x03, t.val)
  | .mp k => (0x04, 16 + k.val)
  | .hg t => (0x06, 24 + t.val)
  | .site t => (0x0C, t.val)

/-- The reset domain of a die acts, and every partition that contains it stops with a cause: whole marks a stack reset in place of a CD
reset (R188, R193, R197). -/
def State.loseDie (s : State) (d : DieId) (cause : BitVec 8) (whole : Bool) : State :=
  match d with
  | .cd x =>
    let s := (s.stopStackOwner x cause).modStack x fun k => { k with cdLost := true, mlLost := k.mlLost || whole }
    let s := if whole then { s with bt := { s.bt with wholeReset := putBit s.bt.wholeReset x.val true } } else s
    if whole then s.resetStack x else s.resetCd x
  | .ml x => ((s.stopStackOwner x cause).modStack x fun k => { k with mlLost := true }).resetMl x
  | .tile t =>
    let s := forEach (stacksOfTile t) (fun x s => (s.stopStackOwner x cause).modStack x fun k => { k with cdLost := true, mlLost := true }) s
    let s := s.resetTile t
    forEach (epsOfTile t) (fun e s => s.modEp e fun x => { x with isolated := true }) s
  | .mp k => (s.modDie k fun d => { d with lost := true }).resetDie k false
  | .hg t => (s.modPort t fun q => { q with isolated := true }).resetGateway t
  | .site t =>
    let s := s.modSite t fun k => { k with isolated := true, vopen := 0 }
    (s.ops.filter fun o => match o.issuer with
      | .site t' _ => t' = t
      | _ => false).foldl (fun s o => if (s.op? o.serial).isSome then s.finishOp o stReset [] else s) s

/-- A die is isolated and its domain reset; the second time within an hour it is out of service until the next start. A further monitor of a die
that a monitor has isolated already finds nothing to isolate; one of a die that a commanded reset holds isolates it (R187, R189, R191, R192). -/
def State.isolate (s : State) (d : DieId) (cause : BitVec 8) (whole : Bool := false) : State :=
  let c := dieClass d
  if s.bt.isolated.contains c && !s.bt.commanded.contains c then s else
  let same (h : BitVec 8 × Nat × Nat) : Bool := h.1 = c.1 && h.2.1 = c.2
  let hist := s.bt.isoHist.filter fun h => s.now < h.2.2 + 3600000000000
  let again := hist.any same
  let s := { s with bt := { s.bt with
    isoHist := hist ++ [(c.1, c.2, s.now)]
    isolated := if s.bt.isolated.contains c then s.bt.isolated else s.bt.isolated ++ [c]
    commanded := s.bt.commanded.filter (· ≠ c)
    stayOut := if again && !s.bt.stayOut.contains c then s.bt.stayOut ++ [c] else s.bt.stayOut } }
  let s := s.loseDie d cause whole
  if again then (s.ev 0x3003 err c.1 c.2).putOut c.1 c.2 else s

/-- The cluster copies of a stack are loaded from its endpoint's (R137). -/
def State.loadClusters (s : State) (x : StackId) : State :=
  (List.finRange 96).foldl (fun s c => s.modCluster x c fun k => { k with msDelta := (s.ep (stackEp x)).delta, msCorr := 0, msLoaded := true }) s

/-- A stack that has returned: the regions of an ML that was lost are cleared, and the clusters' copies loaded (R137, R196, R329, R330). -/
def State.stackBack (s : State) (x : StackId) (cd ml : Bool) : State :=
  let was := (s.stack x).mlLost
  let s := s.modStack x fun k => { k with cdLost := k.cdLost && !cd, mlLost := k.mlLost && !ml, meshLost := k.meshLost && !cd }
  let s := if cd then s.loadClusters x else s
  if ml && was then s.startClear x else s

/-- The rails of a die, as row of R99 and instance (R101). -/
def railsOf : DieId → List (Nat × Nat)
  | .cd x => [(0, x.val)]
  | .ml x => [(1, x.val)]
  | .tile t => [(2, t.val), (3, t.val), (4, t.val)]
  | .mp k => [(5, k.val), (6, k.val)]
  | .hg t => [(7, t.val)]
  | .site t => [(8, t.val)]

/-- Whether a die is isolated on its own account. -/
def State.alone (s : State) (d : DieId) : Bool := s.bt.isolated.contains (dieClass d)

/-! ### A controller's fail line (R470, R471) -/

/-- The die whose loss an isolated endpoint is handled as: its stack's CD, its port die, its gateway, or its base tile (log 42). -/
def dieOfEp (e : EpId) : DieId :=
  match epStack e, epDie e, epPort e with
  | some x, _, _ => .cd x
  | _, some k, _ => .mp k
  | _, _, some t => .hg t
  | _, _, _ => .tile (tileOfEp e)

/-- The fail line asserts: a valid standby takes over with its copy and shows every outbound link a marker block; else the endpoint is isolated as a
loss of its die (R469 to R471). -/
def execControllerFail (e : EpId) (s : State) : Res :=
  let x := s.ep e
  .next (if !s.on || x.isolated then s
    else
      let s := s.ev 0x9002 err 0x08 e.val none (BitVec.ofNat 96 (b2n x.ctlB))
      if x.standbyOk then
        forEach (others e) (fun j s =>
          let k := s.link e j
          if k.trained then s.sendMarkers e j k.mask k.width else s) (s.takeOver e)
      else
        let s := s.isolate (dieOfEp e) (if e.val < 16 then 0x01 else if 28 ≤ e.val then 0x03 else 0x09) (decide (e.val < 16))
        s.modEp e fun x => { x with isolated := true })

end Sys2Proof.Machine
end

