-- ==== Sys2Proof/Machine/Ports.lean ====
section
/-!
DEFINITION. The CXL ports: resets, training and link states (R53 to R58, R510 to R512, R537), configuration space (R507 to R509),
HDM decoders and CXL.mem (R516, R517), the table of R519 and IDE (R586, R587).
-/

namespace Sys2Proof.Machine

/-! ### Link states -/

/-- A port is lost by a change of it: its link is down, it is in D3hot, or its IDE is insecure. Its work ends as at a gateway reset, after the change,
so that no record is written through it (R511, R512, R537, R587). -/
def State.portLost (s : State) (t : PortId) (f : Port → Port) : State :=
  let s := forEach (s.servedBy t) (fun p s => (((s.discardWork p).gatewayStop p).abortBinds p).discardWork p) (s.modPort t f)
  if s.ptmOn t then s.sourceLost else s

/-- The gateway takes every doorbell line of its partitions again; the first read sets the counts (R513, R537). -/
def State.portBack (s : State) (t : PortId) : State :=
  forEach (s.servedBy t) (fun p s =>
    let s := s.modPart p fun b => { b with resync := true, lostLines := 0xFF, heldLines := 0, wakeAt := some s.now }
    forEach (List.finRange 8) (fun l s => s.emit (.lineRead t p l)) s) s

/-- A gateway has power: step 1 of the start has enabled VHG, and its rail has not failed (R101, R173). -/
def State.gatewayPowered (s : State) (t : PortId) : Bool :=
  s.on && s.pw.rails && !hasBit s.bt.busy 1 && !s.pw.railFaults.contains (7, t.val)

/-- Link training begins once PERST_N is high, the REFCLK is present and the gateway is power-stable and out of reset. A missing REFCLK is warned
of once in each power-up, which is what the model takes "once" to cover (R56, R57, R70; DESIGN CHOICE, log 64). -/
def State.tryTrain (s : State) (t : PortId) : State :=
  let q := s.port t
  if !s.on || !s.pw.resetN || !q.perstHigh || q.isolated || q.linkUp then s
  else if !q.refclk then
    let s' := s.modPort t fun q => { q with idleNoClk := true, clkWarned := true, training := false, trainPending := false }
    if q.clkWarned then s' else s'.ev 0x1001 warn 0x06 (gwEp t).val
  else if !q.powerStable || !s.gatewayPowered t then s.modPort t fun q => { q with trainPending := true, idleNoClk := false }
  else s.modPort t fun q => { q with training := true, trainPending := false, idleNoClk := false }

/-- The gateways follow their PERST_N (R70). -/
def State.portsFollow (s : State) : State := forEach allPorts (fun t s => s.tryTrain t) s

def execPerstNAssert (t : PortId) (s : State) : Res :=
  let s := s.modPort t fun q => { q with perstHigh := false, trainPending := false, idleNoClk := false }
  .next (if s.on then s.resetGateway t else s)

/-- PERST_N is deasserted; the operand tells whether REFCLK is present (R56, R57). -/
def execPerstNDeassert (t : PortId) (refclk : Bool) (s : State) : Res :=
  .next ((s.modPort t fun q => { q with perstHigh := true, refclk }).tryTrain t)

def execGatewayPowerStable (t : PortId) (s : State) : Res :=
  .next (if s.on && s.pw.pwren then
      (s.modPort t fun q => { q with powerStable := true }).tryTrain t
    else s)

def execRefclkAppear (t : PortId) (s : State) : Res :=
  .next ((s.modPort t fun q => { q with refclk := true }).tryTrain t)

/-- A function-level reset acts as a gateway reset, and the link trains again (R510). -/
def execFunctionLevelReset (t : PortId) (s : State) : Res :=
  .next (if s.on && (s.port t).linkUp then (s.resetGateway t).tryTrain t else s)

def execPowerStateChange (t : PortId) (d3 : Bool) (s : State) : Res :=
  .next (if !s.on || !(s.port t).linkUp || (s.port t).d3 = d3 then s
    else if d3 then s.portLost t fun q => { q with d3 := true }
    else (s.modPort t fun q => { q with d3 := false }).portBack t)

def execCxlLinkDown (t : PortId) (s : State) : Res :=
  .next (if (s.port t).linkUp then
      (s.portLost t fun q => { q with linkUp := false, cxlWidth := 0, cxlRate := 0, ide := 0 }).tryTrain t
    else s)

/-- The link is up, with its lanes and rate; waiting doorbell lines are taken (R506, R537). -/
def execCxlLinkUp (t : PortId) (width rate : Nat) (s : State) : Res :=
  let q := s.port t
  .next (if s.on && q.training && !q.linkUp then
      (s.modPort t fun q => { q with linkUp := true, training := false, cxlWidth := width, cxlRate := rate, ide := 0 }).portBack t
    else s)

/-! ### Configuration space (R507 to R509) -/

/-- The key of a BAR whose dword is one of 4 to 9, and the mask of its low dword (R509). -/
def barOf (dw : Nat) : Nat × BitVec 32 :=
  if dw = 4 then (0, 0xFFF00000) else if dw = 6 then (2, 0xFFFE0000) else (4, 0xFFFF0000)

/-- A value with some of its bits fixed. -/
def fixBits (v mask fixed : BitVec 32) : BitVec 32 := (v &&& ~~~mask) ||| (fixed &&& mask)

/-- A dword of a capability as the standard lays it out with what the host has written, and with what the spec fixes in it: the module's serial number;
512 B of payload and a function-level reset; 1,024 vectors, their table and pending bits in BAR4; and the one range of 32 TiB
(R507 to R509, R516; places PRESUMED from the standards, log 20). -/
def State.capWord (s : State) (c : Config.Cap) (n : Nat) (v : BitVec 32) : BitVec 32 :=
  match c, n with
  | .serial, 1 => s.bt.serial.setWidth 32
  | .serial, 2 => (s.bt.serial >>> 32).setWidth 32
  | .pcie, 1 => fixBits v 0x10000007 0x10000002
  | .msix, 0 => fixBits v 0x07FF0000 0x03FF0000
  | .msix, 1 | .msix, 2 => fixBits v 7 4
  | .device, 6 => 0x00002000
  | .device, 7 => fixBits v 0xF0000000 0
  | _, _ => v

/-- A dword of configuration space: the identity, the BARs and the capabilities; the standard lays out the rest, which may hold what the host wrote
(R507 to R509; log 20). -/
def State.cfgRead (s : State) (t : PortId) (dw : Nat) : BitVec 32 :=
  let q := s.port t
  if dw = 0 then 0xD1601DB0
  else if dw = 2 then 0x12000001
  else if dw = 11 then (if s.bt.isX then 0x00011DB0 else 0x00001DB0)
  else if dw = 4 || dw = 6 || dw = 8 then ((kget 0 q.bars (barOf dw).1).setWidth 32 &&& (barOf dw).2) ||| 0x4
  else if dw = 5 || dw = 7 || dw = 9 then (kget 0 q.bars (barOf (dw - 1)).1 >>> 32).setWidth 32
  else
    let v := BitVec.ofNat 32 (field (Config.standardBytes 1 [t.val, dw, (kget 0 q.cfg dw).toNat]) 0 4)
    match Config.capAt dw with
    | some (c, n) => s.capWord c n v
    | none => v

/-- A dword of a committed or refused HDM decoder, as the CXL component registers lay it out (R509, R516; PRESUMED from the standard, log 20). -/
def HdmDecoder.word (d : HdmDecoder) (n : Nat) : BitVec 32 :=
  match n with
  | 0 => d.base.setWidth 32 &&& 0xF0000000
  | 1 => (d.base >>> 32).setWidth 32
  | 2 => d.size.setWidth 32 &&& 0xF0000000
  | 3 => (d.size >>> 32).setWidth 32
  | 4 => BitVec.ofNat 32 (b2n d.committed * 2 ^ 10 + b2n d.error * 2 ^ 11)
  | 5 => d.skip.setWidth 32 &&& 0xF0000000
  | 6 => (d.skip >>> 32).setWidth 32
  | _ => 0

/-- A dword of BAR2: the decoders of the HDM Decoder capability; the standard lays out the rest (R509, R516; log 20). -/
def State.readBar2 (s : State) (t : PortId) (off : Nat) : BitVec 32 :=
  let at_ := Config.hdmAt + 0x10
  if at_ ≤ off && off < at_ + 0x80 then (kget {} (s.port t).decoders ((off - at_) / 0x20)).word ((off - at_) % 0x20 / 4)
  else BitVec.ofNat 32 (field (Config.standardBytes 4 [t.val, off]) 0 4)

/-- A dword of BAR4: the MSI-X table, whose vectors are masked until the host sets them, and the pending bits; other dwords read zero (R508, R509,
R545; DESIGN CHOICE, log 20). -/
def State.readBar4 (s : State) (t : PortId) (off : Nat) : BitVec 32 :=
  let q := s.port t
  if Config.msixTableAt ≤ off && off < Config.msixTableAt + 0x4000 then
    let k := off - Config.msixTableAt
    (kget (BitVec.ofNat 128 (2 ^ 96)) q.msixTable (k / 16) >>> (32 * (k % 16 / 4))).setWidth 32
  else if Config.msixPendAt ≤ off && off < Config.msixPendAt + 0x80 then
    let k := 8 * (off - Config.msixPendAt)
    (List.range 32).foldl (fun m i => putBit m i (q.msixPend.contains (k + i))) 0
  else 0

def execConfigRequest (t : PortId) (r : CfgReq) (s : State) : Res :=
  let dw := r.dword.val
  .next (if !s.on || !(s.port t).linkUp then s
    else if !r.write then s.emit (.cfg t (some (s.cfgRead t dw)))
    else
      let s := s.modPort t fun q =>
        if dw = 4 || dw = 6 || dw = 8 then
          { q with bars := kmod 0 q.bars (barOf dw).1 fun b => (b &&& 0xFFFFFFFF00000000) ||| (r.value &&& (barOf dw).2).setWidth 64 }
        else if dw = 5 || dw = 7 || dw = 9 then
          { q with bars := kmod 0 q.bars (barOf (dw - 1)).1 fun b => (b &&& 0xFFFFFFFF) ||| (r.value.setWidth 64 <<< 32) }
        else if dw = 0 || dw = 2 || dw = 11 then q
        else { q with cfg := kput 0 q.cfg dw r.value }
      s.emit (.cfg t none))

/-- A decoder is committed; any interleave ways but 1 is refused with the commit-error field (R516). -/
def execHdmDecoderCommit (t : PortId) (n : Fin 4) (base size skip : BitVec 64) (ways : Nat) (s : State) : Res :=
  .next (if !s.on || !(s.port t).linkUp then s
    else s.modPort t fun q =>
      { q with decoders := kput {} q.decoders n.val (if ways = 1 then { committed := true, base, size, skip }
          else { kget {} q.decoders n.val with committed := false, error := true }) })

/-! ### CXL.mem (R516, R517) -/

/-- The DPA of a host address by the committed decoders: each maps its range behind the ranges and skips of the lower ones (R516;
log 12). -/
def dpaOf (l : List HdmDecoder) (before hpa : Nat) : Option Nat :=
  match l with
  | [] => none
  | d :: r =>
    let at_ := before + d.skip.toNat
    if d.committed && d.base.toNat ≤ hpa && hpa < d.base.toNat + d.size.toNat then some (at_ + (hpa - d.base.toNat))
    else dpaOf r (if d.committed then at_ + d.size.toNat else before) hpa

/-- A CXL.mem access: an operation of its gateway, or a refusal (R517). -/
def State.memAccess (s : State) (t : PortId) (tag : Nat) (hpa : Nat) (k : OpKind) (pl : Payload) : State :=
  match dpaOf ((List.range 4).map fun n => kget {} (s.port t).decoders n) 0 hpa with
  | none => s
  | some dpa =>
    let p : PartId := ⟨dpa / 2 ^ 41 % 16, by omega⟩
    let b := s.part p
    if 2 ^ 45 ≤ dpa || b.block ≠ .committed || b.servPort ≠ t then s.memRefuse t tag (k = .load)
    else
      (s.addOp { kind := k, issuer := .mem t tag, snd := gwEp t, part := p, addr := BitVec.ofNat 48 (dpa % 2 ^ 41 / 64 * 64), payload := pl }).pump

def execCxlMemRead (t : PortId) (tag : Nat) (hpa : BitVec 64) (s : State) : Res :=
  .next (if s.on && s.hostUp t then s.memAccess t tag hpa.toNat .load .none else s)

def execCxlMemWrite (t : PortId) (tag : Nat) (hpa : BitVec 64) (be : BitVec 64) (d : List Byte) (s : State) : Res :=
  .next (if s.on && s.hostUp t then s.memAccess t tag hpa.toNat .store (.store be (slice d 0 64)) else s)

/-- A read that has not completed 100 µs after its first attempt answers poisoned data, whose value the spec leaves open (R517). -/
def execCxlMemReadTimeout (t : PortId) (tag : Nat) (s : State) : Res :=
  .next (match s.ops.find? (fun o => o.issuer = .mem t tag && o.kind = .load) with
    | none => s
    | some o =>
      if o.first.any fun f => f + 100000 ≤ s.copyNow (gwEp t) then
        let s := s.dropOps fun q => q.serial = o.serial
        ({ s with free := s.free + 64 }.emit (.memData t tag (s.freeBytes 64) true)).pump
      else s)

/-! ### The table of R519, and IDE (R586, R587) -/

/-- The CDAT: one range of 32 TiB, latencies of 1,000 and 800 ns, 100 GB/s each way; the standard lays out the bytes (R519; log 20). -/
def execCdatRead (t : PortId) (s : State) : Res :=
  .next (if s.on && s.hostUp t then s.emit (.cdat t (Config.standardBytes 2 [0, 2 ^ 45, 1000, 800, 100, 100])) else s)

/-- Keys arrive inside a secure session on the same port: IDE is secure, and a port that was insecure is back (R586, R587). -/
def execIdeKeyProgram (t : PortId) (keys : List Byte) (s : State) : Res :=
  let q := s.port t
  .next (if s.on && q.linkUp && q.doe.sessions.any (·.finished) then
      let s := s.modPort t fun q => { q with ide := 1, ideKeys := keys }
      if q.ide = 2 then s.portBack t else s
    else s)

def execIdeIntegrityFailure (t : PortId) (s : State) : Res :=
  .next (if s.on && (s.port t).linkUp && (s.port t).ide = 1 then
      (s.portLost t fun q => { q with ide := 2 }).ev 0xC006 err 0x06 (gwEp t).val
    else s)

end Sys2Proof.Machine
end

