-- ==== Sys2Proof/Machine/Partitions.lean ====
section
/-!
DEFINITION. Partition blocks: commit, abandon, teardown, restart (R200, R522 to R530, R641 to R646), heartbeats (R201), and the
conditions of R73.
-/

namespace Sys2Proof.Machine

/-! ### Conditions and caps -/

/-- A die counts for R73's fifth condition until it is back; a stack's die only while its stack is in a partition. -/
def State.dieCounts (s : State) (c : BitVec 8 × Nat) : Bool :=
  let held (l : List StackId) : Bool := l.any fun x => (s.partOfStack x).isSome
  if c.1 = 1 || c.1 = 2 then held [⟨c.2 % 16, by omega⟩]
  else if c.1 = 3 then held (stacksOfTile ⟨c.2 % 4, by omega⟩)
  else c.1 ≠ 0x0C

/-- The conditions of R73, one bit for each row in order. -/
def State.conditions (s : State) : BitVec 6 :=
  let c (i : Nat) (b : Bool) (m : BitVec 6) : BitVec 6 := putBit m i b
  c 0 (s.pw.input ≠ .inRange) (c 1 s.pw.tripped (c 2 s.pw.limited (c 3 s.pw.failed
    (c 4 (s.bt.isolated.any s.dieCounts) (c 5 s.pyh.wdFault 0)))))

/-- MOD_FAULT_N is low: unpowered, off, held in module reset whatever the module waits for, or in a condition. The spec does not give its level
in an orderly shutdown, which counts as off here (R73, R88; DESIGN CHOICE, log 64). -/
def State.faultLow (s : State) : Bool :=
  !s.on || !s.pw.resetN || s.pw.phase = .off || s.pw.phase = .shutdown || s.pw.phase = .held || s.pw.phase = .noJPower || s.conditions ≠ 0

/-- The lowest cap in force over the regions of some stacks (R119). -/
def State.capOver (s : State) (l : List StackId) : Nat :=
  let low (m : KMap Nat) (c : Nat) : Nat := m.foldl (fun c k => if l.any (fun x => x.val = k.1 / 100) then min c k.2 else c) c
  low s.th.mlForce (low s.th.force 100)

/-- Whether a mapped region of some stacks runs on the mesh. -/
def State.anyMesh (s : State) (l : List StackId) : Bool :=
  l.any fun x => (List.finRange 100).any fun p => hasBit (s.stack x).cmap p.val && s.meshNow x p

/-! ### Heartbeats (R201) -/

/-- The work states of R201 as codes. -/
def workCode : WorkState → Nat
  | .idle => 0
  | .loaded => 1
  | .scheduled => 2
  | .freeRun => 3
  | .stopped => 4
  | .resetting => 5

/-- The cause of a partition: that of its stop, else 0x07 while it holds lost pages (R201, R374). -/
def State.causeOf (s : State) (p : PartId) : Nat :=
  let c := (s.part p).cause.toNat
  if c ≠ 0 then c else if 0 < s.lostCount p then 7 else 0

/-- The stacks of a partition that are isolated or out of service. -/
def State.badStacks (s : State) (p : PartId) : Nat :=
  (s.stacksOf p).foldl (fun m x =>
    if (s.stack x).oos || (s.ep (stackEp x)).isolated || s.bt.isolated.any (fun c => (c.1 = 1 || c.1 = 2) && c.2 = x.val)
    then m + 2 ^ x.val else m) 0

/-- The bytes of a heartbeat line. -/
def State.beatBytes (s : State) (p : PartId) (seq state cause : Nat) : List Byte :=
  let b := s.part p
  let flags := b2n s.faultLow + 2 * b2n (s.tm.lock ≠ .locked) + 4 * b2n (s.anyMesh (s.stacksOf p)) + 8 * b2n (!s.bt.oosList.isEmpty)
  leBytes 8 (s.copyNow (s.gwOf p)) ++ leBytes 8 seq ++ leBytes 1 state ++ leBytes 1 cause ++ leBytes 1 b.hbCap ++ leBytes 1 flags ++
    leBytes 2 (s.badStacks p) ++ leBytes 2 0 ++ leBytes 8 b.lastCommit ++ List.replicate 32 0

/-- Write one heartbeat; nothing is written while the host cannot be reached (R201, R529). -/
def State.beat (s : State) (p : PartId) (state cause : Nat) : State :=
  let b := s.part p
  let s := s.modPart p fun b => { b with hbNext := s.copyNow (s.gwOf p) + 100000 }
  if s.hostUp b.servPort then
    let d := s.beatBytes p (b.hbSeq + 1) state cause
    let cap := s.capOver (s.stacksOf p)
    (s.modPart p fun b => { b with hbSeq := b.hbSeq + 1, hbCap := cap }).emit (.hostWrite b.servPort b.heartbeat.toNat d)
  else s

def execHeartbeatWrite (p : PartId) (s : State) : Res :=
  let b := s.part p
  .next (if s.on && b.block = .committed && b.commitSt = 2 && b.hbNext ≤ s.copyNow (s.gwOf p) then
      s.beat p (workCode b.work) (s.causeOf p)
    else s)

/-! ### Control actions (R641) -/

/-- A control action that is refused records a warning: R520's where the port may not write it, else R641's. Restart and doorbell resync are the serving
port's to write (R520, R641). -/
def State.refuseAction (s : State) (t : PortId) (p : PartId) (serving : Bool := false) : State :=
  if t ≠ s.pw.steward && !(serving && (s.part p).block = .committed && (s.part p).servPort = t) then s.ignoredWrite t (blockOff p 0x08)
  else s.ev 0xE005 warn 0x06 (gwEp t).val none (writeDetail t (blockOff p 0x08))

/-! ### The sideband's part in the steward role (R521, R595, R596, R602, R603) -/

/-- Whether the bus reaches the module: VAON up, an address held, and no stuck line (R79, R80). -/
def State.sideUp (s : State) : Bool := s.on && s.pyh.i3cAddr.isSome && !s.pyh.i3cIgnored

/-- Whether a message is taken: addressed to the endpoint ID, with room in the inbox of its type (R595; log 52). -/
def State.takes (s : State) (m : Mctp) : Bool := s.sideUp && !m.full && s.pyh.eid ≠ 0 && m.dest = s.pyh.eid

end Sys2Proof.Machine

/-- A request whose flags, status and reserved bytes are zero (R601). -/
def Sys2Proof.Vendor.clean (v : Sys2Proof.Vendor) : Bool := v.flags = 0 && v.status = 0 && v.rsv = 0

namespace Sys2Proof.Machine

/-- Whether a die is out of service until the next start (R185, R186, R192). -/
def State.dieOut (s : State) (d : DieId) : Bool :=
  s.bt.stayOut.contains (dieClass d) ||
  match d with
  | .cd x | .ml x => (s.stack x).oos
  | .site t => !(s.site t).on
  | d => s.isOut (dieClass d).1 (dieClass d).2

/-- The port that a STEWARD_SET moves the role to, where it is carried out. -/
def State.stewardGoes (s : State) (v : Vendor) (port : BitVec 8) : Option PortId :=
  let t : PortId := ⟨port.toNat % 4, by omega⟩
  if s.takes v.m && !s.pyhDown && v.clean && port.toNat ≤ 3 && !(s.port t).oos && !s.dieOut (.hg t) then some t else none

/-! ### Commit (R524, R525, R530) -/

/-- One entry of the ring table as a submission ring, when it holds no reserved encoding (R531). -/
def ringEntry (bs : List Byte) (comp : Bool) : Option (Nat × Nat × Bool × Nat) :=
  let base := field bs 0 8
  let size := field bs 8 1
  let en := field bs 9 1
  let bytes := 2 ^ (size + 6) * (if comp then 32 else 64)
  if 10 < size || 1 < en || field bs 0xC 4 ≠ 0 || (!comp && field bs 0xA 2 ≠ 0) then none
  else if en = 1 && base % max bytes 4096 ≠ 0 then none
  else some (base, size, en = 1, field bs 0xA 2)

/-- The rings of a ring table of 2,048 bytes, none where it holds a reserved encoding (R530, R531). -/
def ringTable (bs : List Byte) : Option (KMap Ring × KMap CRing) :=
  let all := (List.range 128).map fun k => ringEntry (slice bs (16 * k) 16) (decide (64 ≤ k))
  if all.any (·.isNone) then none
  else
    let get (k : Nat) : Nat × Nat × Bool × Nat := ((all[k]?).getD none).getD (0, 0, false, 0)
    some ((List.range 64).foldl (fun m k => let e := get k; kput {} m k { base := e.1, size := e.2.1, enabled := e.2.2.1 }) [],
          (List.range 64).foldl (fun m k => let e := get (64 + k)
            kput {} m k { base := e.1, size := e.2.1, enabled := e.2.2.1, moder := e.2.2.2 }) [])

/-- The three shares of a block with the default of R642 in place of 0: port die, hub, gateway. -/
def Part.share (b : Part) (i : Nat) : Nat :=
  let v := bits b.shares.toNat (16 * i + 8) (16 * i)
  if v = 0 then 16 * popCount b.stackMask else v

/-- Whether a stack can be taken: in service with its endpoint synchronised, and in no other partition (R145, R524). -/
def State.stackFree (s : State) (x : StackId) : Bool :=
  let e := s.ep (stackEp x)
  !(s.stack x).oos && !(s.stack x).cdLost && !(s.stack x).mlLost && e.inService && e.synced && (s.partOfStack x).isNone

/-- The first check of R524 that fails, as the commit status of R640; some stacks are taken by a commit of the same cycle (R529). -/
def State.commitCheck (s : State) (p : PartId) (table : List Byte) (taken : BitVec 16 := 0) : Option (BitVec 8) :=
  let b := s.part p
  let t := b.servPort
  let others := allParts.filter fun q => q ≠ p && (s.part q).block = .committed
  let sum (i : Nat) (f : Part → Bool) : Nat := others.foldl (fun n q => if f (s.part q) then n + (s.part q).share i else n) (b.share i)
  if s.pw.phase ≠ .ready then some 0x10
  else if !((s.stacksOf p).all s.stackFree) || b.stackMask &&& taken ≠ 0 then some 0x11
  else if (s.port t).oos || (s.port t).isolated || !(s.port t).linkUp then some 0x12
  else if b.heartbeat = 0 || b.winSize.toNat % 2 ^ 20 ≠ 0 then some 0x13
  else if b.stackMask = 0 || b.doorbell = 0 || (ringTable table).isNone then some 0x14
  else if 256 < sum 0 (fun _ => true) || 256 < sum 1 (fun _ => true) || 256 < sum 2 (fun q => q.servPort = t) then some 0x15
  else if (bitList b.siteMask).any fun k =>
      let x : TileId := ⟨k % 4, by omega⟩
      !(s.site x).on || (s.site x).isolated || others.any fun q => hasBit (s.part q).siteMask k then some 0x16
  else none

/-- A region's clock runs again, and what waited for it goes on (R167, R169). -/
def State.runClock (s : State) (x : StackId) (p : RegionNo) : State :=
  ((s.modRegion x p fun r => { r with depth := .awake, arrived := false, lastUse := s.now }).setClock x p).retryStalled (stackEp x)

/-- A stack's mapped regions wake: a clock starts at once, and for a region without power the commit is an arrival, which its wake answers
(R167, R170, R525). -/
def State.wakeStack (s : State) (x : StackId) : State :=
  (List.finRange 100).foldl (fun s p =>
    if !hasBit (s.stack x).cmap p.val then s
    else match (s.region x p).depth with
      | .awake => s
      | .clockStopped => s.runClock x p
      | .ramping | .poweredOff => s.modRegion x p fun r => { r with arrived := true }) s

/-- The Commit action that a command of the queue writes, if it is one (R641). -/
def commitOf : Instr → Option (PortId × PartId × List Byte)
  | .commit t p table => some (t, p, table)
  | .registerWrite t off size v table =>
    if h : off / 0x1000 - 16 < 16 then
      if 0x10000 ≤ off && off % 0x1000 = 8 && size = 8 && bits v.toNat 7 0 = 1 then some (t, ⟨off / 0x1000 - 16, h⟩, table) else none
    else none
  | _ => none

/-- A commit that its port and its block's state allow (R641). -/
def State.mayCommit (s : State) (t : PortId) (p : PartId) : Bool :=
  t = s.pw.steward && (s.part p).block = .configuring && !(s.part p).abandoning

/-- The stacks that commits of lower-numbered blocks take in the same cycle: of two that claim one stack, the lower-numbered block commits
(R529). -/
def State.takenBefore (s : State) (p : PartId) : BitVec 16 :=
  let l := (s.pending.filterMap commitOf).filter fun c => s.mayCommit c.1 c.2.1
  (allParts.filter (· < p)).foldl (fun m q =>
    match l.find? fun c => c.2.1 = q with
    | some c => if (s.commitCheck q c.2.2 m).isNone then m ||| (s.part q).stackMask else m
    | none => m) 0

/-- A move of the steward role in the same cycle is ordered before a commit, and frees its block (R521, R529). -/
def State.stewardMoves (s : State) : Bool :=
  s.pending.any fun i => match i with
    | .stewardSet v port => (s.stewardGoes v port).isSome
    | _ => false

/-- A commit in the same cycle that locks a block passes: writes of its RWL registers come after it (R19). -/
def State.commitsNow (s : State) (p : PartId) : Bool :=
  !s.stewardMoves && s.pending.any fun i => match commitOf i with
    | some (t, q, table) => q = p && s.mayCommit t p && (s.commitCheck p table (s.takenBefore p)).isNone
    | none => false

/-- The locked fields of R523 and R530 in the order of that table, eight bytes each (R564; log 54). -/
def Part.lockedFields (b : Part) : List Byte :=
  let t := b.timing.toNat
  ([b.servPort.val, b.stackMask.toNat, b.winBase.toNat, b.winSize.toNat, b.heartbeat.toNat, bits t 41 32, bits t 3 0, bits t 16 16,
    bits b.shares.toNat 8 0, bits b.shares.toNat 24 16, bits b.shares.toNat 40 32, b.siteMask.toNat, b.ringTable.toNat, b.doorbell.toNat]).flatMap
    (leBytes 8)

/-- What the measurements of a partition show now: before a change of this tick, where one has been made (R566). -/
def State.partSnap (s : State) (p : PartId) : PartSnap :=
  let b := s.part p
  match b.before.filter (·.tick = s.now) with
  | some x => x
  | none => { tick := s.now, block := b.block, work := b.work, port := b.servPort, fields := b.lockedFields, bundle := b.bundle.map (·.digest)
              envs := b.envelopes.flatMap (·.digest) }

/-- A commit, an admission, a bind or a teardown changes what is measured in this tick: a snapshot of it holds what was before (R566). -/
def State.snapBefore (s : State) (p : PartId) : State := s.modPart p fun b => { b with before := some (s.partSnap p) }

/-- The Commit action: the checks of R524 in order; a commit that passes locks the fields, assigns the stacks and takes the doorbell
lines. The operand is the ring table as the gateway reads it. -/
def State.commit (s : State) (t : PortId) (p : PartId) (table : List Byte) : State :=
  let b := s.part p
  if !s.barUp t then s
    else if !s.mayCommit t p || s.stewardMoves then s.refuseAction t p
    else match s.commitCheck p table (s.takenBefore p) with
      | some st => s.modPart p fun b => { b with commitSt := st }
      | none =>
        let rs := (ringTable table).getD ([], [])
        let share (i : Nat) : Nat := b.share i * 2 ^ (16 * i)
        let s := (s.snapBefore p).modPart p fun b => { b with
          block := .committed, commitSt := 1, work := .idle, cause := 0, rings := rs.1, crings := rs.2
          shares := BitVec.ofNat 64 (share 0 + share 1 + share 2)
          timeoutUs := bits b.timing.toNat 41 32, lostLines := 0xFF, wakeAt := some s.now }
        let s := forEach (s.stacksOf p) (fun x s => s.wakeStack x) (s.emit (.hostRead b.servPort b.ringTable.toNat 2048))
        forEach (List.finRange 8) (fun l s => s.emit (.lineRead b.servPort p l)) s

def execCommit (t : PortId) (p : PartId) (table : List Byte) (s : State) : Res := .next (s.commit t p table)

/-- Whether the mapped regions of a partition are awake and cleared, but for those that failed their wake (R494, R525). -/
def State.allAwake (s : State) (p : PartId) : Bool :=
  (s.stacksOf p).all fun x => (List.finRange 100).all fun q =>
    let r := s.region x q
    !hasBit (s.stack x).cmap q.val || r.wakeFailed || (r.depth = .awake && !r.clearing)

/-! ### Abandon and teardown (R527, R641, R646) -/

def State.abandon (s : State) (t : PortId) (p : PartId) : State :=
  let b := s.part p
  if !s.barUp t then s
    else if t ≠ s.pw.steward || b.block ≠ .configuring || b.abandoning then s.refuseAction t p
    else
      let s := s.modPart p fun b => { b with abandoning := true }
      if b.pageSt = 1 then s else s.releaseAll p

def execAbandon (t : PortId) (p : PartId) (s : State) : Res := .next (s.abandon t p)

/-- Operations of a partition in flight are gone: those of its cores are discarded, a host's reads end (R200, R527). -/
def State.dropPartOps (s : State) (p : PartId) : State :=
  let host (o : RemOp) : Bool := match o.issuer with
    | .mem _ _ => true
    | _ => false
  let s := s.dropOps fun o => o.part = p && !host o
  (s.ops.filter fun o => o.part = p && host o).foldl (fun s o => s.finishOp o stReset []) s

/-- The steps of a teardown: work is dropped, tags retired, descriptors discarded; the final heartbeat; the pages; the stacks power off
(R527). -/
def State.tearDown (s : State) (p : PartId) : State :=
  let s := s.snapBefore p
  let s := match (s.part p).running with
    | some x => s.gatewayFail p x.no (s.copyNow (s.gwOf p))
    | none => s
  let s := forEach (s.stacksOf p) (fun x s => s.stopStack x) s
  let s := (s.dropPartOps p).retireTags p
  let s := s.abortBinds p
  let s := ((s.discardWork p).failSeals p fun x => !x.hashed).modPart p fun b =>
    { b with block := .tearing, work := .stopped, cause := 0, kernel := none, bundle := none, sealing := [], shape := b.shape &&& 0xFFFFFF0FFFFFFFFF
             periods := b.periods.filter fun x => x.stage = .ended }
  let s := s.beat p 4 0
  let s := forEach (s.stacksOf p) (fun x s =>
    let away (d : DieId) : Bool := s.alone d || s.alone (.tile (tileOfStack x))
    let s := (s.resetCd x).modStack x fun k => { k with cdLost := k.cdLost && away (.cd x), mlLost := k.mlLost && (away (.cd x) || away (.ml x)) }
    (List.finRange 100).foldl (fun s q => if hasBit (s.stack x).cmap q.val then s.modRegion x q Region.unpowered else s) s) s
  if (s.pagesOf p).isEmpty then s.modPart p fun b => { b with tearStep := 4 }
  else (s.modPart p fun b => { b with tearStep := 3 }).releaseAll p

def State.teardown (s : State) (t : PortId) (p : PartId) : State :=
  let b := s.part p
  if !s.barUp t then s
    else if t ≠ s.pw.steward || b.block ≠ .committed || b.tearStep ≠ 0 then s.refuseAction t p
    else if b.pageSt = 1 then s.modPart p fun b => { b with tearStep := 1 }
    else s.tearDown p

def execTeardown (t : PortId) (p : PartId) (s : State) : Res := .next (s.teardown t p)

/-- The teardown completes once its pages are released (R527). -/
def execTeardownDone (p : PartId) (s : State) : Res :=
  .next (if (s.part p).block = .tearing && (s.part p).tearStep = 4 then s.freeBlock p else s)

/-! ### Restart and resync (R200, R530) -/

/-- The Teardown action in the same cycle, which governs (R529, R646). -/
def State.tearsNow (s : State) (p : PartId) : Bool :=
  s.pending.any fun i => match i with
    | .teardown t q => q = p && t = s.pw.steward
    | .registerWrite t off size v _ => off = blockOff p 0x08 && size = 8 && bits v.toNat 7 0 = 3 && t = s.pw.steward
    | _ => false

/-- The Restart action: work is discarded, every stack is reset, and the partition resets (R200). -/
def State.restartPart (s : State) (t : PortId) (p : PartId) : State :=
  let b := s.part p
  if !s.barUp t then s
    else if !(t = s.pw.steward || t = b.servPort) || b.block ≠ .committed || b.work ≠ .stopped then s.refuseAction t p true
    else if s.tearsNow p then s
    else
      let s := ((s.dropPartOps p).retireTags p).abortBinds p
      let s := s.modPart p fun b =>
        { b with work := .resetting, bundle := none, kernel := none, descs := [], runs := [], loading := none, stopping := []
                 periods := b.periods.filter fun x => x.stage = .ended }
      forEach (s.stacksOf p) (fun x s => ((s.resetStack x).startClear x).modStack x fun k => { k with cdLost := true, mlLost := true }) s

def execPartitionRestart (t : PortId) (p : PartId) (s : State) : Res := .next (s.restartPart t p)

/-- The gateway reads all eight doorbell lines again (R530). -/
def State.doorbellResync (s : State) (t : PortId) (p : PartId) : State :=
  let b := s.part p
  if !s.barUp t then s
    else if t ≠ b.servPort || b.block ≠ .committed then s.refuseAction t p true
    else
      let s := s.modPart p fun b => { b with lostLines := 0xFF, wakeAt := some s.now }
      forEach (List.finRange 8) (fun l s => s.emit (.lineRead t p l)) s

def execDoorbellResync (t : PortId) (p : PartId) (s : State) : Res := .next (s.doorbellResync t p)

/-! ### The steward role (R521) -/

/-- A batch of a page command of a partition; a batch that releases its pages. -/
def Batch.pagesFor (b : Batch) (p : PartId) : Bool :=
  match b.src with
  | .page q _ _ | .cmd q _ _ _ => q = p
  | _ => false
def Batch.frees (b : Batch) (p : PartId) : Bool :=
  match b.src with
  | .auto q _ => q = p
  | _ => false

/-- A configuring block returns to free at a move of the steward role: its page commands that wait are gone, and what it owns or is about to own by
batches already accepted is released behind them (R521, R646). -/
def State.dropConfig (s : State) (p : PartId) : State :=
  let coming := (s.pm.accepted.filter (·.pagesFor p)).flatMap (·.recs)
  let l := ((s.pagesOf p).filter fun n => !coming.any fun r => r.1 = n) ++ (coming.filter fun r => r.2 ≠ 0).map (·.1)
  let freed := (s.pm.waiting ++ s.pm.accepted).any (·.frees p)
  let quiet (b : Batch) : Batch := if b.pagesFor p then { b with src := .auto p false } else b
  let s := { s with pm := { s.pm with waiting := s.pm.waiting.filter fun b => !b.pagesFor p, accepted := s.pm.accepted.map quiet } }
  let s := if l.isEmpty || freed then s else s.offerAll (fun _ => .auto p false) (l.map fun n => (n, 0))
  s.freeBlock p

/-- The steward role moves at once: configuring blocks return to free, and their pages are released (R521, R646). -/
def State.moveSteward (s : State) (t : PortId) : State :=
  let conf := allParts.filter fun p => (s.part p).block = .configuring
  forEach conf (fun p s => s.dropConfig p) { s with pw := { s.pw with steward := t } }

/-! ### The update tick (R356, R358, R374, R577) -/

/-- One record takes effect: every replica, the frame table, and the bound bit, which a binding sets and a release clears
(R348, R356, R579). -/
def State.applyRec (bind : Bool) (u : Nat) (kept : List Nat) (r : Nat × BitVec 64) (s : State) : State :=
  let d := s.pm.writeRec u kept (s.mapEntry r.1) r
  { s with pm := { d with bound := if bind then kput false d.bound r.1 true else if r.2 = 0 then kput false d.bound r.1 false else d.bound } }

/-- One page of a publish flip; the copies that read it see another version (R350, R352, R353). -/
def State.applyFlip (n : Nat) (s : State) : State :=
  let pm := allTiles.foldl (fun (d : HbmDie) (t : TileId) => if hasBit d.repDown t.val then d else d.modRep t fun m => kmod 0 m n eFlip) s.pm
  { s with pm := pm : State }.flipCopies fun m => m = n

/-- The owners that a batch names, old and new (R356). -/
def State.ownersOf (s : State) (recs : List (Nat × BitVec 64)) : List Nat :=
  (List.range 16).filter fun p => recs.any fun r =>
    let old := s.mapEntry r.1
    ((eValid old || eLost old) && eOwner old = p) || ((eValid r.2 || eLost r.2) && eOwner r.2 = p)

/-- A page command ended: an action that waited for it proceeds (R646). -/
def State.afterPage (s : State) (p : PartId) : State :=
  let b := s.part p
  if b.abandoning then s.releaseAll p
  else if b.block = .committed && b.tearStep = 1 then s.tearDown p else s

/-- What follows a batch's update tick at its source. -/
def State.batchDone (s : State) (b : Batch) : State :=
  match b.src with
  | .desc p d => s.finish p d 0
  | .page p _ last =>
    let s := s.modPart p fun k => { k with pageApplied := k.pageApplied + b.recs.length }
    if last then (s.modPart p fun k => { k with pageSt := 2, pageRefused := none }).afterPage p else s
  | .cmd _ _ _ _ => s
  | .lost _ => s
  | .bound p no => (s.snapBefore p).modPart p fun k =>
      { k with
        binds := k.binds.map fun x => if x.no = no then { x with status := 0, ended := true } else x
        envelopes := k.envelopes ++ (k.binds.filter (·.no = no)).map fun x =>
          { first := x.first, pages := x.pages, digest := x.digest, permitted := x.permitted } }
  | .auto p last =>
    if last then
      if (s.part p).abandoning then s.freeBlock p
      else if (s.part p).block = .tearing then s.modPart p fun k => { k with tearStep := 4 } else s
    else s

/-- An envelope none of whose pages is bound any more is no longer held by its partition (R579). -/
def State.dropEnvelopes (s : State) : State :=
  forEach allParts (fun p s =>
    let keep (v : Envelope) : Bool := (List.range v.pages).any fun i => s.bound (v.first + i)
    if (s.part p).envelopes.all keep then s else s.modPart p fun b => { b with envelopes := b.envelopes.filter keep }) s

/-- A batch takes effect at its update tick (R356). -/
def State.applyBatch (s : State) (b : Batch) (u : Nat) : State :=
  let owners := s.ownersOf b.recs
  let bind := match b.src with
    | .bound _ _ => true
    | _ => false
  let s := if b.flip then forEach b.recs (fun r s => s.applyFlip r.1) s else forEach b.recs (fun r s => s.applyRec bind u (framesOfRecs b.recs) r) s
  let s := s.forgetAll owners (b.recs.map (·.1))
  let s := if b.isLost then
      s.recordAll (owners.map fun p => { code := 0x6002, sev := err, cls := 0x0E, num := p, part := some ⟨p % 16, by omega⟩ })
    else s
  let s := { s with eps := kmapIf {} s.eps (fun _ => true) fun e => { e with mapRecs := e.mapRecs.filter (·.1 ≠ u) } }
  (s.batchDone b).dropEnvelopes

/-- A CXL.mem read of a page that a batch names is held for a flip: it completes on the old entry, before the update tick (R529). -/
def State.readHeld (s : State) (b : Batch) : Bool :=
  s.ops.any fun o =>
    let n := o.addr.toNat / 2 ^ 20
    o.kind = .load && o.first.isNone && b.recs.any (fun r => r.1 = n) && s.holds o.snd o.part n && match o.issuer with
      | .mem _ _ => true
      | _ => false

def execPageMapUpdateTick (s : State) : Res :=
  .next (match s.pm.accepted with
    | b :: r => match b.u with
      | some u => if u ≤ s.now && !s.readHeld b then { s with pm := { s.pm with accepted := r } }.applyBatch b u else s
      | none => s
    | [] => s)

end Sys2Proof.Machine
end

