-- ==== Sys2Proof/Machine/Gateway.lean ====
section
/-!
DEFINITION. What a gateway does with memory while it executes a descriptor, and what a program loader reads: whole transfers, cut at
64 B lines, with the sender's check, the owner check and the data checks of every line (R323, R327, R359, R372, R541; log 43).
-/

namespace Sys2Proof.Machine

/-! ### Lines -/

/-- Cut n bytes from an address at 64 B lines; the first argument bounds the pieces. -/
def cutLines (a : Nat) : Nat → Nat → List (Nat × Nat)
  | 0, _ => []
  | k + 1, n =>
    if n = 0 then []
    else
      let m := min n (64 - a % 64)
      (a, m) :: cutLines (a + m) k (n - m)

/-- The pieces of n bytes from an address. -/
def linesFrom (a n : Nat) : List (Nat × Nat) := cutLines a (n / 64 + 2) n

/-- The completion status and detail for a final status of R362 (R323, R327, R544). -/
def descStatus (st : BitVec 4) : Nat × Nat :=
  if st = stAccess then (0x09, 0) else if st = stData then (0x0A, 0) else (0x0B, st.toNat)

/-- Whether a line must wait: its translation is held, its bank stalls, or a seal has not read the frame; since is the tick from which it has
waited (R331, R334, R553, R582). -/
def State.lineWaits (s : State) (e : EpId) (p : PartId) (k : AccKind) (u : Use) (tag : BitVec 8) (since : Option Nat) (a : Nat) : Bool :=
  match (s.check e p k u tag a).1 with
  | .hold => true
  | .fail _ => false
  | .ok l _ => l.any fun q =>
    match epStack q.tgt, epDie q.tgt with
    | some _, _ => s.mlAccess .gateway q.loc since = .stall
    | _, some _ => k ≠ .read && s.sealHolds q.loc
    | _, _ => false

/-- The region behind a place of a memory layer. -/
def State.regionOf (s : State) (q : Place) : Option (StackId × RegionNo) :=
  (epStack q.tgt).bind fun _ => (mlPlace q.loc).bind fun pl => (s.physOf pl.stack pl.cluster).map fun p => (pl.stack, p)

/-- Traffic of a region: it does not sleep for 10 µs more (R167). -/
def State.usedAt (s : State) (q : Place) : State :=
  match s.regionOf q with
  | some (x, p) => s.modRegion x p fun r => { r with lastUse := s.now }
  | none => s

/-- A line that waits for a sleeping region asks for its wake (R169). -/
def State.callLine (s : State) (e : EpId) (p : PartId) (k : AccKind) (u : Use) (tag : BitVec 8) (a : Nat) : State :=
  match (s.check e p k u tag a).1 with
  | .ok l _ => forEach (l.filterMap s.regionOf) (fun c s =>
      if (s.region c.1 c.2).depth ≠ .awake then s.modRegion c.1 c.2 fun r => { r with arrived := true } else s) s
  | _ => s

/-- Whether an endpoint can reach a place now (R191, R199, R410). -/
def State.placeUp (s : State) (e : EpId) (q : Place) : Bool :=
  !hasBit (s.ep e).lost q.tgt.val && !s.dieGone q.tgt .copyData && !s.hbmGone q.tgt .copyData q.loc

/-- Read the bytes of one line: the data, or a status of R362; its target discards one whose period tag it does not accept (R453). Bytes in the host window come from the argument. -/
def State.readLine (s : State) (e : EpId) (p : PartId) (u : Use) (tag : BitVec 8) (since : Option Nat) (ecc : Ecc) (host : List Byte) (a n : Nat) :
    Except (BitVec 4) (List Byte) × State :=
  match s.check e p .read u tag a with
  | (.hold, s) => (.error stTimeout, s)
  | (.fail st, s) => (.error st, s)
  | (.ok l _, s) =>
    match l with
    | [] => (.error stAddress, s)
    | q :: _ =>
      if !s.placeUp e q then (.error stReset, s)
      else if !s.tagOk q.tgt p tag then (.error stTimeout, s.discard q.tgt 4)
      else match epStack q.tgt, epDie q.tgt with
        | some _, _ =>
          match s.mlAccess .gateway q.loc since with
          | .ok =>
            let s := (s.usedAt q).mlFound ecc q.loc
            if s.mlHasBad q.loc n then (.error stData, s.mlErrorEvents q.loc n) else (.ok (memRead s.ml q.loc n), s)
          | _ => (.error stAccess, s)
        | _, some _ =>
          let s := (s.touchHbm q.loc).hbmFound ecc q.loc
          if s.hbmHasBad q.loc n then (.error stTimeout, s.hbmErrorEvent q.loc) else (.ok (memRead s.hbm q.loc n), s)
        | _, _ => (.ok (slice host 0 n), s)

/-- Write bytes at one place: into a slice or pool, into HBM, or to the host. A word in error in flight discards the line, with its event, and
the retry writes it; a bad word that is partly written is an error like a read's (R327, R328, R372). -/
def State.writePlace (s : State) (e : EpId) (since : Option Nat) (ecc : Ecc) (d : List Byte) (q : Place) : Except (BitVec 4) Unit × State :=
  if !s.placeUp e q then (.error stReset, s)
  else match epStack q.tgt, epDie q.tgt, epPort q.tgt with
    | some _, _, _ =>
      match s.mlAccess .gateway q.loc since with
      | .ok =>
        let s := ((if ecc.flight then s.flightEvent q.tgt q.loc else s).usedAt q).mlFound ecc q.loc
        match (partialWords q.loc d.length).find? fun w => s.mlBad.contains w with
        | some w => (.error stData, s.mlErrorEvent (8 * w))
        | none => (.ok (), { s with ml := memWrite s.ml q.loc d }.mlCleared q.loc d.length)
      | _ => (.error stAccess, s)
    | _, some _, _ =>
      let s := if ecc.flight then s.hbmErrorEvent q.loc else s
      (.ok (), ((s.touchHbm q.loc).hbmFound ecc q.loc).hbmWrite q.loc (d.map fun b => (true, b)))
    | _, _, some t => (.ok (), s.emit (.hostWrite t q.loc d))
    | _, _, _ => (.error stAddress, s)

/-- Write at every place of a line, in order. -/
def State.writePlaces (s : State) (e : EpId) (since : Option Nat) (ecc : Ecc) (d : List Byte) : List Place → Except (BitVec 4) Unit × State
  | [] => (.ok (), s)
  | q :: r => match s.writePlace e since ecc d q with
    | (.ok _, s) => s.writePlaces e since ecc d r
    | (.error st, s) => (.error st, s)

/-- Write the bytes of one line. -/
def State.writeLine (s : State) (e : EpId) (p : PartId) (u : Use) (since : Option Nat) (ecc : Ecc) (d : List Byte) (a : Nat) :
    Except (BitVec 4) Unit × State :=
  match s.check e p .copyWrite u 0 a with
  | (.hold, s) => (.error stTimeout, s)
  | (.fail st, s) => (.error st, s)
  | (.ok l _, s) => s.writePlaces e since ecc d l

/-- Read n bytes from a partition address; what the checks of the words found comes with the first line: the bytes, or the status of the first line that fails with those before it. -/
def State.readBytes (s : State) (e : EpId) (p : PartId) (u : Use) (tag : BitVec 8) (since : Option Nat) (ecc : Ecc) (host : List Byte) (a0 : Nat) :
    List (Nat × Nat) → List Byte × Option (BitVec 4) × State
  | [] => ([], none, s)
  | (a, n) :: r =>
    match s.readLine e p u tag since ecc (host.drop (a - a0)) a n with
    | (.ok d, s) => let (ds, st, s) := s.readBytes e p u tag since {} host a0 r; (d ++ ds, st, s)
    | (.error st, s) => ([], some st, s)

/-- Write bytes from a partition address: how many were written, and the status of the line that failed. -/
def State.writeBytes (s : State) (e : EpId) (p : PartId) (u : Use) (since : Option Nat) (ecc : Ecc) (d : List Byte) (a0 : Nat) :
    List (Nat × Nat) → Nat → Nat × Option (BitVec 4) × State
  | [], k => (k, none, s)
  | (a, n) :: r, k =>
    match s.writeLine e p u since ecc (slice d (a - a0) n) a with
    | (.ok _, s) => s.writeBytes e p u since {} d a0 r (k + n)
    | (.error st, s) => (k, some st, s)

end Sys2Proof.Machine
end

