-- ==== Sys2Proof/Machine/Rings.lean ====
section
/-!
DEFINITION. Rings, doorbells and descriptors (R530 to R545): wakes, fetching, the order of acceptance, completion records, messages, and
the descriptors that a gateway executes by itself.
-/

namespace Sys2Proof.Machine

/-! ### Doorbell lines (R533 to R535, R537) -/

/-- A line of a partition that its port may hold. -/
def State.live (s : State) (p : PartId) : Bool := (s.part p).block = .committed && s.hostUp (s.part p).servPort

/-- A host write takes a held line away: a wake is scheduled, at once or 200 ticks after the previous one (R534). -/
def execDoorbellSnoop (p : PartId) (l : Fin 8) (s : State) : Res :=
  .next (if s.live p && hasBit (s.part p).heldLines l.val then
      s.modPart p fun b =>
        { b with heldLines := putBit b.heldLines l.val false, lostLines := putBit b.lostLines l.val true
                 wakeAt := some (b.wakeAt.getD (max s.now (b.lastWake + 200))) }
    else s)

/-- Modulo 2^32 difference of two counts (R532). -/
def diff32 (a b : BitVec 32) : Nat := (a - b).toNat

/-- The submission tail of a changed slot (R535). -/
def State.takeTail (s : State) (p : PartId) (r : Nat) (v : BitVec 64) : State :=
  let q := kget {} (s.part p).rings r
  let tail : BitVec 32 := v.setWidth 32
  let d := diff32 tail q.fetch
  if !q.enabled || d = 0 then s
  else if d ≤ q.entries then s.modPart p fun b => { b with rings := kput {} b.rings r { q with tail } }
  else if q.warnTick.all fun t => t + 1000000000 ≤ s.now then
    (s.modPart p fun b => { b with rings := kput {} b.rings r { q with warnTick := some s.now } }).ev 0xB003 warn 0x0E p.val (some p)
      (BitVec.ofNat 96 r)
  else s

/-- The completion head of a changed slot (R535). -/
def State.takeHead (s : State) (p : PartId) (r : Nat) (v : BitVec 64) : State :=
  let q := kget {} (s.part p).crings r
  let head : BitVec 32 := (v >>> 32).setWidth 32
  let d := diff32 q.write head
  if !q.enabled then s
  else if d ≤ q.entries then s.modPart p fun b => { b with crings := kput {} b.crings r { q with head } }
  else s.ev (if d ≤ 2 ^ 31 then 0xB005 else 0xB004) warn 0x0E p.val (some p) (BitVec.ofNat 96 r)

/-- After a link's return a slot sets the counts: the fetch count to the tail, the write count to the head (R537). -/
def State.takeCounts (s : State) (p : PartId) (r : Nat) (v : BitVec 64) : State :=
  let tail : BitVec 32 := v.setWidth 32
  let head : BitVec 32 := (v >>> 32).setWidth 32
  s.modPart p fun b =>
    { b with
      rings := if (kget {} b.rings r).enabled then kmod {} b.rings r fun q => { q with fetch := tail, tail } else b.rings
      crings := if (kget {} b.crings r).enabled then kmod {} b.crings r fun q => { q with write := head, head } else b.crings }

/-- The eight slots of one line that the gateway has read: each changed slot acts (R535, R537). -/
def State.takeLine (s : State) (p : PartId) (l : Fin 8) (v : List (BitVec 64)) : State :=
  let old := kget [] (s.part p).lines l.val
  let s := s.modPart p fun b => { b with lines := kput [] b.lines l.val ((List.range 8).map fun j => v.getD j 0) }
  (List.range 8).foldl (fun s j =>
    let x := v.getD j 0
    let r := 8 * l.val + j
    if (s.part p).resync then s.takeCounts p r x
    else if x = old.getD j 0 then s
    else (s.takeTail p r x).takeHead p r x) s

/-- DOORBELL_WAKE: the gateway reads every line it has lost. The operand is what the host holds: line after line, eight slots each
(R534, R535). -/
def execDoorbellWake (p : PartId) (v : List (BitVec 64)) (s : State) : Res :=
  let b := s.part p
  .next (if s.live p && b.wakeAt.any (fun t => t ≤ s.now) then
      let s := s.modPart p fun b =>
        { b with heldLines := b.heldLines ||| b.lostLines, lostLines := 0, wakeAt := none, lastWake := s.now }
      let s := forEach ((List.finRange 8).filter fun l => hasBit b.lostLines l.val) (fun l s =>
        (s.emit (.lineRead b.servPort p l)).takeLine p l ((v.drop (8 * l.val)).take 8)) s
      s.modPart p fun b => { b with resync := false }
    else s)

/-! ### Descriptors in their rings (R536, R538, R540) -/

/-- Flags of a descriptor (R538). -/
def Desc.byte (d : Desc) (i : Nat) : Nat := (d.bytes.getD i 0).toNat
def Desc.ordered (d : Desc) : Bool := d.byte 1 % 2 = 1 || d.d.typ = 0x01 || d.d.typ = 0x0A || d.d.typ = 0x0C
def Desc.claims (d : Desc) : Bool := d.byte 1 / 2 % 2 = 1
def Desc.field (d : Desc) (off n : Nat) : Nat := Sys2Proof.Machine.field d.bytes off n

/-- Whether a header holds a reserved encoding or names a completion ring that is not enabled (R13, R15, R538, R539). -/
def Part.badHeader (b : Part) (d : Desc) : Bool :=
  0x0D < d.d.typ || 4 ≤ d.byte 1 || 64 ≤ d.byte 2 || d.field 3 5 ≠ 0 || !(kget {} b.crings d.d.cring).enabled

/-- Whether every byte from 8 on, outside the listed ranges, is zero (R13, R539). -/
def Desc.clean (d : Desc) (used : List (Nat × Nat)) : Bool :=
  (List.range 64).all fun i => i < 8 || used.any (fun u => u.1 ≤ i && i < u.1 + u.2) || d.byte i = 0

/-- Whether every earlier descriptor of a descriptor's ring has been accepted (R540). -/
def Part.front (b : Part) (d : Desc) : Bool :=
  b.descs.all fun x => !(x.d.ring = d.d.ring && x.serial < d.serial) || x.accepted

/-- Whether no earlier descriptor of a descriptor's ring is left (R540). -/
def Part.alone (b : Part) (d : Desc) : Bool := b.descs.all fun x => !(x.d.ring = d.d.ring && x.serial < d.serial)

/-- Forget a descriptor without a record: its completion ring does not exist (log 44). -/
def State.dropDesc (s : State) (p : PartId) (n : Nat) : State :=
  s.modPart p fun b => { b with descs := b.descs.filter (·.serial ≠ n) }

/-- Descriptors with a bad header complete as malformed when their turn comes; the first argument bounds them (R15, R540). -/
def State.sweepBad (p : PartId) : Nat → State → State
  | 0, s => s
  | k + 1, s =>
    let b := s.part p
    match b.descs.find? fun d => !d.accepted && b.badHeader d && b.front d with
    | none => s
    | some d =>
      State.sweepBad p k (if (kget {} b.crings d.d.cring).enabled then s.finish p d.d 1 else s.dropDesc p d.serial)

/-- The ring whose run is fetched next: the first with fetchable descriptors, in rotating order (R536). -/
def Part.nextRing (b : Part) : Option Nat :=
  ((List.range 64).map fun i => (b.lastRing + 1 + i) % 64).find? fun r =>
    let q := kget {} b.rings r
    q.enabled && q.tail ≠ q.fetch

/-- A run of up to 16 descriptors of a ring is fetched: at most 256 are in progress, and none is fetched while 256 records wait or the gateway's UCIe
link is down (R500, R536, R543). The operand is what the slots hold. -/
def execDescriptorFetch (p : PartId) (r : Fin 64) (l : List (List Byte)) (s : State) : Res :=
  let b := s.part p
  let q := kget {} b.rings r.val
  .next (if s.live p && !(s.port b.servPort).detached && b.nextRing = some r.val && b.compl.length < 256 && b.descs.length < 256 then
      let n := min (min 16 (diff32 q.tail q.fetch)) (256 - b.descs.length)
      let ds : List Desc := (l.take n).mapIdx fun i bs =>
        { serial := s.nextOp + i
          d := { ring := r.val, slot := (q.fetch.toNat + i) % q.entries, cring := (bs.getD 2 0).toNat % 64, typ := (bs.getD 0 0).toNat }
          bytes := slice bs 0 64 }
      let s := forEach ds (fun d s => s.emit (.hostRead b.servPort (q.base + 64 * d.d.slot) 64)) s
      let s := { s with nextOp := s.nextOp + ds.length }.modPart p fun b =>
        { b with descs := b.descs ++ ds, lastRing := r.val
                 rings := kput {} b.rings r.val { q with fetch := q.fetch + BitVec.ofNat 32 ds.length } }
      State.sweepBad p 256 s
    else s)

/-- A descriptor of a type whose turn has come: not yet accepted, its header right, every earlier one of its ring accepted, or complete
where it is ordered (R540). -/
def State.turn (s : State) (p : PartId) (n typ : Nat) : Option Desc :=
  let b := s.part p
  if !s.live p then none
  else b.descs.find? fun d =>
    d.serial = n && d.d.typ = typ && !d.accepted && !b.badHeader d && b.front d && (!d.ordered || b.alone d)

/-- Accept a descriptor. -/
def State.acceptDesc (s : State) (p : PartId) (n : Nat) : State :=
  s.modPart p fun b => { b with descs := b.descs.map fun d => if d.serial = n then { d with accepted := true } else d }

/-- Run the body of a descriptor whose turn has come, once it is accepted. -/
def State.withDesc (s : State) (p : PartId) (n typ : Nat) (body : Desc → State → State) : State :=
  match s.turn p n typ with
  | none => s
  | some d => State.sweepBad p 256 (body d (s.acceptDesc p n))

/-- The cause that a completion shows while the partition is stopped or resetting (R542). -/
def State.stopped? (s : State) (p : PartId) : Option Nat :=
  if (s.part p).work = .stopped || (s.part p).work = .resetting then some (s.causeOf p) else none

/-- Complete as malformed (R15), or as "partition stopped" where the partition is (R542), else go on. -/
def State.guardStop (s : State) (p : PartId) (d : Desc) (ok : Bool) (body : State → State) : State :=
  if !ok then s.finish p d.d 1
  else match s.stopped? p with
    | some c => s.finish p d.d 8 c
    | none => body s

/-! ### NOP and FENCE (R539) -/

def execNopDescriptor (p : PartId) (n : Nat) (s : State) : Res :=
  .next (s.withDesc p n 0x00 fun d s => s.finish p d.d (if d.clean [] then 0 else 1))

/-- FENCE is accepted in its turn, and completes once every earlier descriptor of its ring has. -/
def execFenceDescriptor (p : PartId) (n : Nat) (s : State) : Res :=
  let fin (s : State) (d : Desc) : State := if (s.part p).alone d then s.finish p d.d 0 else s
  .next (match (s.part p).descs.find? fun d => d.serial = n && d.d.typ = 0x07 && d.accepted with
    | some d => if s.live p then State.sweepBad p 256 (fin s d) else s
    | none => s.withDesc p n 0x07 fun d s => if d.clean [] then fin s d else s.finish p d.d 1)

/-! ### Copies and fills (R541) -/

/-- The slices that a range of the memory-layer window touches: stack, cluster, core (R541). -/
def slicesOf (a n : Nat) : List (StackId × ClusterNo × Fin 16) :=
  let lo := 0x20000000000
  let hi := 0x20200000000
  if n = 0 || hi ≤ a || a + n ≤ lo then []
  else
    let first := (max a lo - lo) / 2 ^ 18
    let last := (min (a + n) hi - 1 - lo) / 2 ^ 18
    (List.range (last + 1 - first)).filterMap fun i =>
      match mlPlace ((first + i) * 2 ^ 18) with
      | some ⟨x, c, some k⟩ => some (x, c, k)
      | _ => none

/-- Whether a range touches the memory-layer window (R542). -/
def touchesMl (a n : Nat) : Bool := a < 0x20200000000 && 0x20000000000 < a + n

/-- The owner word of a slice. -/
def State.ownerOf (s : State) (k : StackId × ClusterNo × Fin 16) : SliceOwner := kget {} (s.cluster k.1 k.2.1).owners k.2.2.val

/-- Slices are set to owner 0b11, each by a handover (R324, R541). -/
def State.claim (s : State) (l : List (StackId × ClusterNo × Fin 16)) (to_ : StackId × ClusterNo × Fin 16 → BitVec 2) : State :=
  forEach l (fun k s => s.modOwner k.1 k.2.1 k.2.2.val fun w => ((w.write (to_ k)).done s.now)) s

/-- Whether a byte lies in a versioned page: a copy of a gateway can end there with "version changed" (R352). -/
def State.versionedAt (s : State) (a : Nat) : Bool := a < 2 ^ 41 && eVersioned (s.mapEntry (a / 2 ^ 20))

/-- A transfer of a descriptor: it waits while a line of it must, or while a claimed slice is changing hands; a claim is refused while a period
or a kernel runs; the slices return to their owners after it (R541). The body answers how many bytes were done, and the status of the
line that failed. -/
def State.transfer (s : State) (p : PartId) (n typ addr len : Nat) (okForm : Bool) (k : AccKind)
    (lost : Option (Nat × BitVec 4)) (body : State → Option Nat → Nat → Nat × Option (BitVec 4) × State) : State :=
  match s.turn p n typ with
  | none => s
  | some d =>
    let b := s.part p
    let e := s.gwOf p
    let stop := touchesMl addr len && (s.stopped? p).isSome
    let sl := if d.claims then (slicesOf addr len).filter (fun x => hasBit b.stackMask x.1.val) else []
    let conflict := d.claims && (b.running.isSome || b.kernel.isSome)
    let held := linesFrom addr len |>.any fun q => s.lineWaits e p k .desc 0 d.wait q.1
    if okForm && !stop && !conflict && (held || sl.any fun x => (s.ownerOf x).target.isSome) then
      let s := forEach (linesFrom addr len) (fun q s => s.callLine e p k .desc 0 q.1) s
      s.modPart p fun b => { b with descs := b.descs.map fun x => if x.serial = n && x.wait.isNone then { x with wait := some s.now } else x }
    else State.sweepBad p 256
      (let s := s.acceptDesc p n
       if !okForm then s.finish p d.d 1
       else if stop then s.finish p d.d 8 ((s.stopped? p).getD 0)
       else if conflict then s.finish p d.d 2
       else
        let prev := sl.map fun x => (x, (s.ownerOf x).owner)
        let s := s.claim sl fun _ => 3
        let lost := lost.filter fun x => x.2 ≠ stVersion || (k = .read && s.versionedAt (addr + x.1))
        let want := match lost with
          | some (m, _) => min m len
          | none => len
        let (done, st, s) := body s d.wait want
        let s := s.claim sl fun x => ((prev.find? (·.1 = x)).map (·.2)).getD 0
        match st, lost with
        | some st, _ => let r := descStatus st; s.finish p d.d r.1 r.2 done
        | none, some (_, st) => let r := descStatus st; s.finish p d.d r.1 r.2 done
        | none, none => s.finish p d.d 0 0 done)

/-- The descriptor of a serial number, malformed zeros where there is none. -/
def State.descN (s : State) (p : PartId) (n : Nat) : Desc :=
  ((s.part p).descs.find? (·.serial = n)).getD { serial := n, d := { ring := 0, slot := 0, cring := 0, typ := 0 }, bytes := [] }

/-- COPY_IN: host memory into partition memory. The operands are the host's bytes, what the checks of the words found, and, where an
operation of it failed for good, the bytes done and its status (R539, R541; log 43). -/
def execCopyIn (p : PartId) (n : Nat) (h : List Byte) (e : Ecc) (lost : Option (Nat × BitVec 4)) (s : State) : Res :=
  let d := s.descN p n
  let a := d.field 0x10 8
  let len := d.field 0x18 4
  .next (s.transfer p n 0x04 a len (d.clean [(8, 20)] && len ≠ 0) .copyWrite lost fun s since m =>
    (s.emit (.hostRead (s.part p).servPort (d.field 8 8) m)).writeBytes (s.gwOf p) p .desc since e h a (linesFrom a m) 0)

/-- COPY_OUT: partition memory into host memory. The bytes of a source in the host window are an operand. -/
def execCopyOut (p : PartId) (n : Nat) (h : List Byte) (e : Ecc) (lost : Option (Nat × BitVec 4)) (s : State) : Res :=
  let d := s.descN p n
  let a := d.field 0x08 8
  let len := d.field 0x18 4
  .next (s.transfer p n 0x05 a len (d.clean [(8, 20)] && len ≠ 0) .read lost fun s since m =>
    let (bs, st, s) := s.readBytes (s.gwOf p) p .desc 0 since e h a (linesFrom a m)
    (bs.length, st, if bs.isEmpty then s else s.emit (.hostWrite (s.part p).servPort (d.field 0x10 8) bs)))

/-- FILL: an 8 B pattern, repeated from the first byte. -/
def execFill (p : PartId) (n : Nat) (e : Ecc) (lost : Option (Nat × BitVec 4)) (s : State) : Res :=
  let d := s.descN p n
  let a := d.field 0x08 8
  let len := d.field 0x10 4
  .next (s.transfer p n 0x06 a len (d.clean [(8, 12), (0x18, 8)] && len ≠ 0) .copyWrite lost fun s since m =>
    let pat := leBytes 8 (d.field 0x18 8)
    s.writeBytes (s.gwOf p) p .desc since e ((List.range m).map fun i => pat.getD (i % 8) 0) a (linesFrom a m) 0)

/-! ### Page maps, waymarks, seals (R226, R357, R539, R555) -/

/-- The records of a PAGE_MAP_UPDATE, none where a reserved field is not zero (R539). -/
def mapRecords (bs : List Byte) (count : Nat) : Option (List (Nat × BitVec 64)) :=
  let l := (List.range count).map fun i => slice bs (16 * i) 16
  if l.any fun r => field r 4 4 ≠ 0 then none else some (l.map fun r => (field r 0 4, BitVec.ofNat 64 (field r 8 8)))

/-- PAGE_MAP_UPDATE offers its records to the loader. The operand is the record bytes in host memory. -/
def execPageMapUpdate (p : PartId) (n : Nat) (bs : List Byte) (s : State) : Res :=
  .next (s.withDesc p n 0x08 fun d s =>
    let count := d.field 0x10 2
    let kind := d.byte 0x12
    match (if d.clean [(8, 11)] && 1 ≤ count && count ≤ 4096 && kind ≤ 1 then mapRecords bs count else none) with
    | none => s.finish p d.d 1
    | some recs => s.offerBatch { src := .desc p d.d, flip := kind = 1, recs })

/-- WAYMARK_SET, in free-run only; a core outside the partition is not owned, and one whose region sleeps is set once its clock runs (R40, R226,
R542; log 44). -/
def execWaymarkSet (p : PartId) (n : Nat) (s : State) : Res :=
  .next (s.withDesc p n 0x09 fun d s =>
    let g := d.field 8 2
    let w := d.byte 0x0A
    s.guardStop p d (d.clean [(8, 3), (0xC, 4)] && w < 64 && g < 24576) fun s =>
      if !((s.part p).kernel.any fun k => k.launch.isSome) then s.finish p d.d 2
      else if !hasBit (s.part p).stackMask (g / 1536) then s.finish p d.d 0x0B 5
      else
        let g : CoreId := ⟨g % 24576, by omega⟩
        if !s.awakeAt (coreStack g) (coreCluster g) then s.callCluster (coreStack g) (coreCluster g)
        else (s.wmSet g (BitVec.ofNat 6 w) (BitVec.ofNat 32 (d.field 0xC 4))).finish p d.d 0)

/-- SEAL_FETCH writes a kept seal to host memory (R555, R583). -/
def execSealFetch (p : PartId) (n : Nat) (s : State) : Res :=
  .next (s.withDesc p n 0x0B fun d s =>
    if !d.clean [(8, 16)] then s.finish p d.d 1
    else match (s.part p).seals.find? fun x => x.period = d.field 8 8 with
      | none => s.finish p d.d 0x11
      | some x => (s.emit (.hostWrite (s.part p).servPort (d.field 0x10 8) x.bytes)).finish p d.d 0)

/-! ### MARCH_TEST (R333 to R336) -/

/-- The stacks of a mask. -/
def maskStacks (m : Nat) : List StackId := allStacks.filter fun x => m / 2 ^ x.val % 2 = 1

/-- MARCH_TEST starts the march engines of the stacks it names, from row 0 at this tick. It waits while one of them still marches
and while Pyhiet is away. An empty mask, for which the spec names no status, is malformed (R333, R334, R594; DESIGN CHOICE, log 72). -/
def execMarchTest (p : PartId) (n : Nat) (s : State) : Res :=
  let l := maskStacks ((s.descN p n).field 8 2)
  .next (if s.pyhDown || l.any fun x => (s.stack x).marching.isSome then s
    else s.withDesc p n 0x0C fun d s =>
      let keep := d.byte 0x0A = 1
      let b := s.part p
      s.guardStop p d (d.clean [(8, 3)] && d.byte 0x0A ≤ 1 && !l.isEmpty && l.all fun x => hasBit b.stackMask x.val) fun s =>
        if (if keep then b.running.isSome else b.bundle.isSome || b.kernel.isSome || b.loading.isSome) then s.finish p d.d 2
        else forEach l (fun x s => s.modStack x fun k => { k with marching := some keep, marchAt := s.now, marchBuf := 0 }) s)

/-! ### Records and messages (R543, R545) -/

/-- The oldest waiting record of a completion ring is written once the ring has room. -/
def execCompletionRecordWrite (p : PartId) (r : Fin 64) (s : State) : Res :=
  let b := s.part p
  .next (match b.compl.find? fun c => c.d.cring = r.val with
    | none => s
    | some c =>
      if (kget {} b.crings r.val).room && s.live p then
        (s.modPart p fun b => { b with compl := b.compl.erase c }).writeCompl p c
      else s)

/-- The waiting message of a completion ring is sent once its moderation has passed. -/
def execMsixMessage (p : PartId) (r : Fin 64) (s : State) : Res :=
  let t := (s.part p).servPort
  .next (if (s.port t).msixPend.contains (64 * p.val + r.val) && s.hostUp t then s.msix p r.val else s)

end Sys2Proof.Machine
end

