-- ==== Sys2Proof/Machine/Bundles.lean ====
section
/-!
DEFINITION. Bundles and kernel images: their layout (R546, R547), admission (R548), LOAD_BUNDLE and FREE_RUN, the launch of a kernel (R230,
R237, R239, R288), RUN_PERIODS (R549) and STOP (R556).
-/

namespace Sys2Proof.Machine

/-! ### The image (R302, R546, R547) -/

/-- Whether bytes of a range are all zero. -/
def zeros (bs : List Byte) (off n : Nat) : Bool := (slice bs off n).all (· = 0)

/-- The section directory: type, offset, length and reserved field of each section. -/
def sectionDir (bs : List Byte) : List (Nat × Nat × Nat × Nat) :=
  (List.range (field bs 6 2)).map fun i =>
    let o := 0x60 + 16 * i
    (field bs o 4, field bs (o + 4) 4, field bs (o + 8) 4, field bs (o + 12) 4)

/-- The bytes of a section, with its offset; empty where there is none. -/
def sectionAt (bs : List Byte) (t : Nat) : Nat × List Byte :=
  match (sectionDir bs).find? (·.1 = t) with
  | some (_, o, n, _) => (o, slice bs o n)
  | none => (0, [])

/-- Entries of n bytes of a section. -/
def entriesOf (n : Nat) (bs : List Byte) : List (List Byte) := pieces n bs.length bs

/-- One entry of the period table, with its reserved field. -/
def periodEntry (b : List Byte) : PeriodEntry × Nat :=
  ({ start := field b 0 8, length := field b 8 4, work := field b 0xC 4, seed := BitVec.ofNat 64 (field b 0x10 8), set := field b 0x18 2
     plan := field b 0x1A 2, outs := field b 0x1C 2 }, field b 0x1E 2)

/-- An entry point, none for 0xFFFF (R239). -/
def entryPoint (n : Nat) : Option Nat := if n = 0xFFFF then none else some n

/-- The window that a word names: a conversion into or out of XS256 (R249, R255, R260). -/
def windowOf (w : Nat) : Option Nat :=
  if bits w 63 57 = 5 && bits w 28 20 ≤ 0xE && (bits w 28 20 = 0xD || bits w 19 16 = 0xD) then some (bits w 34 29) else none

/-- The programs of a section from an offset in it, base being the section's place in the image; none for a reserved encoding or a
program that runs past the section. The first argument bounds them. -/
def programsFrom (base : Nat) : Nat → List Byte → Nat → Option (List Program)
  | 0, _, _ => some []
  | _, [], _ => some []
  | k + 1, bs, o =>
    let count := field bs 8 2
    let size := 16 + 8 * count
    if bs.length < 16 || bs.length < size || 1 < field bs 10 1 || field bs 11 1 ≠ 0 then none
    else
      let code := (bs.drop 16).take (8 * count)
      let x : Program :=
        { digest := BitVec.ofNat 64 (field bs 0 8), split80 := field bs 10 1 = 1
          entry0 := entryPoint (field bs 12 2), entry1 := entryPoint (field bs 14 2), off := base + o + 16, count
          wins := (List.range count).filterMap fun i => windowOf (field code (8 * i) 8) }
      (programsFrom base k (bs.drop size) (o + size)).map (x :: ·)

/-- One declared output; none for a reserved encoding. -/
def outputDecl (b : List Byte) : Option OutputDecl :=
  if 4 ≤ field b 1 1 || field b 2 2 ≠ 0 || field b 8 4 = 0 || field b 0xC 4 ≠ 0 then none
  else some { number := field b 0 1, isSealed := field b 1 1 % 2 = 1, publish := field b 1 1 / 2 = 1, first := field b 4 4
              pages := field b 8 4, contrib := (List.range 16).map fun x => field b (0x10 + 2 * x) 2 }

/-- The output sets of a section; none for a reserved encoding. The first argument bounds them. -/
def outputSets : Nat → List Byte → Option (List (List OutputDecl))
  | 0, _ => some []
  | _, [] => some []
  | k + 1, bs =>
    let count := field bs 0 4
    let size := 4 + 48 * count
    if bs.length < 4 || bs.length < size then none
    else
      let l := (entriesOf 48 ((bs.drop 4).take (48 * count))).map outputDecl
      if l.any (·.isNone) then none else (outputSets k (bs.drop size)).map (l.filterMap id :: ·)

/-- One memory declaration; none for a reserved encoding. -/
def memDecl (b : List Byte) : Option MemDecl :=
  if 2 < field b 8 1 || field b 9 7 ≠ 0 then none else some { first := field b 0 4, count := field b 4 4, kind := field b 8 1 }

/-- Whether a window entry holds no reserved encoding (R302). -/
def windowOk (w : BitVec 64) : Bool :=
  bits w.toNat 62 24 = 0 && winRoom w ≤ 64 && decide (-1100 ≤ winBase w) && decide (winBase w ≤ 1000)

/-- Whether a directory holds known sections, each at most once and inside the image. The spec names no status for one that does not: it counts as
a reserved encoding (R15, R546, R547; DESIGN CHOICE, log 72). -/
def dirOk (kernel : Bool) (bs : List Byte) : Bool :=
  let d := sectionDir bs
  let known (t : Nat) : Bool := if kernel then t = 2 || t = 3 || t = 4 || t = 8 else 1 ≤ t && t ≤ 8
  noTwice (d.map (·.1)) && d.all fun (t, o, n, r) => known t && r = 0 && o + n ≤ bs.length

/-- Whether section lengths fit their entries; one that does not counts as a reserved encoding (R15, R547; DESIGN CHOICE, log 72). -/
def shapesOk (kernel : Bool) (bs : List Byte) : Bool :=
  let k := popCount (BitVec.ofNat 16 (field bs 8 2))
  let len (t : Nat) : Nat := (sectionAt bs t).2.length
  let n := field bs 0xC 4
  (if kernel then n = 0 else len 1 = 32 * n) && len 2 % (4 * 1536 * k) = 0 && len 4 % (4 * 96 * k) = 0 && len 7 % 16 = 0 &&
    (len 8 = 0 || len 8 = 512)

/-- The fields of an image. -/
def parseImage (bs : List Byte) : Option Bundle :=
  let k := popCount (BitVec.ofNat 16 (field bs 8 2))
  let sec (t : Nat) : List Byte := (sectionAt bs t).2
  let periods := (entriesOf 32 (sec 1)).map periodEntry
  let decls := (entriesOf 16 (sec 7)).map memDecl
  let windows := (entriesOf 8 (sec 8)).map fun b => BitVec.ofNat 64 (leNat b)
  if periods.any (·.2 ≠ 0) || decls.any (·.isNone) || windows.any (fun w => !windowOk w) then none
  else match programsFrom (sectionAt bs 3).1 (sec 3).length (sec 3) 0, outputSets (sec 6).length (sec 6) with
    | some progs, some outs => some
      { stks := BitVec.ofNat 16 (field bs 8 2), mesh := field bs 0xA 1 = 1, periods := periods.map (·.1)
        sets := (entriesOf (4 * 1536 * k) (sec 2)).map fun b => (entriesOf 4 b).map leNat
        progs, outs, windows
        tables := (entriesOf (4 * 96 * k) (sec 4)).map fun b => (entriesOf 4 b).map fun c => c.map (·.toNat)
        plans := sec 5, decls := decls.filterMap id, digest := slice bs 0x18 48 }
    | _, _ => none

/-- Check 1 of R548 on the bytes of an image: its status and detail when it fails, else the fields. An image that fails the check and also holds
a reserved encoding is reported by the check, which the spec leaves open (R15, R546 to R548; DESIGN CHOICE, log 72). -/
def readImage (kernel : Bool) (bs : List Byte) : Except (Nat × Nat) Bundle :=
  if field bs 0 4 ≠ 0x4C444E42 || field bs 4 2 ≠ 1 || field bs 0x10 8 ≠ bs.length || slice bs 0x18 48 ≠ Config.sha384 (bs.drop 0x60) then
    .error (3, 1)
  else if field bs 6 2 = 0 || 16 < field bs 6 2 || 1 < field bs 0xA 1 || field bs 0xB 1 ≠ 0 || !zeros bs 0x48 24 || !dirOk kernel bs ||
      !shapesOk kernel bs then .error (1, 0)
  else match parseImage bs with
    | none => .error (1, 0)
    | some b =>
      if b.progs.any fun x => x.digest ≠ BitVec.ofNat 64 (leNat ((Config.sha384 (slice bs x.off (8 * x.count))).take 8)) then .error (3, 1)
      else .ok b

/-! ### Admission (R548, R578) -/

/-- Whether a page is valid, owned by the partition and not lost; a bound one only for a bundle that its envelope permits (R548, R578). -/
def State.pageOk (s : State) (p : PartId) (digest : List Byte) (n : Nat) : Bool :=
  let e := s.mapEntry n
  n < 2 ^ 21 && eValid e && eOwner e = p.val &&
    (!s.bound n || (s.part p).envelopes.any fun v => v.first ≤ n && n < v.first + v.pages && v.permitted.contains digest)

/-- Whether a page can hold an image: read–write, unversioned, not bound (R546, R578). -/
def State.imagePageOk (s : State) (p : PartId) (n : Nat) : Bool :=
  s.pageOk p [] n && eMode (s.mapEntry n) = 0 && !eVersioned (s.mapEntry n) && !s.bound n

/-- Whether every page of a range satisfies a test; a range past the last page does not. -/
def allPages (first count : Nat) (f : Nat → Bool) : Bool :=
  first + count ≤ 2 ^ 21 && (List.range count).all fun i => f (first + i)

/-- Whether an output's pages are as R349 asks, and its contributors (R548). -/
def State.outputOk (s : State) (p : PartId) (digest : List Byte) (o : OutputDecl) : Bool :=
  allPages o.first o.pages (fun n => s.pageOk p digest n &&
    (if o.publish then eMode (s.mapEntry n) = 2 else eMode (s.mapEntry n) = 0 && eVersioned (s.mapEntry n))) &&
  o.contrib.any (0 < ·) && o.contrib.all (· ≤ 1536)

/-- The ticks that a start keeps from the deadline before it, given that period's outputs (R241, R350, R548). -/
def gapAfter (outs : List OutputDecl) : Nat :=
  let n := outs.foldl (fun k o => k + o.pages) 0
  max 200 (64 + (n + 63) / 64)

/-- Check 6 of R548 on neighbouring periods. -/
def orderOk (b : Bundle) : List PeriodEntry → Bool
  | x :: y :: r => x.start ≤ y.start && x.start + x.length + gapAfter (b.outs.getD x.outs []) ≤ y.start && orderOk b (y :: r)
  | _ => true

/-- Check 6 of R548. -/
def timesOk (b : Bundle) : Bool :=
  orderOk b b.periods && b.periods.all fun x =>
    10000 ≤ x.length && x.length ≤ 1000000000 && 100 * x.work ≤ 95 * x.length

/-- Check 7 of R548: programs, cluster tables, windows, and the indices that lead to them. -/
def programsOk (cap : Nat) (b : Bundle) : Bool :=
  let entryOk (x : Program) (e : Option Nat) : Bool := e.all (· < x.count)
  b.progs.all (fun x => x.count ≤ cap && entryOk x x.entry0 && entryOk x x.entry1 &&
    x.wins.all fun i => (b.windows.getD i 0).getLsbD 63) &&
  b.tables.all (fun t => t.all fun c => c.all (· ≤ 32)) &&
  b.sets.all (fun l => l.all fun i => i = 0xFFFFFFFF || i < b.progs.length) &&
  b.periods.all (fun x => x.set < b.sets.length && x.set < b.tables.length)

/-- Check 4 of R548. -/
def State.pagesOk (s : State) (p : PartId) (b : Bundle) (l : Loading) : Bool :=
  b.decls.all (fun m => allPages m.first m.count (s.pageOk p b.digest)) &&
  allPages l.first l.pages (s.imagePageOk p) &&
  b.decls.all (fun m => m.first + m.count ≤ l.first || l.first + l.pages ≤ m.first || m.count = 0 || l.pages = 0) &&
  b.periods.all (fun x => (b.outs[x.outs]?).isSome) &&
  b.outs.all (fun o => o.all (s.outputOk p b.digest))

/-- The bytes that a slot may plan on a link at most: 0.9 of the planning rate of 3.75 GB/s a lane, at its width (R402, R438). -/
def State.linkPlan (s : State) (i j : EpId) : Nat := 3375 * (lanesIn (s.link i j).mask).length

/-- Whether a slot of a plan meets the limits of R438 at the widths and shares in force; shares count 256ths. Bytes of direct pairs and of hops on one
link count together (R438; log 6). -/
def State.slotOk (s : State) (p : PartId) (k : Config.PlanSlot) : Bool :=
  let on := k.links ++ k.hops
  let b := s.part p
  on.all (fun x => ((on.filter fun y => y.1 = x.1 && y.2.1 = x.2.1).map (·.2.2)).sum ≤ s.linkPlan x.1 x.2.1) &&
  k.transit.all (fun x => x.2.2 ≤ 32 * 512) &&
  k.flight.all (fun x => x.2.2.2 ≤ 32 * (if x.2.2.1 then 1024 else 2048)) &&
  k.dies.all (fun x => 256 * x.2.2 ≤ b.share 0 * (if x.2.1 then 1640000 else 1040000)) &&
  k.gateways.all (fun x => 256 * max x.2.1 x.2.2 ≤ b.share 2 * 100000) &&
  k.slices.all (fun x => x.2.1 || x.2.2 ≤ 12000) &&
  k.packets.all fun x => x.2 ≤ 4000

/-- The first check of R548 that an image fails, as status and detail; for a kernel image the checks that its sections allow. -/
def State.admission (s : State) (p : PartId) (l : Loading) : Option (Nat × Nat) :=
  let b := l.image
  match l.verdict with
  | some v => some v
  | none =>
    if b.stks ≠ (s.part p).stackMask then some (3, 2)
    else if !l.kernel && !b.mesh && (s.anyMesh (s.stacksOf p) || (s.part p).mesh) then some (3, 3)
    else if !s.pagesOk p b l then some (3, 4)
    else if l.pages * 2 ^ 20 < l.length then some (3, 5)
    else if !l.kernel && !timesOk b then some (3, 6)
    else if !programsOk (if l.kernel then 8192 else 4096) b || (l.kernel && (b.sets.isEmpty || b.tables.isEmpty)) then some (3, 7)
    else if !l.kernel && !b.plans.isEmpty && !((Config.planSlots b.plans).all (s.slotOk p)) then some (3, 8)
    else none

/-! ### Loading (R168, R237, R340, R546, R548) -/

/-- Work for a stack's regions without power asks for their wake (R40, R168, R170). -/
def State.callStack (s : State) (x : StackId) : State :=
  (List.finRange 100).foldl (fun s p =>
    let r := s.region x p
    if hasBit (s.stack x).cmap p.val && (r.depth = .poweredOff || r.depth = .ramping) then s.modRegion x p fun r => { r with arrived := true }
    else s) s

/-- Whether every mapped region of a partition has power, but for those that failed their wake (R168, R494). -/
def State.allPowered (s : State) (p : PartId) : Bool :=
  (s.stacksOf p).all fun x => (List.finRange 100).all fun q =>
    let r := s.region x q
    !hasBit (s.stack x).cmap q.val || r.wakeFailed || r.depth = .awake || r.depth = .clockStopped

/-- Every HBM3 stack is woken (R340). -/
def State.wakeHbm (s : State) : State :=
  (List.finRange 8).foldl (fun s k => s.modDie k fun d => { d with selfRef := 0, lastAccess := [(0, s.now), (1, s.now)].filter (·.2 ≠ 0) }) s

/-- Copy an image into its pages, when they can hold it; a line that fails ends the descriptor. The partition's regions wake from power-off
(R168, R371, R546). -/
def State.loadImage (s : State) (p : PartId) (d : Desc) (bs : List Byte) (l : Loading) : State :=
  let s := forEach (s.stacksOf p) (fun x s => s.callStack x) (s.wakeHbm.emit (.hostRead (s.part p).servPort l.host l.length))
  let a := l.first * 2 ^ 20
  let r := if allPages l.first l.pages (s.imagePageOk p) && l.length ≤ l.pages * 2 ^ 20 then
      s.writeBytes (s.gwOf p) p .desc none {} bs a (linesFrom a bs.length) 0
    else (0, none, s)
  match r with
  | (_, some st, s) => let x := descStatus st; s.finish p d.d x.1 x.2
  | (_, none, s) => s.modPart p fun b => { b with loading := some l }

/-- The loading record of a descriptor and the bytes that it names. -/
def loadingOf (d : Desc) (kernel : Bool) (bs : List Byte) : Loading :=
  let l : Loading :=
    { d := d.d, kernel, host := d.field 8 8, length := d.field 0x10 8, first := d.field 0x18 4, pages := d.field 0x1C 4
      seed := if kernel then BitVec.ofNat 64 (d.field 0x20 8) else 0, limit := if kernel then d.field 0x28 8 else 0 }
  match readImage kernel (slice bs 0 l.length) with
  | .ok b => { l with image := { b with imageFirst := l.first, imagePages := l.pages } }
  | .error v => { l with verdict := some v }

/-- LOAD_BUNDLE copies a bundle into its image pages. The operand is the bundle in host memory. It waits while another image is being
loaded. -/
def execLoadBundle (p : PartId) (n : Nat) (bs : List Byte) (s : State) : Res :=
  .next (if (s.part p).loading.isSome then s
    else s.withDesc p n 0x01 fun d s =>
      let len := d.field 0x10 8
      let b := s.part p
      s.guardStop p d (d.clean [(8, 24)] && 4096 ≤ len && len ≤ 2 ^ 32) fun s =>
        if b.kernel.isSome || !b.runs.isEmpty then s.finish p d.d 2
        else s.loadImage p d (slice bs 0 len) (loadingOf d false bs))

/-- Admission of the bundle that was loaded: refused by the first check that fails, else it replaces any bundle loaded before. It waits while a
region has no power, and while the loader's frame table is away (R168, R348, R647). -/
def execBundleAdmission (p : PartId) (s : State) : Res :=
  .next (match (s.part p).loading with
    | none => s
    | some l =>
      if l.kernel || s.loaderDown then s
      else if !s.allPowered p then forEach (s.stacksOf p) (fun x s => s.callStack x) s
      else
        let s0 := s.modPart p fun b => { b with loading := none }
        State.sweepBad p 256 (match s.admission p l with
          | some (st, det) => s0.finish p l.d st det
          | none => (((s0.snapBefore p).modPart p fun b => { b with bundle := some l.image }).settle p).finish p l.d 0))

/-! ### Cores at a start (R218, R239, R288) -/

/-- The state of one generator (R288). -/
def seedOf (seed : BitVec 64) (g t : Nat) : BitVec 64 := seed ^^^ (BitVec.ofNat 64 (g * 64 + t) * 0xD1B54A32D192ED03)

/-- A convoy at a start: cleared, seeded, at its entry point, or idle without one. -/
def Convoy.begin (seed : BitVec 64) (g : CoreId) (h : Fin 2) (entry : Option Nat) : Convoy :=
  { stack := [0xFFFFFFFF]
    gens := (List.range 32).foldl (fun m t => kput 0 m t (seedOf seed g.val (32 * h.val + t))) []
    pc := entry.getD 0, run := if entry.isSome then .running else .idle, started := entry.isSome }

/-- A core at a start; its banks are kept. -/
def Core.begin (k : Core) (seed : BitVec 64) (g : CoreId) (x : Program) : Core :=
  { c0 := .begin seed g 0 x.entry0, c1 := .begin seed g 1 x.entry1, split80 := x.split80
    bankA := k.bankA, bankB := k.bankB, active := k.active, digest := k.digest, nextLoaded := k.nextLoaded }

/-- The place of a core among the cores of a stack mask, and of a cluster among its clusters (R547). -/
def stackRank (m : BitVec 16) (x : StackId) : Nat := ((List.range x.val).filter fun i => hasBit m i).length

/-- The program that a set gives a core. -/
def Bundle.progOf (b : Bundle) (set : Nat) (g : CoreId) : Option Program :=
  b.progs[((b.sets.getD set [])[1536 * stackRank b.stks (coreStack g) + g.val % 1536]?).getD 0xFFFFFFFF]?

/-- The barriers of a cluster at a start (R239). -/
def Bundle.barriersOf (b : Bundle) (set : Nat) (x : StackId) (c : ClusterNo) : KMap Barrier :=
  let l := (b.tables.getD set []).getD (96 * stackRank b.stks x + c.val) []
  (List.range 4).foldl (fun m i => kput {} m i { participants := BitVec.ofNat 6 (l.getD i 0) }) []

/-- The instructions of a program, read from the image pages by the loader of a stack (R228, R546). -/
def State.readProgram (s : State) (p : PartId) (b : Bundle) (x : StackId) (tag : BitVec 8) (q : Program) :
    Option (List (BitVec 64)) × State :=
  let a := b.imageFirst * 2 ^ 20 + q.off
  match s.readBytes (stackEp x) p .core tag none {} [] a (linesFrom a (8 * q.count)) with
  | (bs, none, s) => (some ((List.range q.count).map fun i => BitVec.ofNat 64 (field bs (8 * i) 8)), s)
  | (_, some _, s) => (none, s)

/-- The cores of a cluster. -/
def coresOfCluster (x : StackId) (c : ClusterNo) : List CoreId := (List.finRange 16).map fun n => coreOf x c n

/-- The clusters of a stack that stand on mapped regions (R27). -/
def State.clustersOf (s : State) (x : StackId) : List ClusterNo := (List.finRange 96).filter fun c => (s.physOf x c).isSome

/-! ### Free-run (R230, R237, R245) -/

/-- FREE_RUN loads a kernel image. The operand is the image in host memory. It waits while another image is being loaded. -/
def execFreeRun (p : PartId) (n : Nat) (bs : List Byte) (s : State) : Res :=
  .next (if (s.part p).loading.isSome then s
    else s.withDesc p n 0x0A fun d s =>
      let len := d.field 0x10 8
      let b := s.part p
      let lim := d.field 0x28 8
      s.guardStop p d (d.clean [(8, 0x28)] && 4096 ≤ len && len ≤ 2 ^ 32 && 1 ≤ lim && lim ≤ 2 ^ 40) fun s =>
        if b.kernel.isSome || b.bundle.isSome then s.finish p d.d 2
        else s.loadImage p d (slice bs 0 len) (loadingOf d true bs))

/-- Load one core's program into both banks and start it; nothing changes where its program cannot be read. -/
def State.launchCore (s : State) (p : PartId) (l : Loading) (g : CoreId) : State × Bool :=
  match l.image.progOf 0 g with
  | none => (s, true)
  | some q =>
    match s.readProgram p l.image (coreStack g) 0 q with
    | (none, s) => (s, false)
    | (some w, s) =>
      (s.modCore g fun k => { k.begin l.seed g q with
        bankA := w.take 4096, bankB := w.drop 4096, active := 0, digest := [], nextLoaded := false }, true)

/-- The clusters of a partition on mapped regions, with their stacks. -/
def State.clusterPairs (s : State) (p : PartId) : List (StackId × ClusterNo) :=
  (s.stacksOf p).foldl (fun l x => l ++ (s.clustersOf x).map fun c => (x, c)) []

/-- Load and start the cores of clusters, one after another, and whether every program could be read. -/
def State.launchAll (s : State) (p : PartId) (l : Loading) (cs : List (StackId × ClusterNo)) : State × Bool :=
  cs.foldl (fun (r : State × Bool) xc =>
    (coresOfCluster xc.1 xc.2).foldl (fun (r : State × Bool) g =>
      let (s, ok) := r.1.launchCore p l g
      (s, r.2 && ok)) r) (s, true)

/-- The clock-stopped regions of a partition start their clocks (R40, R167). -/
def State.startClocks (s : State) (p : PartId) : State := forEach (s.stacksOf p) (fun x s => s.wakeStack x) s

/-- The kernel launches once its regions have power: every core with an entry point begins (R40, R230, R237, R239). An image that fails its
checks, or a program that cannot be read, ends the descriptor. -/
def execFreeRunKernelLaunch (p : PartId) (s : State) : Res :=
  .next (match (s.part p).loading with
    | none => s
    | some l =>
      if !l.kernel || s.loaderDown then s
      else if !s.allPowered p then forEach (s.stacksOf p) (fun x s => s.callStack x) s
      else
        let s := s.startClocks p
        let s0 := s.modPart p fun b => { b with loading := none }
        State.sweepBad p 256 (match s.admission p l with
          | some (st, det) => s0.finish p l.d st det
          | none =>
            let cs := s.clusterPairs p
            let (s1, ok) := s0.launchAll p l cs
            if !ok then s0.finish p l.d 0x0B stTimeout.toNat
            else
              let s1 := forEach (s.stacksOf p) (fun x s => s.setModes x 2) s1
              let s1 := forEach cs (fun xc s => s.modCluster xc.1 xc.2 fun k =>
                { k with mode := 2, barriers := l.image.barriersOf 0 xc.1 xc.2 }) s1
              let k : Kernel := { d := l.d, image := l.image, seed := l.seed, limit := l.limit, launch := some (s.copyNow (s.gwOf p)) }
              let s1 := (s1.modPart p fun b => { b with kernel := some k }).settle p
              if s1.allHalted p then (s1.endKernel p 0 0).settle p else s1))

/-- The tick limit of a kernel has elapsed: every core stops (R237). -/
def execFreeRunTickLimit (p : PartId) (s : State) : Res :=
  .next (match (s.part p).kernel with
    | some k =>
      if k.launch.any fun t => t + k.limit ≤ s.copyNow (s.gwOf p) then State.sweepBad p 256 ((s.endKernel p 0x10 0).settle p) else s
    | none => s)

/-! ### RUN_PERIODS (R549) -/

/-- Whether the repetitions of a run keep the gap of check 6 (R549). -/
def Run.repeatsOk (r : Run) (b : Bundle) : Bool :=
  r.repeats ≤ 1 || match r.entries, r.entries.getLast? with
    | x :: _, some y => y.start + y.length + gapAfter (b.outs.getD y.outs []) ≤ r.stride + x.start
    | _, _ => true

/-- Whether a run starts late enough after the last deadline of every run accepted earlier (R549). -/
def Run.afterOk (r q : Run) (b : Bundle) : Bool :=
  q.total = 0 || q.deadlineOf (q.total - 1) + gapAfter (b.outs.getD (q.entry (q.total - 1)).outs []) ≤ r.startOf 0

/-- RUN_PERIODS: the timing checks, and the run is accepted; of runs accepted earlier the periods that started and those still to start count, not those
that STOP took back (log 38). It waits for an earlier LOAD_BUNDLE, and while a STOP is to unload the
bundle. An entry count of 0, or entries past the period table, for which the spec names no status, is malformed (R539, R549; DESIGN CHOICE,
log 72). -/
def execRunPeriods (p : PartId) (n : Nat) (s : State) : Res :=
  .next (if (s.part p).loading.any (fun l => !l.kernel) || (s.part p).stopping.any (·.2) then s
    else s.withDesc p n 0x02 fun d s =>
      let b := s.part p
      let now := s.copyNow (s.gwOf p)
      let first := d.field 0x10 4
      let count := d.field 0x14 4
      s.guardStop p d (d.clean [(8, 0x14), (0x20, 8)] && 0 < count && 0 < d.field 0x18 4 &&
          b.bundle.all fun k => first + count ≤ k.periods.length) fun s =>
        match b.bundle with
        | none => s.finish p d.d 2
        | some k =>
          let r : Run :=
            { d := d.d, base := if d.field 8 8 = 0 then now + 20000 else d.field 8 8, entries := (k.periods.drop first).take count
              repeats := d.field 0x18 4, stride := d.field 0x20 8 }
          if r.startOf 0 < now + 20000 || !r.repeatsOk k || r.startOf 0 < b.gapEnd || b.runs.any (fun q => q.cut.isNone && !r.afterOk q k) then s.finish p d.d 3 9
          else (s.modPart p fun b => { b with runs := b.runs ++ [r] }).settle p)

/-! ### STOP (R556) -/

/-- STOP starts no later period, fails the running one where it is immediate, and stops a kernel; it completes when every core has
stopped. -/
def execStopWork (p : PartId) (n : Nat) (s : State) : Res :=
  .next (s.withDesc p n 0x03 fun d s =>
    if !(d.clean [(8, 1)] && d.byte 8 < 4) then s.finish p d.d 1
    else
      let now := s.copyNow (s.gwOf p)
      let s := if d.byte 8 % 2 = 1 then s.failPeriod p { status := 0x07, detail := 0, core := 0xFFFF, tick := now } else s
      let s := s.endKernel p 0x07 0
      let s := match (s.part p).loading with
        | some l => if l.kernel then (s.modPart p fun b => { b with loading := none }).finish p l.d 0x07 else s
        | none => s
      let s := s.cutRuns p 0x07 0
      (s.modPart p fun b => { b with stopping := b.stopping ++ [(d.d, decide (d.byte 8 / 2 = 1))] }).settle p)

end Sys2Proof.Machine
end

