-- ==== Sys2Proof/Machine/Records.lean ====
section
/-!
DEFINITION. The signed records in flash: their bytes, the checks of step 3, the sections that apply, and the field overlay that Pyhiet writes
(R4, R177 to R182, R312).
-/

namespace Sys2Proof.Machine

/-! ### Bytes (R178, R179) -/

/-- The bytes of a section; those of sections 0x0005 to 0x0007 have no layout in the spec (log 6). -/
def FlashRec.section_ (r : FlashRec) (t : Nat) : List Byte :=
  match t with
  | 1 => r.maps.flatMap fun m => leBytes 16 m.toNat
  | 2 => r.repairs.flatMap fun e => leBytes 1 e.stack.val ++ leBytes 1 e.region.val ++ leBytes 2 e.failed ++ leBytes 2 e.spare ++ leBytes 2 0
  | 3 => r.spares.flatMap fun e => leBytes 1 e.lane.stack.val ++ leBytes 1 e.lane.bundle ++ leBytes 2 e.lane.lane ++ leBytes 2 e.spare ++ leBytes 2 0
  | 4 => r.ucie.flatMap fun e => leBytes 1 e.cls ++ leBytes 1 e.unit ++ leBytes 2 0 ++ leBytes 8 e.ident.toNat ++ leBytes 2 e.tx.toNat ++
      leBytes 2 e.rx.toNat
  | 5 => Config.sectionBytes 5 (r.calib.flatMap fun e => e.ep.val :: e.bias :: e.rings.flatMap fun k => [k.1, k.2.toNat])
  | 6 => Config.sectionBytes 6 (r.trims.flatMap fun e => [e.rail, e.low, e.high, e.code])
  | 7 => r.sites.flatMap fun e => Config.sectionBytes 7 [e.tile.val, e.psite, e.mv] ++ e.digest
  | 8 => r.out.flatMap fun e => leBytes 1 e.cls.toNat ++ leBytes 1 e.num ++ leBytes 2 e.cause.toNat ++ leBytes 4 e.start
  | _ => []

/-- Every byte before the signature. -/
def FlashRec.signed (r : FlashRec) : List Byte :=
  leBytes 4 r.magic.toNat ++ leBytes 2 r.version.toNat ++ leBytes 2 r.dir.length ++ leBytes 8 r.serial.toNat ++ leBytes 4 r.part.toNat ++
    leBytes 4 r.length ++ leBytes 8 r.seq ++ slice r.base 0 48 ++ slice r.rsv 0 16 ++
    (r.dir.flatMap fun d => leBytes 4 d.typ ++ leBytes 4 d.off ++ leBytes 4 d.len ++ leBytes 4 d.rsv) ++ r.dir.flatMap fun d => r.section_ d.typ

/-- The SHA-384 of a structure, signature included. -/
def FlashRec.digest (r : FlashRec) : List Byte := Config.sha384 (r.signed ++ slice r.sig 0 96)

/-! ### The checks of step 3 (R178 to R181, R312) -/

def FlashRec.has (r : FlashRec) (t : Nat) : Bool := r.dir.any fun d => d.typ = t

/-- The length that a section of a type has, where the spec gives one. -/
def FlashRec.lenOk (r : FlashRec) (d : DirRec) : Bool :=
  match d.typ with
  | 1 => d.len = 256
  | 2 => d.len = 8 * r.repairs.length
  | 3 => d.len = 8 * r.spares.length
  | 4 => d.len = 16 * r.ucie.length
  | 8 => d.len = 8 * r.out.length
  | _ => true

/-- The bank of a row and of a spare row: 0 to 15 for the slices, 16 for the pool (R312). -/
def rowBank (row : Nat) : Nat := min 16 (row / 1024)
def spareBank (k : Nat) : Nat := min 16 (k / 8)

/-- A valid header and directory, cluster maps of exactly 96 clusters, and ML repairs within their bank. An overlay may lack a cluster map, and
the record may not; a section of an unknown type, or one given twice, makes the structure fail; the spec says neither (R178 to R181, R312; DEDUCED,
log 65). -/
def FlashRec.wellFormed (r : FlashRec) (overlay : Bool) : Bool :=
  let n := r.dir.length
  r.magic = (if overlay then 0x4D524F46 else 0x4D524341) && r.version = 1 && 1 ≤ n && n ≤ 32 && r.part.toNat ≤ 1 && r.rsv.all (· = 0) &&
  (overlay || (r.seq = 0 && r.base.all (· = 0) && r.has 1)) &&
  (r.dir.all fun d => 1 ≤ d.typ && d.typ ≤ 8 && d.rsv = 0 && dirEnd n ≤ d.off && d.off + d.len + 96 ≤ r.length && r.lenOk d) &&
  decide (r.dir.map (·.typ)).Nodup &&
  (!r.has 1 || (r.maps.length = 16 && r.maps.all fun m => popCount (m.setWidth 100) = 96)) &&
  (!r.has 2 || r.repairs.all fun e => rowBank e.failed = spareBank e.spare)

/-- The copy of the assembly record that verifies first; bits 0 and 1 of the operand tell whose signature does (R181). -/
def Boot.pickRecord (b : Boot) (sigOk : BitVec 4) : Option Bool :=
  let ok (r : FlashRec) (i : Nat) : Bool := r.wellFormed false && hasBit sigOk i && r.serial = b.serial
  if ok b.recA 0 then some false else if ok b.recB 1 then some true else none

/-- The overlay of highest sequence that verifies against a record; bits 2 and 3 of the operand tell whose signature does (R181). -/
def Boot.pickOverlay (b : Boot) (sigOk : BitVec 4) (rec : FlashRec) : Option Bool :=
  let ok (o : Option FlashRec) (i : Nat) : Option FlashRec :=
    o.filter fun r => r.wellFormed true && r.base = rec.digest && hasBit sigOk i
  match ok b.overlayA 2, ok b.overlayB 3 with
  | some x, some y => some (x.seq < y.seq : Bool)
  | some _, none => some false
  | none, some _ => some true
  | none, none => none

/-- The sections in force: an overlay's in place of the record's, type by type (R179, R181). -/
def FlashRec.onto (o rec : FlashRec) : FlashRec :=
  let pick (t : Nat) : FlashRec := if o.has t then o else rec
  { rec with
    seq := o.seq, maps := (pick 1).maps, repairs := (pick 2).repairs, spares := (pick 3).spares, ucie := (pick 4).ucie, calib := (pick 5).calib
    trims := (pick 6).trims, sites := (pick 7).sites, out := (pick 8).out }

/-- The record and the overlay that this start applied. -/
def Boot.record (b : Boot) : Option FlashRec := b.recUse.map fun i => if i then b.recB else b.recA
def Boot.overlay (b : Boot) : Option FlashRec := b.overlayUse.bind fun i => if i then b.overlayB else b.overlayA

/-! ### The overlay (R177, R182, R185, R335, R492) -/

/-- Two lists with the same members. -/
def sameMembers {α : Type} [DecidableEq α] (a b : List α) : Bool := a.all b.contains && b.all a.contains

/-- The choices of this start: the cluster maps, ML repairs and spare lanes in force, and the elements out of service. -/
def State.mapsNow (s : State) : List (BitVec 128) := allStacks.map fun x => ((s.stack x).cmap).setWidth 128
def State.repairsNow (s : State) : List RepairRec :=
  s.regions.flatMap fun k => k.2.repairs.map fun c =>
    { stack := ⟨k.1 / 100 % 16, by omega⟩, region := ⟨k.1 % 100, by omega⟩, failed := c.1, spare := c.2 }

/-- Section 0x0004 with the lane repairs of the modules that are up (R177, R179, R498). -/
def State.ucieNow (s : State) (l : List UcieRec) : List UcieRec :=
  l.map fun e => if (s.ucieMod e.unit).up then { e with tx := (s.ucieMod e.unit).repairs.1, rx := (s.ucieMod e.unit).repairs.2 } else e

/-- Whether the choices differ from some sections. -/
def State.differs (s : State) (r : FlashRec) : Bool :=
  s.ucieNow r.ucie ≠ r.ucie || s.mapsNow ≠ r.maps || !sameMembers s.repairsNow r.repairs || !sameMembers s.bt.spares r.spares ||
    s.bt.oosList.any fun e => e.cls = 0x01 && !r.out.any fun o => o.cls = e.cls && o.num = e.num

/-- Pyhiet writes a new overlay when the choices differ from those applied, or from the overlay it has written since: into the slot that does not
hold the applied one, with the next sequence and the record's digest, signed by the module's identity (R177, R178, R182). -/
def State.writeOverlay (s : State) : State :=
  match s.bt.record, s.bt.applied with
  | some rec, some base =>
    let toB := s.bt.overlayUse = some false
    let last := if s.bt.overlayNew.isSome then (if toB then s.bt.overlayB else s.bt.overlayA).getD base else base
    if !s.differs last then s
    else
      let old := s.bt.overlay
      let keep (t : Nat) : Bool := (old.map (·.has t)).getD false
      let o : FlashRec :=
        { rec with
          magic := 0x4D524F46, seq := (s.bt.overlayNew.getD base.seq) + 1, base := rec.digest, maps := s.mapsNow, repairs := s.repairsNow
          spares := s.bt.spares, ucie := s.ucieNow base.ucie, calib := base.calib, trims := base.trims, sites := base.sites, out := s.bt.oosList }
      let types := [1, 2, 3, 8] ++ [4, 5, 6, 7].filter fun t => keep t || (t = 4 && s.ucieNow base.ucie ≠ rec.ucie)
      let n := types.length
      let dir : List DirRec := types.foldl (fun (l : List DirRec) (t : Nat) =>
        let at_ := l.foldl (fun (m : Nat) (d : DirRec) => max m (d.off + d.len)) (dirEnd n)
        l ++ [{ typ := t, off := at_, len := (o.section_ t).length, rsv := 0 }]) []
      let o := { o with dir, length := dir.foldl (fun (m : Nat) (d : DirRec) => max m (d.off + d.len)) (dirEnd n) + 96 }
      let o := { o with sig := Config.identitySign o.signed }
      { s with bt := if toB then { s.bt with overlayB := some o, overlayNew := some o.seq }
                     else { s.bt with overlayA := some o, overlayNew := some o.seq } }
  | _, _ => s

end Sys2Proof.Machine
end

