-- ==== Sys2Proof/Machine/Periods.lean ====
section
/-!
DEFINITION. The life of a period: program loading and starts (R228, R229, R239), parts of outputs (R551), deadlines (R241), flips,
judgements and confirmation (R350, R552 to R557), the seal that begins at confirmation (R580, R581), and the period's control packets (R453).
-/

namespace Sys2Proof.Machine

/-! ### Clusters that stop -/

/-- An operation that a core of a cluster issued. -/
def RemOp.ofCluster (o : RemOp) (x : StackId) (c : ClusterNo) : Bool :=
  match o.issuer with
  | .convoy u => u.g.val / 16 = clusterKey x c
  | .copy g _ => g.val / 16 = clusterKey x c
  | _ => false

/-- The cores of a cluster stop as at a deadline, and the cluster leaves its period (R241). -/
def State.stopCluster (s : State) (x : StackId) (c : ClusterNo) : State :=
  let s := { s with cores := kmapIf {} s.cores (fun k => k / 16 = clusterKey x c) Core.stop }
  (s.modCluster x c fun k =>
    { k with mode := 0, period := 0, start := 0, deadline := 0, tag := 0, done := k.period }).dropOps fun o => o.ofCluster x c

/-! ### Programs (R228) -/

/-- A bank of a core. -/
def Core.bank (k : Core) (b : Fin 2) : List (BitVec 64) := if b = 0 then k.bankA else k.bankB

/-- Whether a bank holds a program. -/
def Core.holds (k : Core) (b : Fin 2) (q : Program) : Bool := kget 0 k.digest b.val = q.digest && (k.bank b).length = q.count

/-- The next period of a partition, noticed and not started. -/
def Part.nextPeriod (b : Part) : Option Period := b.periods.find? fun x => x.stage = .noticed

/-- The loader of a core's cluster fetches the next period's program into the inactive bank, unless the active bank holds the same
(R228); a region that sleeps is called first (R40). A program that cannot be read is not loaded. -/
def execProgramFetch (g : CoreId) (s : State) : Res :=
  let x := coreStack g
  .next (match s.partOfStack x with
    | none => s
    | some p =>
      let b := s.part p
      match b.bundle, b.nextPeriod with
      | some k, some n =>
        match k.progOf n.set g with
        | none => s
        | some q =>
          let other := (s.core g).active + 1
          if (s.core g).holds (s.core g).active q || ((s.core g).nextLoaded && (s.core g).holds other q) || (s.stack x).cdLost then s
          else if !s.awakeAt x (coreCluster g) then s.callCluster x (coreCluster g)
          else match s.readProgram p k x (periodTag n.no) q with
            | (none, s) => s
            | (some w, s) => s.modCore g fun c =>
              { c with bankA := if other = 0 then w else c.bankA, bankB := if other = 0 then c.bankB else w
                       digest := kput 0 c.digest other.val q.digest, nextLoaded := true }
      | _, _ => s)

/-! ### Starts (R229, R239, R552) -/

/-- A named core at a start tick: with its program in the active bank it begins, with the next one loaded the banks swap, else it is cleared and
seeded without an entry point, RF is set and the period fails (R228, R229, R239). -/
def State.startCore (s : State) (k : Bundle) (n : Period) (g : CoreId) : State :=
  match k.progOf n.set g with
  | none => s
  | some q =>
    let c := s.core g
    if c.holds c.active q then s.modCore g fun c => c.begin n.seed g q
    else if c.nextLoaded && c.holds (c.active + 1) q then
      s.modCore g fun c => { c.begin n.seed g q with active := c.active + 1, nextLoaded := false }
    else ((s.modCore g fun c => c.begin n.seed g { q with entry0 := none, entry1 := none }).modCv ⟨g, 0⟩ fun v =>
      { v with flags := v.flags ||| 0x400 }).failWork g 0x400

/-- Whether the region of a cluster has power. -/
def State.hasPower (s : State) (x : StackId) (c : ClusterNo) : Bool :=
  (s.physOf x c).any fun p => (s.region x p).depth = .awake || (s.region x p).depth = .clockStopped

/-- The period that a cluster is to start: its tick has come, its region has power, and the cluster has not ended it (R159, R239). -/
def State.toStart (s : State) (p : PartId) (x : StackId) (c : ClusterNo) : Option Period :=
  let now := s.clusterNow x c
  let k := s.cluster x c
  if k.mode ≠ 0 || !s.hasPower x c || (s.stack x).cdLost || (s.part p).work ≠ .scheduled then none
  else (s.part p).periods.find? fun n =>
    n.stage ≠ .ended && n.start ≤ now && now < n.deadline && n.no ≠ k.done && !hasBit n.failSeen (tileOfStack x).val

/-- The clock of a cluster's region starts where it stands and the period names a core of the cluster (R40, R168). -/
def State.wakeNamed (s : State) (x : StackId) (k : Bundle) (n : Period) (c : ClusterNo) : State :=
  match s.physOf x c with
  | some r =>
    if (s.region x r).depth = .clockStopped && (coresOfCluster x c).any (fun g => (k.progOf n.set g).isSome) then s.runClock x r else s
  | none => s

/-- A cluster copy reaches a start tick: the period starts, the next one is noticed, and the cluster's cores begin (R40, R239, R550, R552). -/
def execPeriodStart (x : StackId) (c : ClusterNo) (s : State) : Res :=
  .next (match s.partOfStack x with
    | none => s
    | some p =>
      match s.toStart p x c, (s.part p).bundle with
      | some n, some k =>
        let low := s.capOver (s.stacksOf p)
        let s := if n.stage = .noticed then
            ((s.modPeriods p (·.no = n.no) fun y => { y with stage := .running, lowCap := low }).modPart p fun b =>
              { b with nextNo := n.no + 1, gapEnd := max b.gapEnd (n.deadline + gapAfter n.outs) })
          else s
        let s := s.modCluster x c fun cl =>
          { cl with mode := 1, period := n.no, start := n.start, deadline := n.deadline, tag := periodTag n.no
                    barriers := k.barriersOf n.set x c }
        (forEach (coresOfCluster x c) (fun g s => s.startCore k n g) (s.wakeNamed x k n c)).settle p
      | _, _ => s)

/-- 1,000 ticks before a start the clocks of the regions that its programs name start (R168). -/
def execScheduledWake (p : PartId) (s : State) : Res :=
  let b := s.part p
  .next (match b.bundle, b.nextPeriod with
    | some k, some n =>
      if n.start ≤ s.copyNow (s.gwOf p) + 1000 then
        forEach (s.stacksOf p) (fun x s => forEach (s.clustersOf x) (fun c s => s.wakeNamed x k n c) s) s
      else s
    | _, _ => s)

/-! ### Parts of outputs (R551) -/

/-- Whether an OUT.DONE of a core takes effect: earlier remote operations of its convoy have completed, and every block of every earlier
copy of the core has been acknowledged. -/
def State.outRipe (s : State) (g : CoreId) (o : Fin 2 × Nat × Nat) : Bool :=
  let k := s.core g
  !(s.ops.any fun q => q.issuer = .convoy ⟨g, o.1⟩ && q.serial < o.2.2) && (k.queue ++ k.flying).all fun d => o.2.2 ≤ d.id

/-- A core's part of an output is complete at a tick: it counts once, whichever convoy reports (R551). -/
def State.report (s : State) (g : CoreId) (out tick : Nat) : State :=
  match s.partOfStack (coreStack g) with
  | none => s
  | some p =>
    let no := (s.cluster (coreStack g) (coreCluster g)).period
    s.modPeriods p (fun n => n.no = no && n.stage = .running) fun n =>
      if !(n.outs.any (·.number = out)) || n.reports.any (fun r => r.out = out && r.core = g.val) then n
      else { n with reports := n.reports ++ [{ out, core := g.val, tick }] }

/-- The reports of a core that take effect now. -/
def State.takeOuts (s : State) (g : CoreId) : State :=
  let l := (s.core g).outs.filter (s.outRipe g)
  let s := s.modCore g fun k => { k with outs := k.outs.filter fun o => !l.contains o }
  if (s.cluster (coreStack g) (coreCluster g)).mode = 1 then
    forEach l (fun o s => s.report g o.2.1 (s.clusterNow (coreStack g) (coreCluster g))) s
  else s

def execOutputPartComplete (g : CoreId) (s : State) : Res :=
  .next (if (s.core g).outs.isEmpty then s else s.takeOuts g)

/-! ### Deadlines (R241, R557) -/

/-- A cluster copy reaches its deadline: issue stops. Parts that take effect in the deadline tick still count (R43, R241, R557). -/
def execDeadline (x : StackId) (c : ClusterNo) (s : State) : Res :=
  let k := s.cluster x c
  .next (if k.mode = 1 && k.deadline ≤ s.clusterNow x c then
      let s := if s.clusterNow x c = k.deadline then
          forEach (coresOfCluster x c) (fun g s => if (s.core g).outs.isEmpty then s else s.takeOuts g) s
        else s
      let s := s.stopCluster x c
      match s.partOfStack x with
      | some p => s.endPeriods p
      | none => s
    else s)

/-! ### Flips and confirmation (R350, R553) -/

/-- The declared output pages of a period. -/
def Period.pages (n : Period) : List Nat := n.outs.foldl (fun l o => l ++ (List.range o.pages).map (o.first + ·)) []

/-- A replica changes the version select of every output page of a period; the copies that it serves see another version (R350, R352). -/
def State.flipTile (s : State) (t : TileId) (n : Period) : State :=
  if hasBit s.pm.repDown t.val then s
  else { s with pm := s.pm.modRep t fun m => n.pages.foldl (fun m q => kmod 0 m q eFlip) m : State }.flipCopies n.pages.contains (some t)

/-- Change one period of a partition. -/
def State.modPeriod (s : State) (p : PartId) (no : Nat) (f : Period → Period) : State := s.modPeriods p (·.no = no) f

/-- From D + 1 a replica flips the output pages, 64 entries a tick: the flip is complete. Endpoints forget the partition's entries
(R350). -/
def execCommitFlip (p : PartId) (t : TileId) (s : State) : Res :=
  let now := s.copyNow (hubEp t)
  .next (match (s.part p).periods.find? fun n =>
      n.stage = .ended && !hasBit n.flipped t.val && !hasBit n.failSeen t.val && !hasBit n.decided t.val &&
      n.deadline + max 1 ((n.pages.length + 63) / 64) ≤ now with
    | none => s
    | some n => (((s.flipTile t n).modPeriod p n.no fun y => { y with flipped := putBit y.flipped t.val true }).forget p.val).pump)

/-- The completion tick of the last output of a period (R43, R551). -/
def Period.lastTick (n : Period) : Nat := n.reports.foldl (fun k r => max k r.tick) 0

/-- The cause that a period's record shows: the first row of R555 that applies, and for a failing flag the earliest, then the lowest core
(R244). -/
def Period.cause (n : Period) : Option PFail :=
  let least := n.fails.foldl (fun m f => min m f.status) 8
  (n.fails.filter (·.status = least)).foldl (fun (a : Option PFail) f =>
    match a with
    | none => some f
    | some g => if f.tick < g.tick || (f.tick = g.tick && f.core < g.core) then some f else some g) none

/-- The completion record of a decided period, before any seal (R543, R555). A period without a declared output has no last output, so
its margin is open. -/
def State.periodCompl (s : State) (p : PartId) (n : Period) (committed : Bool) : Compl :=
  let base : Compl := { d := n.d, last := n.last, status := 0, detail := 0, lowCap := n.lowCap, value := n.no % 2 ^ 32, tick := n.deadline }
  if committed then
    { base with margin := if n.outs.isEmpty then (s.freeBits 16).toNat else min 65535 (n.deadline - n.lastTick) }
  else match n.cause with
    | some f => { base with status := f.status, detail := f.detail, core := f.core }
    | none => { base with status := 6, detail := s.causeOf p }

/-- The sealed pages of a period with their entries, in leaf order (R580). -/
def State.sealPages (s : State) (n : Period) : List (Nat × BitVec 64) :=
  let outs := (List.range 256).foldl (fun l k => l ++ n.outs.filter fun o => o.isSealed && o.number = k) []
  outs.foldl (fun l o => l ++ (List.range o.pages).map fun i => (o.first + i, s.mapEntry (o.first + i))) []

/-- Every replica has decided: Last commit, and the record or the seal that it waits for (R552, R555, R581). -/
def State.decideAll (s : State) (p : PartId) (n : Period) : State :=
  let committed := hasBit n.confirmed (s.servTile (s.gwOf p)).val
  let c := s.periodCompl p n committed
  let s := if committed && n.outs.isEmpty then s.tookFree else s
  let s := if committed then s.modPart p fun b => { b with lastCommit := n.no } else s
  let s :=
    if committed && n.outs.any (·.isSealed) then s.modPart p fun b =>
      { b with sealing := b.sealing ++ [{ period := n.no, pages := s.sealPages n, digest := n.digest, hashed := false, root := [], compl := c
                                          outs := n.outs.foldl (fun m o => if o.isSealed then putBit m o.number true else m) 0 }] }
    else s.modPeriod p n.no fun y => { y with compl := some c }
  s.settle p

/-- At K a replica confirms the flip, or reverts it when it has received PERIOD_FAIL or its hub has lost an endpoint of the partition
(R553). A replica in reset decides nothing. -/
def execConfirmationTick (p : PartId) (t : TileId) (s : State) : Res :=
  let now := s.copyNow (hubEp t)
  .next (match (s.part p).periods.find? fun n => n.stage = .ended && !hasBit n.decided t.val && n.deadline + 3300 ≤ now with
    | none => s
    | some n =>
      let bad := hasBit n.failSeen t.val || hasBit n.lossSeen t.val
      let s := if bad = hasBit n.flipped t.val then (s.flipTile t n).forget p.val else s
      let down := hasBit s.pm.repDown t.val
      let n' := { n with decided := putBit n.decided t.val true, confirmed := putBit n.confirmed t.val (!bad && !down) }
      let whole := n'.decided ||| s.pm.repDown = 0xF
      let n' := { n' with decided := if whole then 0xF else n'.decided }
      let s := s.modPeriod p n.no fun _ => n'
      let s := if whole then State.sweepBad p 256 (s.decideAll p n') else s
      forEach allEps (fun e s => if (s.ep e).stalled.isEmpty then s else s.retryStalled e) s.pump)

/-! ### Judgements and failures (R453, R552) -/

/-- Whether every part of every output on a stack completed by the deadline (R551, R552). -/
def Period.stackComplete (n : Period) (x : StackId) : Bool :=
  n.outs.all fun o => (o.contrib.getD x.val 0) ≤
    (n.reports.filter fun r => r.out = o.number && r.core / 1536 = x.val && r.tick ≤ n.deadline).length

/-- A stack endpoint's PERIOD_FAIL to the gateway (R552). -/
def State.stackFail (s : State) (p : PartId) (x : StackId) (n : Period) : State :=
  s.sendCtl (stackEp x) (s.gwOf p) .periodFail (.fail (periodTag n.no) n.deadline) p

def execStackJudgement (x : StackId) (s : State) : Res :=
  .next (match s.partOfStack x with
    | none => s
    | some p =>
      match (s.part p).periods.find? fun n =>
          n.stage ≠ .noticed && !hasBit n.judged x.val && n.deadline + 14 ≤ s.copyNow (stackEp x) with
      | none => s
      | some n =>
        let s := s.modPeriod p n.no fun y => { y with judged := putBit y.judged x.val true }
        if n.stackComplete x || (s.stack x).cdLost then s
        else (s.modPeriod p n.no fun y =>
          { y with incomplete := putBit y.incomplete x.val true, sentFail := y.sentFail ++ [(stackEp x, s.now, 1)] }).stackFail p x n)

/-- A PERIOD_FAIL is sent again 100 and 200 ticks after its first sending (R552). -/
def execPeriodFailRepeat (e : EpId) (p : PartId) (s : State) : Res :=
  let due (y : EpId × Nat × Nat) : Bool := y.1 = e && y.2.2 < 3 && y.2.1 + 100 * y.2.2 ≤ s.now
  .next (match (s.part p).periods.find? fun n => n.sentFail.any due with
    | none => s
    | some n =>
      let s := s.modPeriod p n.no fun z =>
        { z with sentFail := z.sentFail.map fun y => if due y then (y.1, y.2.1, y.2.2 + 1) else y }
      match epStack e with
      | some x => s.stackFail p x n
      | none =>
        let tick := (n.fails.head?.map (·.tick)).getD n.deadline
        s.sendAll e .periodFail (.fail (periodTag n.no) tick) p)

/-- PERIOD_NOTICE: the endpoint accepts the tag (R453). -/
def execPeriodNotice (a : Arr) (tag : BitVec 8) (start deadline : Nat) (s : State) : Res :=
  .next (s.arriveCtl a .periodNotice (.notice tag start deadline) fun s => s.acceptTag a.rx a.h.part { tag, start, deadline })

/-- What a PERIOD_FAIL does at its endpoint: the tag is no longer accepted; a stack's cores stop; a hub's replica will revert; a gateway that hears a
stack's judgement fails the period. An output incomplete at D is a case of R555 only for a period that nothing failed before: R244 has the record
name the flag, although the outputs of a stopped period are incomplete too (R244, R453, R552, R553; DEDUCED, log 38). -/
def State.hearFail (s : State) (e : EpId) (p : PartId) (n : Period) (from_ : EpId) (tick : Nat) : State :=
  let s := s.modEp e fun x =>
    { x with tags := kmod {} x.tags p.val fun t => { t with wins := t.wins.filter (·.tag ≠ periodTag n.no) } }
  match epStack e, epHub e, epPort e with
  | some x, _, _ =>
    if !hasBit (s.part p).stackMask x.val then s
    else
      let s := forEach (s.clustersOf x) (fun c s =>
        if (s.cluster x c).mode = 1 && (s.cluster x c).period = n.no then s.stopCluster x c
        else s.modCluster x c fun k => { k with done := max k.done n.no }) s
      s.endPeriods p
  | _, some t, _ => (s.modPeriod p n.no fun y => { y with failSeen := putBit y.failSeen t.val true }).pump
  | _, _, some _ =>
    if from_.val < 16 && n.fails.isEmpty && e = s.gwOf p then
      s.failNo p n.no { status := 0x04, detail := 0, core := 0xFFFF, tick }
    else s
  | _, _, _ => s

/-- PERIOD_FAIL; one that comes after K is ignored, with an error event (R553). -/
def execPeriodFail (a : Arr) (tag : BitVec 8) (tick : Nat) (s : State) : Res :=
  .next (s.arriveCtl a .periodFail (.fail tag tick) fun s =>
    let p := a.h.part
    if (s.part p).block ≠ .committed then s
    else match (s.part p).periods.find? fun n => n.stage ≠ .noticed && periodTag n.no = tag with
      | some n =>
        if n.deadline + 3300 ≤ s.copyNow a.rx then s.ev 0xB006 err 0x0E p.val (some p) (BitVec.ofNat 96 a.rx.val)
        else State.sweepBad p 256 (s.hearFail a.rx p n a.h.origin tick)
      | none => s.ev 0xB006 err 0x0E p.val (some p) (BitVec.ofNat 96 a.rx.val))

/-! ### March tests end (R311, R312, R333 to R336) -/

/-- The spare rows of the bank that holds a row, in rising order (R312). -/
def sparesOf (row : Nat) : List Nat :=
  if row < 16384 then (List.range 8).map (row / 1024 * 8 + ·) else (List.range 32).map (128 + ·)

/-- One failed row of a region: the lowest free spare row of its bank that passes takes its place, and where a spare already stood for the row that
spare has failed and is never used; with no spare left the region is unrepairable (R335,
R336). -/
def State.repairRow (s : State) (x : StackId) (r : RegionNo) (row : Nat) : State :=
  let s := s.modRegion x r fun g => { g with
    badSpares := g.badSpares ++ ((g.repairs.filter fun e => e.1 = row).map (·.2)).filter fun k => !g.badSpares.contains k
    repairs := g.repairs.filter fun e => e.1 ≠ row }
  let g := s.region x r
  let used := g.repairs.map (·.2)
  match (sparesOf row).find? fun k => !used.contains k && !g.badSpares.contains k with
  | none => s.modRegion x r fun g => { g with unrepairable := true }
  | some k =>
    let s := s.modRegion x r fun g => { g with repairs := g.repairs ++ [(row, k)] }
    let s := s.modStack x fun t => { t with marchBuf := t.marchBuf + 1 }
    s.ev 0x5002 warn 0x09 (100 * x.val + r.val) (s.partOfStack x)
      (BitVec.ofNat 96 (row + 65536 * k))

/-- What a march found on a stack: spare rows that failed are never used; then each failed row. A destructive march ends with a clear
(R333, R335). -/
def State.marchStack (s : State) (x : StackId) (keep : Bool) (m : MarchResult) : State :=
  let s := forEach m.badSpares (fun e s => s.modRegion x e.1 fun g =>
    { g with badSpares := if g.badSpares.contains e.2 then g.badSpares else g.badSpares ++ [e.2]
             repairs := g.repairs.filter fun q => q.2 ≠ e.2 }) s
  let s := forEach m.failed (fun e s => s.repairRow x e.1 e.2) s
  if keep then s
  else { s with ml := memZero s.ml (x.val * 2 ^ 29) (2 ^ 29), mlBad := s.mlBad.filter fun w => w / 2 ^ 26 ≠ x.val }

/-- The first unrepairable region of some stacks, as a completion record names it (R543). -/
def State.firstUnrepairable (s : State) (l : List StackId) : Nat :=
  ((l.foldl (fun a x => a ++ ((List.finRange 100).filter fun r => (s.region x r).unrepairable).map fun r => x.val * 4096 + r.val) []).head?).getD
    0xFFFF

/-- The march ends on a stack, and its repairs join the field overlay; the request completes when it has ended on every stack named (R177, R335,
R336, R539). -/
def execMarchDone (x : StackId) (m : MarchResult) (s : State) : Res :=
  .next (match (s.stack x).marching with
    | none => s
    | some keep =>
      let s := (((s.marchStack x keep m).modStack x fun t => { t with marching := none }).writeOverlay).retryStalled (stackEp x)
      match s.partOfStack x with
      | none => s
      | some p =>
        match (s.part p).descs.find? fun d => d.d.typ = 0x0C && d.accepted && (maskStacks (d.field 8 2)).contains x with
        | none => s
        | some d =>
          let l := maskStacks (d.field 8 2)
          if l.any fun y => (s.stack y).marching.isSome then s
          else
            let rows := l.foldl (fun n y => n + (s.stack y).marchBuf) 0
            State.sweepBad p 256 (s.finish p d.d 0 0 rows (s.firstUnrepairable l)))

end Sys2Proof.Machine
end

