-- ==== Sys2Proof/Machine/Guard.lean ====
section
/-!
DEFINITION. What the thermal guard and the thermal model hold: the readings of the on-die sensors and of the remote diodes, and the effective
temperatures (R81, R83, R108 to R112, R128, R130). Temperatures are in quarter degrees, as R108 reads them.
-/

namespace Sys2Proof.Machine

/-! ### Readings -/

/-- The number under which a sensor's reading is kept. -/
def sensKey : SensorId → Nat
  | .cd x p => 100 * x.val + p.val
  | .ml x p => 2000 + 100 * x.val + p.val
  | .base t i => 4000 + 32 * t.val + i.val
  | .mp k i => 5000 + 4 * k.val + i.val
  | .hg t i => 5100 + 4 * t.val + i.val
  | .ls e => 5200 + e.val

/-- Element class and number of a sensor's element (R609). -/
def sensElem : SensorId → BitVec 8 × Nat
  | .cd x _ => (0x01, x.val)
  | .ml x _ => (0x02, x.val)
  | .base t _ => (0x03, t.val)
  | .mp k _ => (0x04, 16 + k.val)
  | .hg t _ => (0x06, 24 + t.val)
  | .ls e => (0x07, e.val)

/-- The last reading of a sensor and raw estimate of a region, 25 °C before the first. -/
def State.sens (s : State) (c : SensorId) : Int := kget 100 s.th.sens (sensKey c)
def State.raw (s : State) (c : SensorId) : Int := kget 100 s.th.est (sensKey c)

/-- Whether the sensors of a region are suspect: only ML regions are ever declared so (R122). -/
def State.suspectAt (s : State) : SensorId → Bool
  | .ml x p => kget false s.th.suspect (regionKey x p)
  | _ => false

/-- The estimate that the throttle rules use: the trimmed one in whole quarter degrees (R111; log 48). -/
def State.estimate (s : State) (c : SensorId) : Int := (s.raw c * 250000 + kget 0 s.th.trim (sensKey c)) / 250000

/-- The effective temperature of a region (R112, R122). -/
def State.effective (s : State) (c : SensorId) : Int := if s.suspectAt c then s.raw c else max (s.sens c) (s.estimate c)

/-- The pair of a region's die among the remote diodes (R59). -/
def diodeOf : SensorId → Option Nat
  | .cd x _ => some x.val
  | .ml x _ => some (16 + x.val)
  | .base t _ => some (32 + t.val)
  | _ => none

/-- The highest on-die sensor of the die of a diode pair (R59, R128). -/
def State.dieSensor (s : State) (i : Fin 36) : Int :=
  if i.val < 16 then (List.finRange 100).foldl (fun m p => max m (s.sens (.cd ⟨i.val % 16, by omega⟩ p))) 0
  else if i.val < 32 then (List.finRange 100).foldl (fun m p => max m (s.sens (.ml ⟨i.val % 16, by omega⟩ p))) 0
  else (List.finRange 32).foldl (fun m k => max m (s.sens (.base ⟨i.val % 4, by omega⟩ k))) 0

/-! ### The diodes (R81, R83, R109, R128) -/

end Sys2Proof.Machine

/-- The command that powers the module off, which wins over a restart of the same tick wherever it stands in the queue (R131). -/
def Sys2Proof.Instr.isPwrenOff : Sys2Proof.Instr → Bool
  | .modPwrenOff => true
  | _ => false

/-- A reading that the guard discards: a forward voltage outside 0.3 to 0.9 V, or a two-current difference that is implausible for the die
(R83; log 6). -/
def Sys2Proof.DiodeRead.discarded (r : Sys2Proof.DiodeRead) : Bool :=
  r.mv < 300 || 900 < r.mv || r.mv2 < 300 || 900 < r.mv2 || !Sys2Proof.Config.plausible r.pair.val r.diffUv

namespace Sys2Proof.Machine

/-- One pair's reading; the third discard in a row declares the pair faulted. -/
def State.readDiode (s : State) (r : DiodeRead) : State :=
  let i := r.pair
  if hasBit s.th.diodeFault i.val then s
  else if !r.discarded then
    { s with th := { s.th with diode := kput 100 s.th.diode i.val r.quarter, diodeBad := kput 0 s.th.diodeBad i.val 0
                               diodeRead := putBit s.th.diodeRead i.val true } }
  else
    let n := kget 0 s.th.diodeBad i.val + 1
    if n < 3 then { s with th := { s.th with diodeBad := kput 0 s.th.diodeBad i.val n } }
    else { s with th := { s.th with diodeBad := kput 0 s.th.diodeBad i.val n, diodeFault := putBit s.th.diodeFault i.val true
                                    diodeFlags := putBit s.th.diodeFlags i.val true } }.ev 0x1005 err 0x0F i.val

/-- Whether every diode has been read and reads below 70 °C; the highest on-die sensor stands in for a faulted pair (R128, R130). -/
def State.allCool (s : State) : Bool :=
  (List.finRange 36).all fun i =>
    if hasBit s.th.diodeFault i.val then s.dieSensor i < 280
    else hasBit s.th.diodeRead i.val && kget 100 s.th.diode i.val < 280

/-- A frame begins: its readings, and since when every diode has read below 70 °C. -/
def State.readFrame (s : State) (l : List DiodeRead) : State :=
  let s := l.foldl State.readDiode s
  { s with th := { s.th with
    frameAt := some s.now
    coolSince := if s.allCool then some (s.th.coolSince.getD s.now) else none } }

/-- Every diode has read below 70 °C throughout 30 s (R128). -/
def State.cool30 (s : State) : Bool := s.th.coolSince.any fun t => t + 30000000000 ≤ s.now

end Sys2Proof.Machine
end

