-- ==== Sys2Proof/Machine/Recorder.lean ====
section
/-!
DEFINITION. The event recorder's flash log, rate limits, freeze and clear (R622 to R629), and the ageing estimator (R610 to R613).
-/

namespace Sys2Proof.Machine

/-! ### The flash log (R627) -/

/-- Append slots to the circular log of 65,536. -/
def appendLog (l : List LogSlot) (n : List LogSlot) : List LogSlot := (l ++ n).drop ((l ++ n).length - 65536)

/-- Set the flushed bit of the held entries that a list names by sequence. -/
def markFlushed (w l : List RecEntry) : List RecEntry :=
  l.map fun e => if w.any (fun x => x.seq = e.seq) then { e with flushed := true } else e

/-- Entries written to the log: the copies in flash and the held entries carry the flushed bit. -/
def Recorder.written (r : Recorder) (w : List RecEntry) : Recorder :=
  { r with log := appendLog r.log (w.map fun e => .entry { e with flushed := true })
           entries := markFlushed w r.entries, hold := markFlushed w r.hold, flushes := satInc r.flushes }

/-- The held entries that no write has put in flash, but for the fatal ones that wait for their own. -/
def Recorder.unflushed (r : Recorder) : List RecEntry :=
  r.entries.filter fun e => !e.flushed && !(r.fatalQ.map (·.seq)).contains e.seq

/-- The daily means of every whole day from the hourly samples, newest first, over the stored ones (R611). -/
def dailyMeans (hours : List (Nat × Int)) (old : List (Nat × Int)) : List (Nat × Int) :=
  let newest := hours.foldl (fun m h => max m h.1) 0
  let days := (hours.map (·.1 / 24)).eraseDups.filter fun d => 24 * d + 23 ≤ newest
  let mean (d : Nat) : Int :=
    let l := (hours.filter fun h => h.1 / 24 = d).map (·.2)
    l.foldl (· + ·) 0 / (l.length : Int)
  ((days.map fun d => (d, mean d)) ++ old.filter fun o => !days.contains o.1).take 30

/-- The daily means go to flash with each ten-minute write (R611, R627). -/
def Ageing.writeDaily (a : Ageing) : Ageing :=
  { a with daily := a.hourly.foldl (fun m h => kput [] m h.1 (dailyMeans h.2 (kget [] m h.1))) a.daily }

/-- An orderly shutdown writes what no write has put in flash (R64, R627). -/
def State.flushAll (s : State) : State :=
  { s with evr := { s.evr with fatalQ := [], flashing := [] }.written (s.evr.fatalQ ++ s.evr.unflushed)
           age := s.age.writeDaily }

/-- The entries of the log after its newest marker. -/
def logTail (l : List LogSlot) : List RecEntry :=
  l.foldl (fun a x => match x with
    | .marker => []
    | .entry e => a ++ [e]) []

/-- The recorder reads its log when VAON comes up after a power cycle (R628). -/
def State.restoreLog (s : State) : State :=
  let l := logTail s.evr.log
  let (r, n) := l.foldl (fun (a : Recorder × Nat) e =>
    if a.1.entries.any fun x => x.seq = e.seq then a
    else
      let (es, ok) := placeIn 16384 a.1.entries { e with restored := true }
      ({ a.1 with entries := es, dropped := if ok then a.1.dropped else satInc a.1.dropped }, a.2 + 1)) (s.evr, 0)
  let top := l.foldl (fun m e => max m e.seq) 0
  { s with evr := { r with seq := top } }.ev 0x0003 info 0 0 none (BitVec.ofNat 96 (n + top * 2 ^ 32))

/-- The ten-minute write of the Milestone count begins, once in each: every entry not yet in flash (R627). -/
def execFlashFlush (s : State) : Res :=
  .next (if s.on && s.evr.flashing.isEmpty && s.now / 600000000000 ≠ s.evr.lastFlush / 600000000000 then
    { s with evr := { s.evr with flashing := s.evr.unflushed, lastFlush := s.now } }
  else s)

/-- A flash write ends, well or not: a fatal entry first, then the entries of the flush, then a clear's marker and entry (R627, R629). -/
def execFlashWriteDone (ok : Bool) (status : BitVec 32) (s : State) : Res :=
  let r := s.evr
  let bad (r : Recorder) : State :=
    { s with evr := { r with failed := satInc r.failed } }.ev 0x0004 err 0 0 none (status.setWidth 96)
  .next (if !s.on then s
    else match r.fatalQ, r.flashing, r.clearQ with
    | e :: q, _, _ => if ok then { s with evr := { r with fatalQ := q }.written [e] } else bad { r with fatalQ := q }
    | [], e :: l, _ =>
      if ok then { s with evr := { r with flashing := [] }.written (e :: l), age := s.age.writeDaily } else bad { r with flashing := [] }
    | [], [], some e =>
      if ok then { s with evr := { r with clearQ := none, log := appendLog r.log [.marker] }.written [e] } else bad r
    | [], [], none => if ok then { s with age := s.age.writeDaily } else bad r)

/-! ### Rate limits and the freeze (R623 to R626) -/

/-- Each second of the Milestone count, every code with suppressions is reported and its count returns to 0 (R623). -/
def execSuppressionReport (s : State) : Res :=
  .next (if s.on && s.now / 1000000000 ≠ s.evr.lastSecond then
    let l := s.evr.suppressed
    let s := { s with evr := { s.evr with suppressed := [], lastSecond := s.now / 1000000000 } }
    l.foldl (fun s c => s.ev 0x0002 info 0 0 none (BitVec.ofNat 96 (c.1 + c.2 * 2 ^ 32))) s
  else s)

/-- A freeze ends: the queued entries are placed in sequence order (R625). -/
def Recorder.thaw (r : Recorder) : Recorder :=
  r.hold.foldl (fun r e =>
    let (l, ok) := placeIn 16384 r.entries e
    { r with entries := l, dropped := if ok then r.dropped else satInc r.dropped }) { r with frozen := false, hold := [] }

/-- Whether a read of the recorder comes in this tick: it is served, and extends the freeze (R629). -/
def State.readNow (s : State) : Bool :=
  s.pending.any fun i => match i with
    | .recorderRead v _ n k => v.m.dest = s.pyh.eid && !v.m.full && n ≠ 0 && n.toNat ≤ 32 && k.toNat ≤ 1
    | _ => false

def execFreezeTimeout (s : State) : Res :=
  .next (if s.on && s.evr.frozen && !s.readNow && s.evr.freezeTick + 1000000000 ≤ s.now then { s with evr := s.evr.thaw } else s)

/-- RECORDER_CLEAR: the freeze ends, recorder and queue are emptied, and entry 0x0001 is recorded and waits behind its marker for flash
(R626, R629). -/
def State.clearRecorder (s : State) (digest8 : BitVec 64) : State :=
  let n := s.evr.entries.length + s.evr.hold.length
  let s := { s with evr := { s.evr with entries := [], hold := [], frozen := false } }
  let s := s.ev 0x0001 warn 0 0 none (BitVec.ofNat 96 (n + digest8.toNat * 2 ^ 32))
  { s with evr := { s.evr with clearQ := s.evr.entries.getLast?, clearTick := some s.now } }

/-! ### The ageing estimator (R610 to R613) -/

/-- Limit, in thousandths, and adverse direction (true: up) of an indicator (R610). -/
def ageLimit (i : Nat) : Int × Bool :=
  match i with
  | 1 => (10000, false)
  | 2 => (100, false)
  | 3 => (4000, false)
  | 4 => (100, false)
  | 5 => (1000000, true)
  | _ => (150, false)

/-- Element class of an indicator (R610). -/
def ageClass (i : Nat) : BitVec 8 :=
  match i with
  | 1 => 0x07
  | 2 => 0x08
  | 5 => 0x05
  | 6 => 0x0B
  | _ => 0x01

/-- The points of a fit, in half hours: the hourly samples of the last 30 days, and the middle of each day that has none (R612). -/
def agePoints (now : Nat) (hours days : List (Nat × Int)) : List (Int × Int) :=
  let hs := hours.filter fun h => now < h.1 + 720
  (hs.map fun h => ((2 * (h.1 : Int)), h.2)) ++
    (days.filter fun d => now < 24 * d.1 + 720 && !hs.any fun h => h.1 / 24 = d.1).map fun d => (48 * (d.1 : Int) + 23, d.2)

/-- Days remaining of an element (R612). -/
def daysRemaining (i : Nat) (pts : List (Int × Int)) (v : Int) : Nat :=
  let (lim, up) := ageLimit i
  let hi := pts.foldl (fun m p => max m p.1) (pts.headD (0, 0)).1
  let lo := pts.foldl (fun m p => min m p.1) (pts.headD (0, 0)).1
  if hi - lo < 336 then 0xFFFF
  else if (if up then lim ≤ v else v ≤ lim) then 0
  else
    let n : Int := pts.length
    let sx := pts.foldl (fun a p => a + p.1) 0
    let sy := pts.foldl (fun a p => a + p.2) 0
    let sxy := pts.foldl (fun a p => a + p.1 * p.2) 0
    let sxx := pts.foldl (fun a p => a + p.1 * p.1) 0
    let num := n * sxy - sx * sy
    let den := n * sxx - sx * sx
    if den ≤ 0 || num = 0 || (decide (0 < num) != up) then 0xFFFE
    else min 65533 (((lim - v).natAbs * den.natAbs) / (48 * num.natAbs))

/-- One sample of one element, its prediction and its two events of a start (R611 to R613). -/
def State.ageOne (s : State) (hour : Nat) (x : Nat × Nat × Int) : State :=
  let (i, n, v) := x
  let k := 65536 * i + n
  let hours := ((hour, v) :: (kget [] s.age.hourly k).filter fun h => h.1 ≠ hour).take 720
  let d := daysRemaining i (agePoints hour hours (kget [] s.age.daily k)) v
  let s := { s with age := { s.age with hourly := kput [] s.age.hourly k hours, days := kput 0 s.age.days k ((d + 1) % 65536) } }
  let detail := BitVec.ofNat 96 (i + (BitVec.ofInt 32 v).toNat * 2 ^ 32 + d * 2 ^ 64)
  let s := if d ≤ 180 && !kget false s.age.warned k then
      { s with age := { s.age with warned := kput false s.age.warned k true } }.ev 0xF001 warn (ageClass i) n none detail else s
  if d = 0 && !kget false s.age.reached k then
    { s with age := { s.age with reached := kput false s.age.reached k true } }.ev 0xF002 err (ageClass i) n none detail else s

/-- The hour of a sample in the numbering of the daily means. -/
def State.hourNow (s : State) : Nat := s.age.base + s.now / 3600000000000

/-- The smallest of a list of values, if there is one. -/
def leastOf : List Int → Option Int
  | [] => none
  | v :: r => some (r.foldl min v)

/-- The smallest headroom at lock, in µW, over the rings of an endpoint: the modulator of a lane it sends on and the drop ring of one it receives
on (R610). -/
def State.heaterRoom (s : State) (e : EpId) : Option Int :=
  let room (p : Nat) : List Int := if p = 0 then [] else [(min p (2000 - p) : Nat)]
  leastOf (s.lanes.flatMap fun k =>
    (if (laneOfKey k.1).rcv = e then room k.2.lockAt.1 else []) ++ if (laneOfKey k.1).snd = e then room k.2.lockAt.2 else [])

/-- The smallest margin over the active regions of a CD, scaled to 1.50 GHz and to 0.90 V: the replica paths are a fixed delay at one supply
(R156, R610; DEDUCED, log 71). -/
def State.marginRoom (s : State) (x : StackId) : Option Int :=
  leastOf ((List.finRange 100).flatMap fun p =>
    let r := s.region x p
    let (f, v) := r.marginAt
    if !hasBit (s.stack x).cmap p.val || r.depth ≠ .awake || f = 0 then []
    else
      let k := regionKey x p
      let (a, b) := if v = 900 then (1, 1) else (Config.replicaMhz k v, Config.replicaMhz k 900)
      [100000 - (100000 - r.margin) * 1500 * a / (f * b : Nat)])

/-- The smallest passing range over the groups and fixed bundles of a stack (R495, R610). -/
def State.eyeRoom (s : State) (x : StackId) : Option Int :=
  leastOf ((s.bt.eyes.filter fun c => c.1.stack = x).map fun c => ((c.2 : Nat) : Int))

/-- The hourly sample, once in each hour of the Milestone count: from the readings of the lasers and of the UCIe modules in service, and from the
heaters, margins, ranges and HBM error counts that the module holds; an element out of service keeps its values. Nothing while Pyhiet restarts
(R594, R610, R611, R629). -/
def execAgeingSample (r : AgeReadings) (s : State) : Res :=
  let count (h : Nat) : Nat := kget 0 (s.die ⟨h / 2 % 8, by omega⟩).eccCount (h % 2)
  let some_ (i n : Nat) (v : Option Int) : List (Nat × Nat × Int) := match v with
    | some v => [(i, n, v)]
    | none => []
  let stks := allStacks.filter fun x => !(s.stack x).oos
  let l := (allEps.filterMap fun e => (r.lasers.find? fun q => q.1 = e).map fun q => (1, e.val, q.2)) ++
    allEps.flatMap (fun e => some_ 2 e.val (s.heaterRoom e)) ++ stks.flatMap (fun x => some_ 3 x.val (s.marginRoom x)) ++
    stks.flatMap (fun x => some_ 4 x.val (s.eyeRoom x)) ++
    (((List.range 16).filter fun h => hasBit (s.die ⟨h / 2 % 8, by omega⟩).trained (h % 2)).map fun h =>
      (5, h, ((count h - kget 0 s.age.eccLast h) * 1000 : Int))) ++
    (r.ucie.filter fun q => (s.ucieMod q.1.val).up).map fun q => (6, q.1.val, q.2)
  let hour := s.now / 3600000000000
  .next (if s.on && s.pyh.up && !s.pyh.restarting && hour ≠ s.age.lastHour then
    let s' := l.foldl (fun s x => s.ageOne s.hourNow x) s
    { s' with
      ageBefore := some (s.now, s.age)
      age := { s'.age with lastHour := hour, eccLast := (List.range 16).foldl (fun m h => kput 0 m h (count h)) s'.age.eccLast } }
  else s)

end Sys2Proof.Machine
end

