-- ==== Sys2Proof/Machine/Power.lean ====
section
/-!
DEFINITION. The power states of the module: what a module reset, a loss of the core rails and a power-down clear (R62, R127, R164, R188,
R633), the start of a start-up (R100, R172), MOD_PWREN, MOD_RESET_N and STEWARD_SEL (R63 to R72), the input response (R95, R96) and the
rails (R101).
-/

namespace Sys2Proof.Machine

/-! ### What is cleared -/

/-- What an endpoint holds in the always-on island, the counts that only a power cycle clears, and the ageing of its laser. -/
def EpState.fresh (x : EpState) : EpState :=
  { epoch := x.epoch + 1, laserWarned := x.laserWarned, laserEol := x.laserEol, lostCw := x.lostCw, discards := x.discards }

/-- A new rate and burst: a bucket keeps the tokens it has gained, cut to the burst (R623, R634). -/
def Recorder.setLimit (r : Recorder) (now rate burst : Nat) : Recorder :=
  let cut (code : Nat) : Bucket := { level := min (burst * 1000000000) (r.level code now), at_ := now }
  { r with rate, burst, buckets := r.buckets.map fun b => (b.1, cut b.1)
           idle := { level := min (burst * 1000000000) (min (r.burst * 1000000000) (r.idle.level + (now - r.idle.at_) * r.rate)), at_ := now } }

/-- Debug is locked: an unlock ends, and a debug instruction in effect with it (R85, R569). -/
def Pyhiet.relock (p : Pyhiet) : Pyhiet := { p with tempDebug := false, jtag := if p.jtag = .debug then .idcode else p.jtag }

/-- The module reset domain is reset: all die state, setup registers but the time block, page map, partitions, HBM3 contents, sessions and
the attestation key; what lies in the always-on domain stays (R188, R415, R417, R561, R584, R616, R633). -/
def State.moduleReset (s : State) : State :=
  let s := forEach allPorts (fun t s => if s.ptmOn t && (s.port t).linkUp then s.sourceLost else s) s
  let s := forEach allParts (fun p s => (s.part p).sealing.foldl (fun s _ => s.ev 0xC005 err 0x0E p.val (some p)) s) s
  { s with
    stks := [], clusters := [], cores := []
    regions := kmapIf {} s.regions (fun _ => true) fun r => { mlErrors := r.mlErrors, unrepairable := r.unrepairable }
    eps := allEps.foldl (fun m e => kput {} m e.val (s.ep e).fresh) []
    dies := kmapIf {} s.dies (fun _ => true) fun d => { eccCount := d.eccCount }
    links := [], lanes := kmapIf {} s.lanes (fun _ => true) fun k => { fails := k.fails, corrected := k.corrected }
    hbm := [], ml := [], mlBad := [], hbmBad := [], pm := {}, ops := [], tails := [], parts := []
    ports := kmapIf {} s.ports (fun _ => true) fun q =>
      { perstHigh := q.perstHigh, refclk := q.refclk, powerStable := q.powerStable, clkWarned := q.clkWarned, poisonTick := q.poisonTick
        discardTick := q.discardTick, refuseTick := q.refuseTick }
    stewA := { gen := s.stewA.gen }, stewB := { gen := s.stewB.gen }, groups := 0, holder := 0
    ucie := [], ringSeg := [], sites := []
    th := { s.th with tThr := 95, capW := 7500, diodeFlags := 0, suspect := [], hotSince := [], caps := [], mlCaps := [], force := []
                      mlForce := [] }
    evr := s.evr.setLimit s.now 16 64
    pyh := { s.pyh.relock with maintEnable := false, attKey := 0, side := {}, activating := false } }

/-- The core rails are cut: every die outside the always-on domain loses its state, and the lasers go dark (R126, R127, R164, R386). -/
def State.coreLoss (s : State) : State :=
  let s := s.moduleReset
  { s with pw := { s.pw with rails := false }, bt := { s.bt with laserLit := 0, busy := 0, ended := 0 } }

/-- VAON stops: what is left is the flash, the pins, the model's own fields, and the condition "Start-up failed", which R73 releases at the next
successful start alone (R62, R73, R137, R178, R570, R611, R627). -/
def State.powerDown (s : State) (ph : Phase) : State :=
  { now := s.now
    pw := { phase := ph, jpower := s.pw.jpower, input := s.pw.input, vinCv := s.pw.vinCv, pwren := s.pw.pwren, resetN := s.pw.resetN
            selPin := s.pw.selPin, failed := s.pw.failed, waitTrip := s.pw.waitTrip || s.pw.tripped || s.pw.limited }
    bt := { isX := s.bt.isX, serial := s.bt.serial, recA := s.bt.recA, recB := s.bt.recB, overlayA := s.bt.overlayA
            overlayB := s.bt.overlayB, startCount := s.bt.startCount }
    evr := { log := s.evr.log }
    age := { daily := s.age.daily }
    pyh := { slotA := s.pyh.slotA, slotB := s.pyh.slotB, marker := s.pyh.marker, floor := s.pyh.floor, keySerial := s.pyh.keySerial
             pendNext := s.pyh.pendNext, livePrev := s.pyh.livePrev }
    ports := kmapIf {} s.ports (fun _ => true) fun q => { perstHigh := q.perstHigh, refclk := q.refclk }
    nextOp := s.nextOp, out := s.out, free := s.free, pending := s.pending }

/-! ### The beginning of a start (R172) -/

/-- STEWARD_SEL is sampled, for a start whose one warning is still to come (R71, R72). -/
def State.sampleStraps (s : State) : State :=
  { s with pw := { s.pw with steward := s.pw.selPin.toFin, sampled := true, selWarned := false } }

/-- The tiles whose lasers are lit: those whose VLAS is on (R386). -/
def State.vlasOn (s : State) : BitVec 4 :=
  allTiles.foldl (fun m t => putBit m t.val (!s.pw.railFaults.contains (4, t.val))) 0

/-- A start begins at its first step; while MOD_RESET_N is low it waits for the release (R68, R172). A start for which VAON does not come up
anew samples the straps as it begins (R71, R173; DEDUCED, log 74). Bit k of the step masks is step k. -/
def State.beginStart (s : State) (kind : StartKind) : State :=
  let s := if kind = .thermal || kind = .refReturn then
      (if s.pw.resetN then s.sampleStraps else { s with pw := { s.pw with sampled := false } }) else s
  { s with
    pw := { s.pw with phase := if s.pw.resetN then .starting else .held, rails := true, tripped := false, waitCool := false
                      tripPin := false, waitTrip := false, railFaults := [] }
    bt := { s.bt with kind, origin := s.now, ended := 0, busy := if kind = .warm then 0b100 else 0b10, repeated := 0, failStep := 0
                      oosList := [], isolated := [], commanded := [], wholeReset := 0, stayOut := [], recUse := none, overlayUse := none, overlayNew := none, applied := none
                      firstTry := [], spares := [], badVSpares := [], eyeWarned := []
                      laserLit := if kind = .warm then s.vlasOn else s.bt.laserLit }
    th := { s.th with inletFault := false }
    age := { s.age with warned := [], reached := [] }
    pyh := { s.pyh with
      unlockSeen := false, pendNext := false, liveTick := if s.pyh.pendNext then some s.now else s.pyh.liveTick
      liveWd := if s.pyh.pendNext then 0 else s.pyh.liveWd } }

/-- VAON comes up after a power cycle: the master count starts from 0, the log is restored, the straps are sampled unless MOD_RESET_N is low,
and the guard reads its first frame. The start begins once every diode has read below 70 °C, for 30 s where the module was in the trip
state (R71, R100, R130, R137, R628). -/
def State.powerUp (s : State) (kind : StartKind) (f : List DiodeRead) : State :=
  let days := s.age.daily.foldl (fun m k => k.2.foldl (fun m d => max m (d.1 + 1)) m) 0
  let s := { s with on := true, now := 0, age := { s.age with base := 24 * days } }.restoreLog
  let s := if s.pw.resetN then s.sampleStraps else s
  let s := { s with pw := { s.pw with phase := .waitCool, waitCool := true }, bt := { s.bt with kind } }.readFrame f
  if s.allCool && !s.pw.waitTrip then s.beginStart kind else s

/-- Every diode has read below 70 °C for 30 s: a counted restart, or the start that a command or a power cycle waits for (R128 to R130). After a
trip the input must be back in range too, and a fall of MOD_PWREN in the same tick wins (R131). Without the TCXO the restart waits for it
(R164). -/
def State.autoRestart (s : State) : State :=
  if !s.cool30 || s.pending.any Instr.isPwrenOff then s
  else if s.pw.phase = .tripped && !s.pw.limited then
    if s.pw.input ≠ .inRange then s
    else
      let s := { s with pw := { s.pw with restarts := s.pw.restarts ++ [s.now] } }
      if s.tm.tcxo then s.beginStart .thermal
      else { s with pw := { s.pw with phase := .tcxoLost, tripped := false, tripPin := false, failed := true }, bt := { s.bt with failStep := 1 } }
  else if s.pw.phase = .waitCool then s.beginStart s.bt.kind
  else s

/-- A start that fails: only the always-on domain, Pyhiet, the I3C target and the gateways' configuration response run (R186). -/
def State.startFail (s : State) (step : Nat) : State :=
  { s with pw := { s.pw with phase := .startFailed, failed := true }, bt := { s.bt with failStep := step, busy := 0 } }

/-! ### MOD_PWREN (R63 to R67) -/

/-- MOD_PWREN is accepted high. The operand is the guard's first frame (R130). -/
def execModPwrenOn (f : List DiodeRead) (s : State) : Res :=
  .next (if !s.pw.jpower then s
    else
      let s := { s with pw := { s.pw with pwren := true } }
      if s.pw.phase = .off && s.pw.input = .inRange then s.powerUp .cold f else s)

/-- An orderly shutdown begins: start-up is abandoned, and every trained HBM3 stack is placed in self-refresh (R64, R66). -/
def State.beginShutdown (s : State) : State :=
  { s with
    pw := { s.pw with phase := .shutdown }
    bt := { s.bt with busy := 0 }
    dies := kmapIf {} s.dies (fun _ => true) fun d => { d with selfRef := d.selfRef ||| d.trained } }

/-- Whether the module is in a state that an orderly shutdown ends. -/
def Phase.runs (p : Phase) : Bool := p = .starting || p = .ready || p = .startFailed || p = .held || p = .tcxoLost

/-- MOD_PWREN is accepted low (R64, R66, R131). -/
def execModPwrenOff (s : State) : Res :=
  .next (if !s.pw.jpower then s
    else
      let s := { s with pw := { s.pw with pwren := false } }
      if s.pw.phase.runs then s.beginShutdown
      else if s.pw.phase = .tripped || s.pw.phase = .waitCool then s.powerDown .off
      else if s.pw.phase = .inputStopped then { s with pw := { s.pw with phase := .off } }
      else s)

/-- The orderly shutdown ends; after a trip, or before Pyhiet has booted, only the fatal entries reach the flash. A start follows where
MOD_PWREN is high again and the input in range; its kind is "cold" where the input came back while the shutdown of R95 still ran, which the
spec leaves open (R64 to R66, R95, R131; DESIGN CHOICE, log 64). The operand is the guard's first frame after it. -/
def execOrderlyShutdownDone (f : List DiodeRead) (s : State) : Res :=
  .next (if s.pw.phase ≠ .shutdown then s
    else
      let s := if s.pw.tripped || !s.pyh.up then { s with evr := { s.evr with fatalQ := [] }.written s.evr.fatalQ } else s.flushAll
      let s := s.powerDown (if s.pw.input = .stopped && s.pw.pwren then .inputStopped else .off)
      if s.pw.pwren && s.pw.input = .inRange then s.powerUp .cold f else s)

/-! ### MOD_RESET_N and STEWARD_SEL (R68 to R72) -/

/-- Whether a destructive march that a start owes has not ended (R174, R204). -/
def State.marchOpen (s : State) : Bool :=
  (s.bt.kind ≠ .warm || s.bt.marchOwed) && !hasBit s.bt.ended 7

/-- MOD_RESET_N is accepted low: the module reset domain is reset and held, in every state with power; a trip, a shutdown and a wait for
cool dies go on (R68 to R70, R204). -/
def execModResetAssert (s : State) : Res :=
  let s := { s with pw := { s.pw with resetN := false }
                    pyh := { s.pyh with extest := decide (s.pyh.jtag = JtagIr.extest) || decide (s.pyh.jtag = JtagIr.pinDriving) } }
  .next (if !s.on then s
    else match s.pw.phase with
    | .starting | .startFailed =>
      let s := { s.moduleReset with bt := { s.bt with marchOwed := s.marchOpen, busy := 0 } }
      { s with pw := { s.pw with phase := .held } }
    | .ready =>
      let s := s.moduleReset
      { s with pw := { s.pw with phase := .held } }
    | _ => s.moduleReset)

/-- MOD_RESET_N is released: the start waiting at step 1 goes on, or a warm start begins at step 2; the straps are sampled where they were not
when VAON came up, or anew for the warm start. In every state with power the gateways then follow their PERST_N (R68 to R71). -/
def execModResetRelease (s : State) : Res :=
  let s := { s with pw := { s.pw with resetN := true }, pyh := { s.pyh with extest := false } }
  .next (if !s.on then s
    else if s.pw.phase = .waitCool then s.sampleStraps.portsFollow
    else if s.pw.phase ≠ .held then s.portsFollow
    else if hasBit s.bt.busy 1 then
      { s with pw := { s.pw with phase := .starting }, bt := { s.bt with origin := s.now } }.sampleStraps.portsFollow
    else (s.beginStart .warm).sampleStraps.portsFollow)

/-- STEWARD_SEL changes: without effect until the next start, with one warning a start once the pins are sampled (R71, R72). -/
def execStewardSelChange (v : BitVec 2) (s : State) : Res :=
  let sampled := s.on && s.pw.sampled
  let s' := { s with pw := { s.pw with selPin := v, selWarned := s.pw.selWarned || (sampled && v ≠ s.pw.selPin) } }
  .next (if sampled && v ≠ s.pw.selPin && !s.pw.selWarned then s'.ev 0x1002 warn else s')

/-! ### The input (R62, R95, R96) -/

/-- The input has stayed from 47 V to below 50 V for 100 µs; the operand is its voltage in 0.01 V. -/
def execInputLowWarning (cv : Nat) (s : State) : Res :=
  .next (if !s.pw.jpower || s.pw.input ≠ .inRange then s
    else { s with pw := { s.pw with input := .low, vinCv := cv } }.ev 0x1007 warn)

def execInputLowShutdown (cv : Nat) (s : State) : Res :=
  .next (if !s.pw.jpower then s
    else
      let s := { s with pw := { s.pw with input := .stopped, vinCv := cv } }
      if s.pw.phase.runs then s.beginShutdown
      else if s.pw.phase = .tripped || s.pw.phase = .waitCool then s.powerDown .inputStopped
      else s)

/-- The input has sunk below 36 V or is removed: the standby rail falls, and with it the accepted level of MOD_PWREN; the module presents No
J-power (R62, R67). -/
def State.loseStandby (s : State) (cv : Nat) : State :=
  let s := s.powerDown .noJPower
  { s with pw := { s.pw with jpower := false, pwren := false, vinCv := cv, input := .stopped } }

/-- Every converter but the standby rail stops at once; below 36 V that rail falls too. -/
def State.stopInput (s : State) (cv : Nat) : State :=
  if !s.pw.jpower then s
  else if cv < 3600 then s.loseStandby cv
  else
    let s := { s with pw := { s.pw with input := .stopped, vinCv := cv } }
    if s.on then s.powerDown (if s.pw.pwren then .inputStopped else .off) else s

def execInputBrownoutStop (cv : Nat) (s : State) : Res := .next (s.stopInput cv)

def execInputOvervoltageStop (cv : Nat) (s : State) : Res :=
  .next (s.stopInput cv)

/-- The input has been within 50 to 58 V for 100 ms: a module whose converters are stopped starts where MOD_PWREN is high (R96, R100). -/
def execInputBackInRange (cv : Nat) (f : List DiodeRead) (s : State) : Res :=
  .next (if !s.pw.jpower then s
    else
      let s := { s with pw := { s.pw with input := .inRange, vinCv := cv } }
      if (s.pw.phase = .inputStopped || s.pw.phase = .off) && s.pw.pwren then s.powerUp .inputReturn f
      else if s.pw.phase = .tripped then s.autoRestart
      else s)

def execJPowerRemoval (s : State) : Res := .next (s.loseStandby 0)

/-- J-power returns: the standby rail comes up within 36 to 60 V, and the module is Off; the operand is the input voltage in 0.01 V (R62). -/
def execJPowerReturn (cv : Nat) (s : State) : Res :=
  .next (if s.pw.jpower || cv < 3600 || 6000 < cv then s
    else { s with pw := { s.pw with
      jpower := true, phase := .off, vinCv := cv, input := if 5000 ≤ cv ∧ cv ≤ 5800 then .inRange else .stopped } })

/-! ### Rails (R99, R101) -/

/-- How many rails a row of R99 has. -/
def railCount (r : Fin 11) : Nat := [16, 16, 4, 4, 4, 8, 8, 4, 4, 1, 1].getD r.val 0

/-- Whether a rail is on: VAON and the standby rail by themselves, VOPEN where a chiplet is fitted and admitted (never on CLM-D16-LQ54), every
other one with the core rails (R3, R99, R100). -/
def State.railOn (s : State) (r : Nat) (n : Nat) : Bool :=
  !s.pw.railFaults.contains (r, n) && (9 ≤ r || (s.pw.rails && (r ≠ 8 || (s.bt.isX && 0 < (s.site ⟨n % 4, by omega⟩).vopen))))

/-- The outcome of a die that fails while the module starts (R186, R204). -/
def State.failDie (s : State) (d : DieId) (step : Nat) : State :=
  match d with
  | .cd x | .ml x => s.stackOut x
  | .tile t =>
    if t = 0 then s.startFail step
    else
      let s := s.putOut 0x03 t.val
      let s := forEach (stacksOfTile t) (fun x s => s.stackOut x) s
      let s := forEach (epsOfTile t) (fun e s => s.putOut 0x08 e.val) s
      forEach [2 * t.val, 2 * t.val + 1] (fun k s =>
        ((s.modDie ⟨k % 8, by omega⟩ fun d => { d with trained := 0 }).putOut 0x05 (2 * k)).putOut 0x05 (2 * k + 1)) s
  | .mp k => (((s.modDie k fun d => { d with trained := 0 }).putOut 0x04 (16 + k.val)).putOut 0x05 (2 * k.val)).putOut 0x05 (2 * k.val + 1)
  | .hg t => (s.modPort t fun q => { q with oos := true }).putOut 0x06 (24 + t.val)
  | .site t => (s.modSite t fun k => { k with on := false, vopen := 0 }).putOut 0x0C t.val

/-- A die is isolated; while the module starts its elements are out of service, or the start fails (R191, R204). -/
def State.isolateAt (s : State) (d : DieId) (cause : BitVec 8) (whole : Bool := false) : State :=
  let s := s.isolate d cause whole
  if s.pw.phase = .starting then s.failDie d (((List.range 12).find? fun k => hasBit s.bt.busy k).getD 0) else s

/-- A rail monitor fires: the rail is off and its die isolated. VAON and the standby rail feed what every other part needs, so their loss turns
the module off (R101; log 47). -/
def execRailFault (r : Fin 11) (n : Fin 16) (s : State) : Res :=
  .next (if !s.on || railCount r ≤ n.val || !s.railOn r.val n.val then s
    else
      let s := s.ev 0x1008 err 0x0A (16 * r.val + n.val)
      let s := { s with pw := { s.pw with railFaults := s.pw.railFaults ++ [(r.val, n.val)] } }
      let t : TileId := ⟨n.val % 4, by omega⟩
      let k : Fin 8 := ⟨n.val % 8, by omega⟩
      match r.val with
      | 0 => s.isolateAt (.cd n) 0x05
      | 1 => s.isolateAt (.ml n) 0x05
      | 2 => s.isolateAt (.tile t) 0x05
      | 3 => s.isolateAt (.tile t) 0x05
      | 4 => { s with bt := { s.bt with laserLit := putBit s.bt.laserLit t.val false } }.isolateAt (.tile t) 0x05
      | 5 => s.isolateAt (.mp k) 0x05
      | 6 => s.isolateAt (.mp k) 0x05
      | 7 => s.isolateAt (.hg t) 0x05
      | 8 =>
        let s := s.ev 0xA007 err 0x0C t.val
        s.isolateAt (.site t) 0x05
      | _ => s.powerDown .off)

end Sys2Proof.Machine
end

