-- ==== Sys2Proof/Machine/Thermal.lean ====
section
/-!
DEFINITION. Temperatures, throttling and the trip (R103 to R131), the diode frame (R81 to R83, R109), the coolant sensors (R91), and the I3C
and JTAG pins (R79, R80, R85). Temperatures are in quarter degrees, as R108 reads them.
-/

namespace Sys2Proof.Machine

/-! ### The trip (R125 to R131) -/

/-- Element of a trip source (R609). -/
def tripElem : TripSource → BitVec 8 × Nat
  | .comparator c => sensElem c
  | .diode i => (0x0F, i.val)
  | .controller c => sensElem c
  | .hbm h => (0x05, h.val)

/-- Whether the sample of 10 µs in which the module tripped still runs (R126). -/
def State.tripSample (s : State) : Bool := s.pw.tripped && s.now / 10000 = s.pw.tripAt / 10000

/-- A trip: one fatal event for each source of the sample, a later command of that sample among it, every core rail cut, and no further restart
after three within 24 h (R126, R127, R129, R131). -/
def State.trip (s : State) (l : List TripSource) : State :=
  let l := l.filter fun c => !(s.tripSample && s.pw.tripSrc.contains c)
  if !s.on || (s.pw.tripped && !s.tripSample) || l.isEmpty then s
  else
    let s := { s with pw := { s.pw with tripSrc := if s.tripSample then s.pw.tripSrc ++ l else l } }
    let s := s.recordAll (l.map fun c => { code := 0x100C, sev := fatal, cls := (tripElem c).1, num := (tripElem c).2 })
    if s.pw.tripped then s else
    let s := s.coreLoss
    let recent := s.pw.restarts.filter fun t => s.now < t + 86400000000000
    { s with th := { s.th with coolSince := none }, pw := { s.pw with
      tripped := true, tripAt := s.now, tripPin := true, limited := 3 ≤ recent.length, restarts := recent, waitCool := false
      phase := if s.pw.phase = .shutdown then .shutdown else .tripped } }

def execThermalTrip (l : List TripSource) (s : State) : Res := .next (s.trip l)

/-- Every diode has read below 70 °C for 30 s (R128 to R131). -/
def execThermalAutoRestart (s : State) : Res := .next s.autoRestart

/-! ### The diode frame (R83, R109, R121) -/

/-- A frame: every pair is read, a reading of 110 °C or more trips the module, and a start that waits for cool dies begins (R130). -/
def execDiodeFrame (l : List DiodeRead) (s : State) : Res :=
  .next (if !s.on then s
    else
      let s := s.readFrame l
      let hot := (List.finRange 36).filter fun i => !hasBit s.th.diodeFault i.val && 440 ≤ kget 100 s.th.diode i.val &&
        l.any fun r => r.pair = i && !r.discarded
      if !hot.isEmpty then s.trip (hot.map .diode)
      else if s.pw.phase = .waitCool && !s.pw.waitTrip && s.allCool then s.beginStart s.bt.kind
      else s)

/-! ### The thermal model (R110, R111, R123) -/

/-- The trim of a region moves toward the sensor by one five-thousandth of the way at each 10 µs update, which is a time constant of
50 ms, and stays within 8 °C; it stands still for suspect sensors (R111, R122; log 48). -/
def State.trimOne (s : State) (c : SensorId) : State :=
  if s.suspectAt c then s
  else
    let k := sensKey c
    let goal := max (-8000000) (min 8000000 ((s.sens c - s.raw c) * 250000))
    let t := kget 0 s.th.trim k
    { s with th := { s.th with trim := kput 0 s.th.trim k (t + (goal - t) / 5000) } }

/-- Whether the thermal controller asks for a trip on a region (R123). -/
def State.asksTrip (s : State) (c : SensorId) : Bool :=
  let faulted := match diodeOf c with
    | some i => hasBit s.th.diodeFault i
    | none => false
  (s.suspectAt c && 440 ≤ s.raw c) || (faulted && 440 ≤ s.estimate c)

/-- The inlet temperature that the model takes: 40 °C while the sensor is faulted (R91, R110). -/
def State.modelInlet (s : State) : Int := if s.th.inletFault then 160 else s.th.inlet

/-- The temperatures of the dies above and below a region, where it has them: their sensor readings, and above a base-tile region the highest of the
ML's. The spec does not say whether readings or estimates enter the model (R110, R113; DESIGN CHOICE, log 64). -/
def State.around (s : State) : SensorId → List Int
  | .cd x p => [s.sens (.ml x p)]
  | .ml x p => s.sens (.cd x p) :: (List.range 4).map fun k => s.sens (.base (tileOfStack x) ⟨(4 * x.val + k) % 16, by omega⟩)
  | .base t i => (stacksOfTile t).filterMap fun x =>
      if i.val / 4 = x.val % 4 then some (s.dieSensor ⟨16 + x.val, by omega⟩) else none
  | _ => []

/-- The rail power that bears on a region: its stack's, or that of the four stacks of its tile. -/
def State.powerAt (s : State) : SensorId → List Nat
  | .cd x _ | .ml x _ => [kget 0 s.th.railMw x.val]
  | .base t _ => (stacksOfTile t).map fun x => kget 0 s.th.railMw x.val
  | _ => []

/-- The raw estimate of a region from the four inputs of R110 and its last estimate; the spec gives no formula (log 6). -/
def State.modelled (s : State) (c : SensorId) : Int :=
  Config.thermalModel (sensKey c) (s.raw c) (s.powerAt c) (s.around c) s.modelInlet (kget 0 s.th.activity (sensKey c))

/-- Since when an ML region's raw estimate has exceeded its sensor by more than 8 °C at every update (R122). -/
def State.noteHot (s : State) (c : SensorId) : State :=
  match c with
  | .ml x p =>
    let k := regionKey x p
    let n := if 32 < s.raw c - s.sens c then (if kget 0 s.th.hotSince k = 0 then s.now + 1 else kget 0 s.th.hotSince k) else 0
    { s with th := { s.th with hotSince := kput 0 s.th.hotSince k n } }
  | _ => s

/-- An update: the sensors' readings, the stacks' rail powers in mW and the regions' activity counters; then the estimates of those regions,
the trims, the comparison of R122 and any request of a trip. -/
def execThermalModelUpdate (sens : List (SensorId × Int)) (inputs : ModelInputs) (s : State) : Res :=
  let act := inputs.act
  .next (if !s.on then s
    else
      let s := { s with th := { s.th with
        sens := sens.foldl (fun m (r : SensorId × Int) => kput 100 m (sensKey r.1) r.2) s.th.sens
        railMw := inputs.mw.foldl (fun m (r : StackId × Nat) => kput 0 m r.1.val r.2) s.th.railMw
        activity := act.foldl (fun m (r : SensorId × Nat) => kput 0 m (sensKey r.1) r.2) s.th.activity } }
      let s := { s with th := { s.th with
        est := act.foldl (fun m (r : SensorId × Nat) => kput 100 m (sensKey r.1) (s.modelled r.1)) s.th.est } }
      let s := act.foldl (fun s (r : SensorId × Nat) => (s.trimOne r.1).noteHot r.1) s
      s.trip ((act.filter fun (r : SensorId × Nat) => s.asksTrip r.1).map fun r => .controller r.1))

/-- An ML region's raw estimate has exceeded its sensor by more than 8 °C throughout 1 ms (R122). Its event names the region under class 0x09,
which R609 gives to compute regions alone (DESIGN CHOICE, log 64). -/
def execMlSensorsSuspect (x : StackId) (p : RegionNo) (s : State) : Res :=
  let t := kget 0 s.th.hotSince (regionKey x p)
  .next (if !s.on || kget false s.th.suspect (regionKey x p) || t = 0 || s.now < t - 1 + 1000000 ||
      s.raw (.ml x p) - s.sens (.ml x p) ≤ 32 then s
    else { s with th := { s.th with suspect := kput false s.th.suspect (regionKey x p) true } }.ev 0x100B err 0x09 (regionKey x p))

/-! ### Throttling (R112 to R120) -/

/-- The cap of a temperature in quarter degrees against a threshold in degrees (R114). -/
def capPercent (t : Int) (thr : Nat) : Nat :=
  let above := t - 4 * (thr : Int)
  if above ≤ 0 then 100 else max 40 (100 - 3 * ((above.toNat + 3) / 4))

/-- The governing temperatures of a CD region and of the ML region beneath it; beneath an ML lie its site's four base sensors (R108,
R113). -/
def State.govern (s : State) (x : StackId) (p : RegionNo) : Int × Int :=
  let ml := s.effective (.ml x p)
  let base := (List.range 4).foldl (fun m k => max m (s.effective (.base (tileOfStack x) ⟨(4 * x.val + k) % 16, by omega⟩))) (-400)
  (max (s.effective (.cd x p)) ml, max ml base)

/-- The cap that applies to a compute region: the lowest of its thermal cap, its CD's power cap and the input-derived cap (R105). -/
def State.regionCap (s : State) (x : StackId) (p : RegionNo) : Nat :=
  min (kget 100 s.th.caps (regionKey x p)) (min (s.stack x).cdCap (s.stack x).inCap)

/-- The events of a region whose cap falls: each once until a module reset, which the spec's "first" leaves open. Those of an ML region name it by the
class 0x09 and codes of its compute region, since no class is given to ML regions (R120, R609; DESIGN CHOICE, log 64). -/
def State.capEvents (s : State) (x : StackId) (p : RegionNo) (cap : Nat) (ml : Bool) : State :=
  let r := s.region x p
  let w100 := if ml then r.mlThrottle100 else r.throttle100
  let w84 := if ml then r.mlThrottle84 else r.throttle84
  let s := if cap < 100 && !w100 then
      (s.modRegion x p fun r => if ml then { r with mlThrottle100 := true } else { r with throttle100 := true }).ev 0x1009 warn 0x09 (regionKey x p)
    else s
  if cap < 84 && !w84 then
    (s.modRegion x p fun r => if ml then { r with mlThrottle84 := true } else { r with throttle84 := true }).ev 0x100A warn 0x09 (regionKey x p)
  else s

/-- The events of the mapped regions of a stack whose cap has fallen (R105, R120). -/
def State.noteCaps (s : State) (x : StackId) : State :=
  (List.finRange 100).foldl (fun s p =>
    if hasBit (s.stack x).cmap p.val then
      (s.capEvents x p (s.regionCap x p) false).capEvents x p (kget 100 s.th.mlCaps (regionKey x p)) true
    else s) s

/-- The thermal caps of one region pair. -/
def State.throttle (s : State) (x : StackId) (p : RegionNo) : State :=
  let (tc, tm) := s.govern x p
  let c := capPercent tc s.th.tThr
  let m := capPercent tm s.th.tThr
  let k := regionKey x p
  { s with th := { s.th with caps := kput 100 s.th.caps k c, mlCaps := kput 100 s.th.mlCaps k m } }

/-- The 10 µs sample: the caps of every region from their governing temperatures (R114). -/
def execThrottleSample (s : State) : Res :=
  .next (if s.on then forEach allStacks (fun x s => (forEach (List.finRange 100) (fun p s => s.throttle x p) s).noteCaps x) s else s)

/-- A region's new caps take effect: the lowest of its thermal, power and input caps at its oscillator and issue, and the ML region's own at its
ports (R105, R115, R116, R119). -/
def execCapTakesEffect (x : StackId) (p : RegionNo) (s : State) : Res :=
  .next (if !s.on then s
    else
      let k := regionKey x p
      let f := s.regionCap x p
      let m := kget 100 s.th.mlCaps k
      let low := min f m
      let s := { s with th := { s.th with force := kput 100 s.th.force k f, mlForce := kput 100 s.th.mlForce k m } }
      let s := (s.modStack x fun st => { st with lowCap := min st.lowCap low }).setClock x p
      match s.partOfStack x with
      | none => s
      | some q => s.modPart q fun b =>
        { b with hbCap := min b.hbCap low
                 periods := b.periods.map fun n => if n.stage = .running then { n with lowCap := min n.lowCap low } else n })

/-- Whether a CD has power: the core rails are on, its stack is in service and its VCD rail has not failed (R101, R104, R185). -/
def State.cdPowered (s : State) (x : StackId) : Bool := s.pw.rails && !(s.stack x).oos && s.railOn 0 x.val

/-- A 10 µs sample of a CD's power, in mW, against its limit, which an open site of its tile lowers (R103, R106). -/
def execCdPowerSample (x : StackId) (mw : Nat) (s : State) : Res :=
  let site := s.site (tileOfStack x)
  let lim := 300000 - (if site.on then 250 * site.psite else 0)
  .next (if !s.on || !s.cdPowered x then s
    else (s.modStack x fun k =>
      { k with cdMw := mw, cdCap := if lim < mw then k.cdCap - 1 else if 100 * mw < 97 * lim then min 100 (k.cdCap + 1) else k.cdCap }).noteCaps x)

/-- The input power cap in force, in W, which the current limit lowers with the voltage (R97, R104). -/
def State.inputCap (s : State) : Nat := min s.th.capW (150 * s.pw.vinCv / 100)

/-- A 10 µs sample of the input's power, in W, and voltage, in 0.01 V (R97, R104). -/
def execInputPowerSample (w cv : Nat) (s : State) : Res :=
  .next (if !s.on then s
    else
      let s := { s with pw := { s.pw with inW := w, vinCv := cv } }
      let cap := s.inputCap
      forEach (allStacks.filter s.cdPowered) (fun x s => (s.modStack x fun k =>
        { k with inCap := if cap < w then k.inCap - 1 else if 100 * w < 97 * cap then min 100 (k.inCap + 1) else k.inCap }).noteCaps x) s)

/-- An HBM3 stack's own readout, in degrees: the cap of R114 against 90 °C, and the raised refresh rate; 105 °C trips (R117, R125;
log 48). -/
def execHbmThermalSample (h : Fin 16) (t : Int) (s : State) : Res :=
  .next (if !s.on || !(s.pw.rails || s.tripSample) then s
    else
      let s := { s with th := { s.th with hbmTemp := kput 25 s.th.hbmTemp h.val t } }
      if 105 ≤ t then s.trip [.hbm h]
      else s.modDie (dieOfHbm h) fun d =>
        { d with hbmCap := kput 100 d.hbmCap (h.val % 2) (capPercent (4 * t) 90), temp := putBit d.temp (h.val % 2) (85 < t) })

/-! ### Coolant (R91) -/

/-- The inlet and outlet temperatures are sampled, in quarter degrees; the inlet sensor is faulted outside 0 to 70 °C, or when it moves by
more than 5 K within 100 ms. -/
def execCoolantSample (inlet outlet : Int) (s : State) : Res :=
  .next (if !s.on then s
    else
      let past := s.th.inletPast.filter fun r => s.now ≤ r.1 + 100000000
      let bad := inlet < 0 || 280 < inlet || past.any fun r => 20 < (inlet - r.2).natAbs
      let s' := { s with th := { s.th with inlet, outlet, inletPast := past ++ [(s.now, inlet)], inletFault := s.th.inletFault || bad } }
      if bad && !s.th.inletFault then s'.ev 0x1006 err else s')

/-! ### I3C and JTAG pins (R79, R80, R84, R85) -/

/-- A line has been low for more than 50 ms: both are released, and the bus is ignored; the address is kept (R80). -/
def execI3cStuckLow (s : State) : Res :=
  .next (if !s.on || s.pyh.i3cIgnored then s
    else { s with pyh := { s.pyh with i3cIgnored := true } }.ev 0x1004 warn)

def execI3cBusResume (s : State) : Res :=
  .next (if s.on then { s with pyh := { s.pyh with i3cIgnored := false } } else s)

def execI3cEntdaa (a : BitVec 7) (s : State) : Res :=
  .next (if s.on && !s.pyh.i3cIgnored && s.pyh.i3cAddr.isNone then { s with pyh := { s.pyh with i3cAddr := some a } } else s)

/-- SETDASA to the static address 0x3A (R79). -/
def execI3cSetdasa (static a : BitVec 7) (s : State) : Res :=
  .next (if s.on && !s.pyh.i3cIgnored && s.pyh.i3cAddr.isNone && static = 0x3A then { s with pyh := { s.pyh with i3cAddr := some a } } else s)

/-- IDCODE: version 0x1, part 0xD160, manufacturer 0x52F, marker 1 (R84). -/
def idcode : BitVec 32 := (0x1#4 ++ 0xD160#16 ++ 0x52F#11 ++ 0b1#1)

/-- An instruction reaches the test access port: pin-driving ones take effect only while MOD_RESET_N is low, and debug ones only while a
maintainer's unlock is in force; IDCODE gives the identity at TDO (R84, R85). -/
def execJtagInstruction (ir : JtagIr) (s : State) : Res :=
  .next (if !s.on || (ir = .debug && !s.pyh.tempDebug) then s
    else
      let s := { s with pyh := { s.pyh with jtag := ir, extest := (ir = .extest || ir = .pinDriving) && !s.pw.resetN } }
      if ir = .idcode then s.emit (.jtag idcode) else s)

end Sys2Proof.Machine
end

