-- ==== Sys2Proof/Machine/Clocks.lean ====
section
/-!
DEFINITION. Milestone time and its reference (R77, R78, R137 to R152), the oscillators and the clock monitors (R153 to R166), and sleep
(R167 to R170).
-/

namespace Sys2Proof.Machine

/-! ### Syncs (R141 to R146) -/

/-- A period of the partition that owns a stack drops for a correction of its copies (R142, R143). -/
def State.dropFor (s : State) (x : StackId) : State :=
  match s.partOfStack x with
  | some p => s.failPeriod p { status := 0x06, detail := 0x06, core := 0xFFFF, tick := s.copyNow (stackEp x) }
  | none => s

/-- How a copy that differs is corrected: at once by a number of ticks, and over the following ticks by another (positive: it gains, negative:
it holds) (R142). -/
def correction (diff : Int) : Int × Int :=
  if diff = 0 then (0, 0)
  else if diff.natAbs = 1 then (0, diff)
  else if diff.natAbs ≤ 8 then (0, if 0 < diff then diff - 1 else diff + 1)
  else if 0 < diff then (diff, 0)
  else (0, diff)

/-- The events of a correction of more than 1 tick (R142, R143). -/
def State.corrEvents (s : State) (diff : Int) (cls : BitVec 8) (num : Nat) : State :=
  if diff.natAbs ≤ 1 then s
  else if diff.natAbs ≤ 8 then s.ev 0x2001 warn cls num none (BitVec.ofInt 96 diff)
  else s.ev 0x2002 err cls num none (BitVec.ofInt 96 diff)

/-- A cluster's copy is corrected at its endpoint's sync under the same rule, toward the same corrected count. The wiring's latency of R158 is
compensated, so it does not appear (R143). -/
def State.syncCluster (s : State) (x : StackId) (goal : Int) (c : ClusterNo) : State :=
  match s.physOf x c with
  | none => s
  | some p =>
    let d := goal - (s.cluster x c).msDelta
    if d = 0 then s
    else
      let (once, later) := correction d
      let s := (s.modCluster x c fun c => { c with msDelta := c.msDelta + once, msCorr := later }).corrEvents d 0x09 (regionKey x p)
      if 1 < d.natAbs then s.dropFor x else s

/-- An endpoint takes the corrected master count: its first sync loads the copy, later ones correct it (R137, R142, R145, R146). -/
def State.syncEp (s : State) (e : EpId) (count : Nat) : State :=
  let x := s.ep e
  let diff : Int := (count : Int) - (s.copyNow e : Int)
  let (once, later) := if x.synced then correction diff else (diff, 0)
  let s := s.modEp e fun x => { x with delta := x.delta + once, corr := later, synced := true, lastSync := s.now, holdWarned := false }
  let s := if x.holdWarned then s.ev 0x2004 warn 0x08 e.val else s
  let far := x.synced && 1 < diff.natAbs
  let s := if far then s.corrEvents diff 0x08 e.val else s
  match epStack e with
  | none => s
  | some st =>
    let s := if far then s.dropFor st else s
    forEach ((List.finRange 96).filter fun c => (s.cluster st c).msLoaded) (fun c s => s.syncCluster st (x.delta + diff) c) s

/-- Every 1,000 ticks hub 28 sends a sync with the master count to every endpoint, and its own copy takes the count itself (R141). -/
def execSyncSend (s : State) : Res :=
  .next (if !s.on || (s.ep 28).isolated || s.now < (s.ep 28).lastSync + 1000 then s else (s.syncEp 28 s.now).sendAll 28 .sync (.sync s.now))

/-- A sync arrives. Where the delay from hub 28 is not known, or its route has changed, a probe measures it first (R141). -/
def execSync (a : Arr) (count : Nat) (s : State) : Res :=
  .next (s.arriveCtl a .sync (.sync count) fun s =>
    match (s.ep a.rx).delay with
    | some d => s.syncEp a.rx (count + d)
    | none => s.sendCtl a.rx 28 .syncProbe (.probe (s.copyNow a.rx)))

/-- A probe arrives and is answered with its send tick and the answer's own (R141, R428). -/
def execSyncProbe (a : Arr) (t : Nat) (s : State) : Res :=
  .next (s.arriveCtl a .syncProbe (.probe t) fun s => s.sendCtl a.rx a.h.origin .syncEcho (.echo t (s.copyNow a.rx)))

/-- The answer arrives: the one-way delay is half the round trip (R141; log 49). -/
def execSyncEcho (a : Arr) (t1 t2 : Nat) (s : State) : Res :=
  .next (s.arriveCtl a .syncEcho (.echo t1 t2) fun s =>
    s.modEp a.rx fun e => { e with delay := some ((s.copyNow a.rx - t1) / 2) })

/-- An endpoint has had no sync for 100 µs (R146). -/
def execSyncHoldoverWarning (e : EpId) (s : State) : Res :=
  let x := s.ep e
  .next (if !s.on || !x.synced || x.holdWarned || s.now < x.lastSync + 100000 then s
    else (s.modEp e fun x => { x with holdWarned := true }).ev 0x2003 warn 0x08 e.val)

/-! ### The lock (R147 to R152) -/

/-- One sample of the reference: its time, its rate against the TCXO in 0.001 ppm, and the lock band in ns (R150, R151). How far a sample
steers is open within the limits of R150: toward zero error, 0.1 ppm per second, 20 ppm in all (log 50). Each rejection of the reference
records its error once, until a sample whose rate is right (R151). -/
def State.lockSample (s : State) (ref rate : Int) (band : Nat) : State :=
  let t := s.tm
  let set : TimeLock := { t with offset := ref - s.now, lock := .acquire, locked1 := true, inBand := 0, samples := t.samples + 1
                                 lastSample := s.now, rejected := false }
  let perr := ref - (s.now + t.offset)
  if 20000 < rate.natAbs then
    let s' := { s with tm := { t with lock := .holdover, inBand := 0, rejected := true } }
    if t.rejected then s' else s'.ev 0x2007 err
  else if !t.locked1 then { s with tm := set }
  else if 10000 < perr.natAbs then
    { s with tm := { set with phaseErr := perr } }.ev 0x2006 warn 0 0 none (BitVec.ofInt 96 perr)
  else
    let most := 100 * (s.now - t.lastSample) / 1000000000
    let by_ : Int := perr.sign * ((s.freeBits 32).toNat % (most + 1) : Nat)
    let n := if t.lock = .holdover then 0 else t.inBand
    let n := if perr.natAbs ≤ band then n + 1 else 0
    let s := s.tookFree
    { s with tm := { t with
      steer := max (-20000) (min 20000 (t.steer + by_)), phaseErr := perr, samples := t.samples + 1, lastSample := s.now
      inBand := min n 10, rejected := false
      lock := if t.lock = .locked || 10 ≤ n then .locked else .acquire } }

/-- A PTM dialogue on the selected port, every 10 ms; one that goes unanswered or takes more than 2 µs is no sample, and counts as failed
(R148, R150). -/
def execPtmDialogue (t : PortId) (d : Ptm) (s : State) : Res :=
  .next (if !s.on || !s.tm.tcxo || !s.ptmOn t || !(s.port t).linkUp || s.now < s.tm.ptmAt + 10000000 then s
    else
      let good := d.answered && d.roundTripNs ≤ 2000
      let s := { s with tm := { s.tm with ptmAt := s.now, ptmValid := good, ptmFail := if good then none else some (s.tm.ptmFail.getD s.now) } }
      if good then s.lockSample d.refNs d.rateMilliPpm 100 else s)

/-- PTM dialogues have failed for 100 ms (R150 step 4). -/
def execLockSourceLost (s : State) : Res := .next (if s.on && s.tm.ptmFail.any (fun t => t + 100000000 ≤ s.now) then s.sourceLost else s)

/-- PPS_IN is disqualified: one warning, and HOLDOVER where it is the source (R78, R150). -/
def State.ppsDrop (s : State) : State :=
  let s' := { s with tm := { s.tm with ppsOk := false, ppsGood := 0 } }
  if s.tm.ppsOk then
    let s' := s'.ev 0x1003 warn
    if s.tm.source = 5 then s'.sourceLost else s'
  else s'

/-- A rising edge: intervals from 500 ms to 3 s qualify PPS_IN after three in a row, and a qualified edge is a whole second of the reference
(R77, R78, R149). -/
def execPpsEdge (rate : Int) (s : State) : Res :=
  .next (if !s.on then s
    else
      let good := match s.tm.ppsLast with
        | some l => 500000000 ≤ s.now - l && s.now - l ≤ 3000000000
        | none => false
      let first := s.tm.ppsLast.isNone
      let s := if good then { s with tm := { s.tm with ppsGood := s.tm.ppsGood + 1, ppsOk := s.tm.ppsOk || 3 ≤ s.tm.ppsGood + 1 } }
        else if first then s else s.ppsDrop
      let s := { s with tm := { s.tm with ppsLast := some s.now } }
      if s.tm.ppsOk && s.tm.source = 5 && s.tm.tcxo then
        let sec := s.tm.ppsSec.getD s.tm.ppsNext
        { s with tm := { s.tm with ppsSec := none, ppsNext := sec + 1 } }.lockSample (sec * 1000000000 : Nat) rate 20
      else s)

/-- No edge has come for 3 s (R78). -/
def execPpsTimeout (s : State) : Res :=
  .next (if s.on && s.tm.ppsLast.all (fun l => l + 3000000000 ≤ s.now) then s.ppsDrop else s)

/-! ### Oscillators (R153 to R157, R162) -/

/-- A mapped region whose clock runs: spare regions and those of a stack out of service have no power (R27, R185). -/
def State.running (s : State) (x : StackId) (p : RegionNo) : Bool :=
  s.on && s.pw.rails && hasBit (s.stack x).cmap p.val && (s.region x p).depth = .awake

/-- A droop stretches the cycle in progress; a region on the mesh never stretches (R155, R162). -/
def execDroopStretch (x : StackId) (p : RegionNo) (s : State) : Res :=
  .next (if s.running x p && !s.meshNow x p then s.modRegion x p fun r => { r with stretching := true } else s)

/-- A sample of the replica paths, in thousandths of a percent: the least of them is the region's margin; the droop before it has passed. Below 4 % with VCD at 0.90 V the highest allowed
frequency falls (R155, R156). -/
def execReplicaMarginSample (x : StackId) (p : RegionNo) (first : Int) (paths : List Int) (s : State) : Res :=
  let margin := paths.foldl min first
  .next (if !s.running x p then s
    else
      let s := s.modRegion x p fun r => { r with margin, marginAt := (r.mhz, r.vcd), stretching := false }
      if margin < 4000 && (s.region x p).vcd = 900 && !s.meshNow x p then s.lowerMax x p else s)

/-! ### Clock monitors (R163, R164, R166) -/

/-- A die's fixed clock fails: the die is isolated and its domain reset, a CD with its whole stack (R163, R188). -/
def execFixedClockLoss (d : DieId) (s : State) : Res :=
  .next (if !s.on || !s.pw.rails then s
    else match d with
      | .cd _ => s.isolateAt d 0x04 true
      | _ => s.isolateAt d 0x04)

/-- A region's oscillator fails: the region runs on the mesh, and its partition admits only mesh bundles. Where the die's mesh clock has failed too
a region then uses it, and the die is isolated (R163, R166). -/
def execRegionOscillatorFailure (x : StackId) (p : RegionNo) (s : State) : Res :=
  .next (if !s.running x p || s.meshNow x p then s
    else
      let s := ((s.modRegion x p fun r => { r with onMesh := true, stretching := false }).setClock x p).ev 0x200A err 0x09 (regionKey x p)
      let s := match s.partOfStack x with
        | some q => s.modPart q fun b => { b with mesh := true }
        | none => s
      if (s.stack x).meshLost then s.isolateAt (.cd x) 0x04 true else s)

/-- A CD's mesh clock fails: the die is isolated where a region of it uses the mesh, else its regions go on without a fallback (R163). -/
def execMeshClockFailure (x : StackId) (s : State) : Res :=
  .next (if !s.on || !s.pw.rails then s
    else if (List.finRange 100).any fun p => s.meshNow x p then s.isolateAt (.cd x) 0x04 true
    else (s.modStack x fun k => { k with meshLost := true }).ev 0x200B err 0x01 x.val)

/-- The TCXO has no edge for 200 ns: every die outside the always-on domain is lost, and time runs on (R163, R164). -/
def execTcxoLoss (s : State) : Res :=
  .next (if !s.on || !s.tm.tcxo then s
    else
      let fails := withinHour s.tm.tcxoFails s.now
      let s := s.ev 0x200C fatal
      let s := if 3 ≤ fails.length then s.ev 0x200D err else s
      let s := s.coreLoss
      let ph := if s.pw.phase = .tripped || s.pw.phase = .shutdown then s.pw.phase else .tcxoLost
      { s with
        tm := { s.tm with tcxo := false, tcxoFails := fails, tcxoStay := s.tm.tcxoStay || 3 ≤ fails.length, lock := .holdover, inBand := 0 }
        pw := { s.pw with phase := ph, failed := true, waitCool := false }
        bt := { s.bt with failStep := 1 } })

/-- TCXO edges have been present for 100 ms; after three failures within an hour the module stays as it is (R164). -/
def execTcxoReturn (s : State) : Res :=
  .next (if s.on && !s.tm.tcxo && !s.tm.tcxoStay then { s with tm := { s.tm with tcxo := true } } else s)

/-- The master PLL has relocked: the start of kind "return of reference clock" begins (R164, R172). -/
def execMasterPllRelock (s : State) : Res :=
  .next (if s.pw.phase = .tcxoLost && s.tm.tcxo && !s.tm.tcxoStay then s.beginStart .refReturn else s)

/-! ### Sleep (R167 to R170) -/

/-- Whether a core has work: a convoy that runs or waits, or a copy. -/
def Core.busy (k : Core) : Bool :=
  let on (v : Convoy) : Bool := !(v.run = .idle || v.run = .halted || v.run = .haltedFlag)
  on k.c0 || on k.c1 || !k.queue.isEmpty || !k.flying.isEmpty

/-- Whether a cluster has work. -/
def State.clusterBusy (s : State) (x : StackId) (c : ClusterNo) : Bool :=
  (List.finRange 16).any fun n => (s.core (coreOf x c n)).busy

/-- Whether a period that names a core of a cluster starts within the next 50 µs (R167, R168). -/
def State.dueSoon (s : State) (x : StackId) (c : ClusterNo) : Bool :=
  match s.partOfStack x with
  | none => false
  | some p => (s.part p).periods.any fun n => n.stage = .noticed && n.start < s.copyNow (stackEp x) + 50000 &&
      (s.part p).bundle.any fun k => (coresOfCluster x c).any fun g => (k.progOf n.set g).isSome

/-- Whether traffic for a region waits: in its FIFO, a DMA buffer or the ingress buffer of its stack's endpoint. -/
def State.trafficFor (s : State) (x : StackId) (p : RegionNo) : Bool :=
  let r := s.region x p
  !r.rx.entries.isEmpty || !r.dma.isEmpty ||
    (s.ep (stackEp x)).stalled.any fun q => q.place.any fun pl => pl.stack = x && s.physOf x pl.cluster = some p

/-- A region without work or traffic for 10 µs, and with none due, stops its clock; an arrival in the same tick wins (R167, R170). -/
def execRegionClockStop (x : StackId) (p : RegionNo) (s : State) : Res :=
  let r := s.region x p
  let busy := match s.logOf x p with
    | some c => s.clusterBusy x c || s.dueSoon x c
    | none => false
  .next (if !s.running x p || busy || s.trafficFor x p || r.clearing || s.now < r.lastUse + 10000 then s
    else (s.modRegion x p fun r => { r with depth := .clockStopped, stretching := false, stopAt := s.now }).setClock x p)

/-- A region that has been clock-stopped for 1 ms begins to power off where its stack is unassigned, or its partition has neither bundle nor
kernel; work or traffic that has arrived for it wins (R167, R168, R170). -/
def execRegionPowerOff (x : StackId) (p : RegionNo) (s : State) : Res :=
  let free := match s.partOfStack x with
    | none => true
    | some q => (s.part q).bundle.isNone && (s.part q).kernel.isNone && (s.part q).loading.isNone
  .next (if s.on && !(s.region x p).arrived && !s.trafficFor x p && (s.region x p).depth = .clockStopped && (s.region x p).stopAt + 1000000 ≤ s.now && free then
      (s.modRegion x p fun r => { r with depth := .ramping }).setClock x p
    else s)

/-- A region wakes from power-off: its vertical links are checked, its oscillator is, its slices and pool are cleared, and its cluster's
copy is loaded. Links that fail leave it asleep and stop its partition (R137, R156, R162, R167, R494). -/
def State.wakeRegion (s : State) (x : StackId) (p : RegionNo) (c : WakeCheck) : State :=
  if (s.region x p).wakeFailed then s
  else if !c.linksOk then
    ((s.modRegion x p fun r => { r.unpowered with wakeFailed := true }).ev 0xA001 err 0x09 (regionKey x p)).stopStackOwner x 0x01
  else
    let s := s.oscCheck x p c false
    let s := match s.logOf x p with
      | some k =>
        (s.zeroCluster x k).modCluster x k fun k => { k with msDelta := (s.ep (stackEp x)).delta, msCorr := 0, msLoaded := true }
      | none => s
    (s.modRegion x p fun r => { r with clearing := true }).runClock x p

/-- What a cluster held is gone once its region is off (R167). -/
def State.loseCluster (s : State) (x : StackId) (p : RegionNo) : State :=
  match s.logOf x p with
  | none => s
  | some c =>
    { s with cores := s.cores.filter fun k => k.1 / 1536 ≠ x.val || k.1 % 1536 / 16 ≠ c.val
             clusters := kdel s.clusters (clusterKey x c) }

/-- The ramp ends: the region is off, and wakes at once where an arrival came meanwhile (R170). -/
def execPowerOffRampDone (x : StackId) (p : RegionNo) (c : WakeCheck) (s : State) : Res :=
  let r := s.region x p
  .next (if r.depth ≠ .ramping then s
    else
      let s := ((s.modRegion x p fun r => { r with depth := .poweredOff }).loseCluster x p).setClock x p
      if r.arrived then s.wakeRegion x p c else s)

/-- Whether a region has power to wake with: a spare region, or one of a stack out of service, has none (R27, R185). -/
def State.mayWake (s : State) (x : StackId) (p : RegionNo) : Bool :=
  s.on && s.pw.rails && hasBit (s.stack x).cmap p.val && !(s.stack x).oos

/-- Work or traffic has arrived for a sleeping region: it wakes, and what waits for it goes on (R40, R167, R169, R170). -/
def execRegionWake (x : StackId) (p : RegionNo) (c : WakeCheck) (s : State) : Res :=
  .next (if !s.mayWake x p then s
    else match (s.region x p).depth with
      | .awake => s
      | .clockStopped => s.runClock x p
      | .ramping => s.modRegion x p fun r => { r with arrived := true }
      | .poweredOff => s.wakeRegion x p c)

end Sys2Proof.Machine
end

