-- ==== Sys2Proof/Machine/Vertical.lean ====
section
/-!
DEFINITION. Vertical bundles: how their lanes are numbered, and the choice of spare lanes when a stack's links are tuned (R487, R488, R491 to
R494).
-/

namespace Sys2Proof

/-- The number of a lane of a region bundle: channel 0 to 17, direction (true upward), group 0 to 8, position 0 to 34 (R488). -/
def regionLane (ch : Nat) (up : Bool) (group pos : Nat) : Nat := ch * 1024 + Machine.b2n up * 512 + group * 35 + pos

/-- The number of a lane of a fixed bundle: direction (true upward), position 0 to 148 (R488). -/
def fixedLane (up : Bool) (pos : Nat) : Nat := Machine.b2n up * 256 + pos

/-- Bundles 0 to 99 are region bundles, 100 to 163 fixed ones (R487). -/
def VLane.isRegion (l : VLane) : Bool := l.bundle < 100

/-- The fields of a lane number: channel, direction, group and position; a fixed bundle has one channel and one group (R488). -/
def VLane.channel (l : VLane) : Nat := if l.isRegion then l.lane / 1024 else 0
def VLane.up (l : VLane) : Bool := if l.isRegion then l.lane / 512 % 2 = 1 else l.lane / 256 % 2 = 1
def VLane.group (l : VLane) : Nat := if l.isRegion then l.lane % 512 / 35 else 0
def VLane.pos (l : VLane) : Nat := if l.isRegion then l.lane % 512 % 35 else l.lane % 256

/-- A lane number that names a lane of its bundle (R487, R488). -/
def VLane.wf (l : VLane) : Bool :=
  if l.isRegion then l.channel ≤ 17 && (l.group ≤ 8 && (l.channel ≠ 17 || l.group = 0))
  else l.bundle < 164 && l.lane < 512 && l.pos ≤ 148

/-- The first lane number of a lane's group, and the positions of the group's spares (R487, R488, R492). -/
def VLane.first (l : VLane) : Nat := if l.isRegion then regionLane l.channel l.up l.group 0 else fixedLane l.up 0
def VLane.spareLanes (l : VLane) : List Nat := (if l.isRegion then [33, 34] else [145, 146, 147, 148]).map (l.first + ·)

/-- Whether a lane is a clock lane. -/
def VLane.isClock (l : VLane) : Bool := if l.isRegion then l.pos = 32 else l.pos = 144

/-- Whether a lane is a spare. -/
def VLane.isSpare (l : VLane) : Bool := if l.isRegion then 33 ≤ l.pos else 145 ≤ l.pos

/-- Two lanes of one group: spares are chosen per group, or per fixed bundle and direction (R492). -/
def VLane.sameGroup (a b : VLane) : Bool := a.stack = b.stack && a.bundle = b.bundle && a.first = b.first

/-- The order in which a group's failing lanes are taken: ascending (R492). -/
def VLane.before (a b : VLane) : Bool :=
  a.stack.val < b.stack.val || (a.stack = b.stack && (a.bundle < b.bundle || (a.bundle = b.bundle && a.lane ≤ b.lane)))

def VLane.insert (x : VLane) : List VLane → List VLane
  | [] => [x]
  | y :: r => if x = y then y :: r else if x.before y then x :: y :: r else y :: VLane.insert x r

end Sys2Proof

namespace Sys2Proof.Machine

/-- The spare that a lane is routed to. -/
def spareOf (l : List SpareRec) (x : VLane) : Option Nat := (l.find? fun r => r.lane = x).map (·.spare)

/-- One failing lane of a group: a spare of it that failed is released and never used again at this start; then the lowest spare of the group
that passed and is free takes the lane, and where there is none the group is unrepairable (R492). -/
def chooseSpare (fail : List VLane) (st : List SpareRec × List VLane × List VLane) (x : VLane) : List SpareRec × List VLane × List VLane :=
  let (rep, never, bad) := st
  let sp (n : Nat) : VLane := { x with lane := n }
  if bad.any (·.sameGroup x) then st
  else
    let old := spareOf rep x
    let fails := match old with
      | some n => fail.contains (sp n)
      | none => fail.contains x
    if !fails then st
    else
      let never := match old with
        | some n => never ++ [sp n]
        | none => never
      let rep := rep.filter fun r => r.lane ≠ x
      let free (n : Nat) : Bool := !fail.contains (sp n) && !never.contains (sp n) &&
        !rep.any fun r => r.lane.sameGroup x && r.spare = n
      match x.spareLanes.find? free with
      | some n => (rep ++ [{ lane := x, spare := n }], never, bad)
      | none => (rep, never, bad ++ [x])

/-- The frequency in MHz of step 3 of a tuning: a region's highest allowed one, 1.20 GHz on the mesh, and the fixed domain's for channel 17
(R487, R491). -/
def State.tuneMhz (s : State) (l : VLane) : Nat :=
  if l.channel = 17 then 1000
  else
    let r := s.region l.stack ⟨l.bundle % 100, by omega⟩
    if r.onMesh then 1200 else r.maxMhz

/-- Whether a lane passes step 3: no error, and a range of steps of 3.7 ps that makes 0.40 of a bit time, two bits to a cycle, or 0.50 of one on a
fixed bundle, eight bits to a tick; a clock lane passes where its data lanes can be tuned against it (R491). -/
def State.lanePasses (s : State) (r : VReading) : Bool :=
  let l := r.lane
  if l.isClock then 0 < r.steps
  else r.err3 = 0 && (if l.isRegion then 2000000 ≤ 37 * r.steps * s.tuneMhz l else 625 ≤ 37 * r.steps)

/-- The lanes of a stack that fail step 3 of a tuning; one that is not listed passes as before (log 69). -/
def State.lanesFailing (s : State) (x : StackId) (l : List VReading) : List VLane :=
  (l.filter fun r => r.lane.stack = x && r.lane.wf && !s.lanePasses r).map (·.lane)

/-- The tuning of a stack: spare routing, spares never used again, and a lane of each unrepairable group. The recorded repairs are kept where their
lanes now pass, spares are chosen for the lanes and clocks that fail, and a group is unrepairable too where a lane in use shows errors in step 5
(R491, R492; DEDUCED, log 69). -/
def State.tuning (s : State) (x : StackId) (l : List VReading) : List SpareRec × List VLane × List VLane :=
  let mine := s.lanesFailing x l
  let routed := (s.bt.spares.filter fun r => r.lane.stack = x).map (·.lane)
  let order := (mine.filter (!·.isSpare) ++ routed).foldr VLane.insert []
  let (rep, never, bad) := order.foldl (chooseSpare mine) (s.bt.spares, s.bt.badVSpares, [])
  let used (n : VLane) : Bool :=
    if n.isSpare then rep.any fun r => r.lane.sameGroup n && r.spare = n.lane else !rep.any fun r => r.lane = n
  let late := (l.filter fun r => r.lane.stack = x && r.lane.wf && 0 < r.err5 && used r.lane && !bad.any (·.sameGroup r.lane)).map (·.lane)
  (rep, never, bad ++ late)

/-- A stack's links are tuned: each lane's delay is set to the centre of its passing range, the spares are routed, and what cannot be repaired fails
its cluster, or puts the stack out where it is a fixed bundle (R491 to R494). -/
def State.tuneStack (s : State) (x : StackId) (l : List VReading) : State :=
  let (rep, never, bad) := s.tuning x l
  let set := (l.filter fun r => r.lane.stack = x && r.lane.wf && 0 < r.steps).map fun r => (r.lane, r.first + r.steps / 2)
  let s := { s with bt := { s.bt with
    spares := rep, badVSpares := never, testFirst := s.bt.testFirst.filter (·.stack ≠ x)
    delays := (s.bt.delays.filter fun d => !set.any fun c => c.1 = d.1) ++ set } }
  let s := (List.finRange 100).foldl (fun s p =>
    let b := bad.any fun l => l.bundle = p.val
    if (s.region x p).vBad = b && !(s.region x p).wakeFailed then s else s.modRegion x p fun r => { r with vBad := b, wakeFailed := false }) s
  if bad.any (!·.isRegion) then (s.stackOut x).ev 0x3002 err 0x01 x.val else s

end Sys2Proof.Machine
end

