-- ==== Sys2Proof/Machine/Startup.lean ====
section
/-!
DEFINITION. The start-up sequence (R71, R172 to R187, R204, R410, R496 to R501), Pyhiet's choice of a slot (R571), the copy of a page-map
replica (R190), and the beacons (R199).
-/

namespace Sys2Proof.Machine

/-! ### Pyhiet boots (R571, R592) -/

/-- The slots: false is A, true is B. -/
def Pyhiet.slot (p : Pyhiet) (b : Bool) : List Byte := if b then p.slotB else p.slotA
def Pyhiet.setSlot (p : Pyhiet) (b : Bool) (x : List Byte) : Pyhiet := if b then { p with slotB := x } else { p with slotA := x }

/-- Whether a supplement's header is well formed: its constants, reserved bytes, length, floor request and image digest (R570). -/
def suppFormOk (x : List Byte) : Bool :=
  let len := field x 0x14 4
  352 ≤ len && len ≤ 196608 && x.length = len && field x 0 4 = 0x53504C4D && field x 4 2 = 1 && field x 6 2 = 0 &&
  field x 0xC 4 ≤ field x 8 4 && (slice x 0x48 184).all (· = 0) && slice x 0x18 48 = Config.sha384 (slice x 0x100 (len - 352))

/-- A slot that ROM accepts: its header well formed, its signature good, for this ROM, and not below the floor (R571). -/
def Pyhiet.slotOk (p : Pyhiet) (b : Bool) : Bool :=
  let x := p.slot b
  suppFormOk x && Config.firmwareSig x && field x 0x10 4 = Config.romVersion && p.floor ≤ field x 8 4

/-- The slot that an update is written into: the one that the running supplement does not occupy; with ROM alone, the one that the marker
does not name (R572; log 51). -/
def Pyhiet.updSlot (p : Pyhiet) : Bool :=
  match p.running with
  | some b => !b
  | none => !p.marker

/-- ROM chooses the slot that the marker names, or the other one; without either the ROM firmware runs alone, with a warning. A live activation
loads the new slot first, and the marker moves and the floor rises once it has loaded (R571, R573, R588). -/
def State.bootPyhiet (s : State) : State :=
  let p := s.pyh
  let new := p.updSlot
  if p.activating && p.slotOk new then
    { s with pyh := { p with
      up := true, awake := true, wokeAt := s.now, lastWork := s.now, kickAt := s.now, restarting := false, activating := false, running := some new, marker := new, update := none
      floor := max p.floor (field (p.slot new) 0xC 4), liveTick := some s.now, liveWd := 0, livePrev := !new } }
  else
    let m := p.marker
    let pick := if p.slotOk m then some m else if p.slotOk (!m) then some (!m) else none
    let s := { s with pyh := { p with up := true, awake := true, wokeAt := s.now, lastWork := s.now, kickAt := s.now, restarting := false, activating := false, running := pick } }
    if pick.isNone then s.ev 0xC002 warn 0x0D 0 else s

/-! ### The steps (R173 to R175) -/

/-- Whether this start skips the laser warm-up and the march (R174, R204). -/
def State.isWarm (s : State) : Bool := s.bt.kind = .warm
def State.skipsMarch (s : State) : Bool := s.isWarm && !s.bt.marchOwed

/-- Whether a step has ended, or is skipped and what comes before it has ended. -/
def State.stepDone (s : State) (k : Nat) : Bool :=
  let e (k : Nat) : Bool := hasBit s.bt.ended k
  e k || (k = 1 && s.isWarm) || (k = 4 && s.isWarm && e 3) || (k = 7 && s.skipsMarch && e 5)

/-- The steps that every step in the After column of a step has ended for (R173). -/
def State.afterDone (s : State) (k : Nat) : Bool :=
  match k with
  | 2 => s.stepDone 1
  | 3 => s.stepDone 2
  | 4 => s.stepDone 3 && !s.isWarm
  | 5 => s.stepDone 3
  | 6 => s.stepDone 5
  | 7 => s.stepDone 5 && !s.skipsMarch
  | 8 => s.stepDone 5 && s.stepDone 7
  | 9 => s.stepDone 4
  | 10 => s.stepDone 9
  | 11 => s.stepDone 6 && s.stepDone 8 && s.stepDone 10
  | _ => false

/-- A step ends, and each step whose predecessors have all ended begins. -/
def State.nextSteps (s : State) (k : Nat) : State :=
  let s := { s with bt := { s.bt with ended := putBit s.bt.ended k true, busy := putBit s.bt.busy k false } }
  let b := (List.range 12).foldl (fun m j => if s.afterDone j && !hasBit s.bt.ended j then putBit m j true else m) s.bt.busy
  { s with bt := { s.bt with busy := b } }

/-! ### Attempts (R175, R389, R393, R496, R498, R501) -/

/-- The entry of section 0x0004 for a module: its class and identity (R498). -/
def State.ucieEntry (s : State) (u : Nat) : Option UcieRec := (s.bt.applied.map (·.ucie)).bind fun l => l.find? fun e => e.unit = u

/-- Whether the class and identity that a module's partner reports are those of its entry; an open site's identity is checked apart (R498). -/
def State.ucieMatches (s : State) (r : StepResult) (u : Nat) : Bool :=
  match s.ucieEntry u, r.caps.find? fun c => c.unit = u with
  | some e, some c => e.cls = c.cls && e.cls ≠ 0 && (e.cls = 3 || e.ident = c.ident)
  | _, _ => false

/-- The lanes that a repair field names (R498). -/
def repairLanes (f : BitVec 16) : List Nat :=
  (if f.getLsbD 15 then [bits f.toNat 14 9] else []) ++ if f.getLsbD 8 then [bits f.toNat 7 2] else []

/-- The repair field that names up to two lanes (R498). -/
def repairField : List Nat → BitVec 16
  | [] => 0
  | [a] => BitVec.ofNat 16 (2 ^ 15 + a % 64 * 2 ^ 9)
  | a :: b :: _ => BitVec.ofNat 16 (2 ^ 15 + a % 64 * 2 ^ 9 + 2 ^ 8 + b % 64 * 4)

/-- The repairs with which one direction of a module trains: the recorded ones, which are tried first, where they cover every failing lane, else
those of the failing lanes, of which at most two can be repaired (R497, R498). -/
def ucieRepair (recorded : BitVec 16) (bad : List Nat) : Option (BitVec 16) :=
  let bad := bad.eraseDups
  if bad.all (repairLanes recorded).contains then some recorded else if bad.length ≤ 2 then some (repairField bad) else none

/-- Whether a module's link reached its partner's required state, and no test flit failed (R496 to R498). -/
def ucieTrained (c : UcieCap) : Bool :=
  c.badFlits = 0 &&
  (if c.unit % 19 < 16 then c.gts = 32 && c.width = 64
   else if c.unit % 19 = 16 then (c.gts = 24 || c.gts = 32) && c.width = 64
   else (c.gts = 16 || c.gts = 24 || c.gts = 32) && (c.width = 32 || c.width = 64))

/-- What the bring-up of a module that matches its entry and trains leaves, its repairs among it (R498). -/
def State.ucieUp (s : State) (r : StepResult) (u : Nat) : Option Ucie :=
  match r.caps.find? fun c => c.unit = u, s.ucieEntry u with
  | some c, some e =>
    match ucieRepair e.tx c.txBad, ucieRepair e.rx c.rxBad with
    | some tx, some rx =>
      if s.ucieMatches r u && ucieTrained c then some { up := true, gts := c.gts, width := c.width, repairs := (tx, rx) } else none
    | _, _ => none
  | _, _ => none

/-- The modules that an attempt brings up. -/
def State.unitsUp (s : State) (r : StepResult) : List Nat := (List.range 76).filter fun u => (s.ucieUp r u).isSome

/-- Whether every module of a partner has matched and reached its required state. -/
def State.partnerUp (s : State) (r : StepResult) (q : LinkPartner) : Bool := (modulesOf q).all fun u => (s.ucieUp r u).isSome

/-- The modules of a list that train are up. -/
def State.trainUnits (s : State) (r : StepResult) (units : List Nat) : State :=
  units.foldl (fun s u => match s.ucieUp r u with
    | some m => s.modUcie u fun _ => m
    | none => s) s

/-- Rings of an attempt that found no dip (R393). -/
def State.ringsFailed (s : State) (r : StepResult) : List (LaneId × Bool) :=
  (r.rings.filter fun q => (acquire (s.baseline q.1 q.2.1) (lineOf q.1.snd q.1.rcv) none q.2.2).isNone).map fun q => (q.1, q.2.1)

end Sys2Proof.Machine

namespace Sys2Proof

/-- A lane passes on a path at start-up with at most 5,920 bit errors of 5.92 x 10^9 (R389, R391, R409). -/
def LaneReading.passes (r : LaneReading) : Bool := r.test.passes r.lane 5920

/-- Clusters of an attempt that failed: a core logic test, a FIFO that does not calibrate to 8 cycles, or its links (R161, R183). -/
def StepResult.badClusters (r : StepResult) : List (StackId × RegionNo) :=
  r.clusters ++ (r.checks.filter fun c => 8 < c.2.2.fifo || !c.2.2.linksOk).map fun c => (c.1, c.2.1)

/-- Whether an attempt of step 4 of a restart left elements that a repeat tries again (R175, R200). -/
def StepResult.leaves (r : StepResult) (mine : List StackId) : Bool := r.badClusters.any fun c => mine.contains c.1

/-- Two attempts of a step together: an element has failed only where both attempts say so, and what either measured well stands; the repeat
covers only what had failed, the rings and the groups of vertical lanes listed among it, and not the UCIe modules and the open sites listed, which
had passed (R175). -/
def StepResult.repeated (a b : StepResult) (rings : List (LaneId × Bool)) (groups : List VLane) (units : List Nat := [])
    (sites : List TileId := []) : StepResult :=
  { b with
    vlanes := (a.vlanes.filter fun r => !groups.any (·.sameGroup r.lane)) ++ b.vlanes.filter fun r => groups.any (·.sameGroup r.lane)
    stks := b.stks.filter a.stks.contains, tiles := b.tiles.filter a.tiles.contains
    hbms := b.hbms.filter a.hbms.contains, mps := b.mps.filter a.mps.contains, gateways := b.gateways.filter a.gateways.contains
    caps := (a.caps.filter fun c => units.contains c.unit) ++ b.caps ++ a.caps
    sites := (a.sites.filter fun c => sites.contains c.tile) ++ b.sites ++ a.sites
    clusters := b.clusters.filter a.badClusters.contains
    checks := (b.checks.filter fun c => a.badClusters.contains (c.1, c.2.1)) ++
      a.checks.filter fun c => !(b.checks.any fun d => d.1 = c.1 && d.2.1 = c.2.1 && a.badClusters.contains (c.1, c.2.1))
    rings := a.rings.map fun q =>
      if rings.contains (q.1, q.2.1) then (b.rings.find? fun p => p.1 = q.1 && p.2.1 = q.2.1).getD q else q
    lanes := a.lanes.map fun l => if l.passes then l else (b.lanes.find? fun m => m.lane = l.lane && m.path = l.path).getD l
    probes := a.probes ++ b.probes }

end Sys2Proof

namespace Sys2Proof.Machine

/-- The oscillators that an attempt of a start checked: the tuning of step 5 judges each region's lanes at the frequency found, or on the mesh (R162,
R491; log 69). -/
def State.checked (s : State) (r : StepResult) : State := forEach r.checks (fun c s => s.oscCheck c.1 c.2.1 c.2.2 true) s

/-- A lane of each group of vertical lanes that an attempt leaves unrepairable (R492). -/
def State.groupsBad (s : State) (r : StepResult) : List VLane := allStacks.flatMap fun x => ((s.checked r).tuning x r.vlanes).2.2

/-- An open site's entry in section 0x0007 of the applied record (R501). -/
def State.siteEntry (s : State) (t : TileId) : Option SiteRec :=
  (s.bt.applied.map (·.sites)).bind fun l => l.find? fun e => e.tile = t

/-- Whether an open site passes every check of R501. -/
def State.sitePasses (s : State) (r : StepResult) (t : TileId) : Bool :=
  match s.siteEntry t, r.sites.find? fun c => c.tile = t with
  | some e, some c =>
    e.psite ≤ 20 && 750 ≤ e.mv && e.mv ≤ 1200 && c.regulated && Config.sha384 c.record = e.digest && c.version = 1 && c.limit ≤ 105 &&
      [16, 24, 32].contains c.minGts && [32, 64].contains c.minWidth && s.partnerUp r (.site t) &&
      (modulesOf (.site t)).all fun u => (s.ucieUp r u).any fun m => c.minGts ≤ m.gts && c.minWidth ≤ m.width
  | _, _ => false

/-- Whether an attempt left elements that a repeat would try again (R175). -/
def State.stepFailed (s : State) (r : StepResult) (k : Nat) : Bool :=
  !r.tiles.isEmpty ||
  match k with
  | 5 => !r.stks.isEmpty || !(s.groupsBad r).isEmpty || !((List.finRange 8).all fun k => s.partnerUp r (.mp k)) ||
      !(allPorts.all fun t => s.partnerUp r (.hg t)) || (s.bt.isX && allTiles.any fun t => (s.siteEntry t).isSome && !s.sitePasses r t)
  | 6 => !r.hbms.isEmpty || !r.mps.isEmpty
  | 8 => !r.stks.isEmpty || !r.badClusters.isEmpty
  | 9 => !(s.ringsFailed r).isEmpty
  | 10 => r.lanes.any fun l => !l.passes
  | _ => false

/-! ### What the steps do (R173, R181, R183 to R186, R410) -/

/-- Step 3: identity, the record, the overlay of highest sequence that verifies, the sections they hold, the start count and the attestation key
(R178 to R181, R558, R560). -/
def State.applyRecords (s : State) (r : StepResult) : State :=
  match (if r.identityOk then s.bt.pickRecord r.sigOk else none) with
  | none => s.startFail 3
  | some c =>
    let rec_ := if c then s.bt.recB else s.bt.recA
    let use := s.bt.pickOverlay r.sigOk rec_
    let s := if use.isNone then s.ev 0x3001 warn else s
    let s := { s with bt := { s.bt with recUse := some c, overlayUse := use, startCount := s.bt.startCount + 1 } }
    let a := match s.bt.overlay with
      | some o => o.onto rec_
      | none => rec_
    let s := (allStacks.zip a.maps).foldl (fun s m => s.modStack m.1 fun k => { k with cmap := m.2.setWidth 100 }) s
    let s := forEach a.repairs (fun m s => s.modRegion m.stack m.region fun g => { g with repairs := g.repairs ++ [(m.failed, m.spare)] }) s
    { s with
      bt := { s.bt with applied := some a, spares := a.spares }
      pyh := { s.pyh with keySerial := s.pyh.keySerial + 1, attKey := s.pyh.keySerial + 1 } }

/-- An open site fails a check: VOPEN is off, its modules are down, and it is out of service with its error event (R501). -/
def State.siteOut (s : State) (t : TileId) : State :=
  ((((modulesOf (.site t)).foldl (fun s u => s.modUcie u fun _ => {}) s).modSite t fun k => { k with on := false, vopen := 0 }).ev
    0xA006 err 0x0C t.val).putOut 0x0C t.val

/-- An open site enters service when every check of R501 passes, in order; it draws VOPEN at the record's voltage. A failing check turns VOPEN off. -/
def State.admitSite (s : State) (r : StepResult) (t : TileId) : State :=
  match s.siteEntry t, r.sites.find? fun c => c.tile = t with
  | some e, some c =>
    if s.sitePasses r t then
      (s.modSite t fun k => { k with on := true, isolated := false, psite := e.psite, vopen := e.mv, limit := c.limit, lastReport := s.now }).trainUnits
        r (modulesOf (.site t))
    else s.siteOut t
  | _, _ => s.siteOut t

/-- Step 5: trained UCIe modules, partners that failed, the oscillator checks that the tuning of every stack's vertical links rests
on, and on CLM-D16-LQ54-X the open sites (R3, R491, R492, R493, R496, R498, R501). -/
def State.applyLinks (s : State) (r : StepResult) : State :=
  let units := (List.range 76).filter fun u => s.bt.isX || u % 19 < 17
  let s := s.trainUnits r units
  let s := (units.filter fun u => r.caps.any (fun c => c.unit = u) && !s.ucieMatches r u).foldl (fun s u => s.ev 0xA005 err 0x0B u) s
  let s := forEach ((List.finRange 8).filter fun k => !s.partnerUp r (.mp k)) (fun k s =>
    (s.modDie k fun d => { d with lost := true }).failDie (.mp k) 5) s
  let s := forEach (allPorts.filter fun t => !s.partnerUp r (.hg t)) (fun t s => s.failDie (.hg t) 5) s
  let s := forEach (allPorts.filter fun t => s.partnerUp r (.hg t)) (fun t s => s.modPort t fun q => { q with detached := false }) s
  let s := forEach r.stks (fun x s => s.stackOut x) s
  let s := forEach allStacks (fun x s => s.tuneStack x r.vlanes) (s.checked r)
  if s.bt.isX then forEach allTiles (fun t s => s.admitSite r t) s else s

/-- The self-test of a stack: its oscillators and FIFOs as measured, then the clusters that failed, those on unrepairable banks or links among
them, and the new map (R160 to R162, R183 to R185, R336, R493). -/
def State.selfTest (s : State) (x : StackId) (r : StepResult) (start : Bool) : State :=
  let s := forEach (r.checks.filter fun c => c.1 = x) (fun c s =>
    (s.oscCheck x c.2.1 c.2.2 start).modRegion x c.2.1 fun g =>
      { g with rx := { lat := max 4 (min 8 c.2.2.fifo) }, tx := { lat := max 4 (min 8 c.2.2.fifo) } }) s
  let bad := (List.finRange 100).filter fun p =>
    r.badClusters.contains (x, p) || (s.region x p).unrepairable || (s.region x p).vBad
  (s.mapStack x bad).setClocks x

/-- Step 9's outcome: each ring's lock point, or its lane failed on both paths and the ring parked. A ring that the attempt does not list locked
(R393, R394, R410; log 69). -/
def State.ringStep (s : State) (r : StepResult) : State :=
  forEach r.rings (fun q s =>
    let base := s.baseline q.1 q.2.1
    let s := s.modLane q.1 fun k => k.swept q.2.1 (midway base none q.2.2)
    match acquire base (lineOf q.1.snd q.1.rcv) none q.2.2 with
    | some d => s.modLane q.1 fun k => k.locks q.2.1 d.uw
    | none => s.modLane q.1 fun k => { k.park q.2.1 with ring := some (if q.2.1 then 5 else 4), startBad := 3 }) s

/-- Step 10's outcome: the margins on path A, the lanes that did not pass, on their path, and each probe's reference. A lane that the attempt does not
list on a path passed there (R391, R409, R465; log 69). -/
def State.marginStep (s : State) (r : StepResult) : State :=
  let s := forEach r.lanes (fun l s => s.modLane l.lane fun k =>
    let k := if l.path then k else { k with margin := median (l.test.cdBm.map marginOf) }
    let k := if l.passes then k else { k with startBad := putBit k.startBad (b2n l.path) true }
    if l.passes then k
    else if l.path then { k with failB := some (k.failB.getD 3) } else { k with failA := some (k.failA.getD 3) }) s
  forEach r.probes (fun q s => s.modEp q.1 fun e => { e with probeRef := kput 0 e.probeRef q.2.1.val q.2.2 }) s

/-- What a step's last attempt leaves (R173, R175, R183 to R186, R410). -/
def State.applyStep (s : State) (k : Nat) (r : StepResult) : State :=
  let s := forEach r.tiles (fun t s => s.failDie (.tile t) k) s
  if s.pw.phase ≠ .starting then s
  else match k with
  | 2 => if s.isWarm && s.pyh.up && !s.pyh.restarting then s else s.bootPyhiet
  | 3 => s.applyRecords r
  | 4 => { s with bt := { s.bt with laserLit := s.vlasOn } }
  | 5 => s.applyLinks r
  | 6 =>
    let s := forEach (List.finRange 8) (fun k s => s.modDie k fun d => { d with selfRef := 0, trained := if d.lost then 0 else 3 }) s
    let s := forEach r.mps (fun k s => (s.modDie k fun d => { d with lost := true }).failDie (.mp k) 6) s
    forEach r.hbms (fun h s => (s.modDie (dieOfHbm h) fun d => { d with trained := putBit d.trained (h.val % 2) false }).putOut 0x05 h.val) s
  | 7 =>
    let s := { s with regions := kmapIf {} s.regions (fun _ => true) fun g => { g with unrepairable := false } }
    let s := forEach r.march (fun m s => (s.marchStack m.1 false m.2).modStack m.1 fun k => { k with marchBuf := 0 }) s
    { s with bt := { s.bt with marchOwed := false } }
  | 8 =>
    let s := forEach r.stks (fun x s => s.stackOut x) s
    forEach (allStacks.filter fun x => !(s.stack x).oos) (fun x s => s.selfTest x r true) s
  | 9 => s.ringStep r
  | 10 => s.marginStep r
  | _ => s

/-! ### Ready (R176, R177, R182, R199, R410, R473) -/

/-- Whether a lane failed on both paths at this start. -/
def State.laneDead (s : State) (l : LaneId) : Bool := ((s.lane l).failOn false).isSome && ((s.lane l).failOn true).isSome

/-- An endpoint whose every outbound link, or every inbound link, is down on both paths (R410). -/
def State.epDead (s : State) (e : EpId) : Bool :=
  let dead (i j : EpId) : Bool := (List.finRange 32).all fun p => s.laneDead { snd := i, rcv := j, plane := p }
  (others e).all (fun j => dead e j) || (others e).all fun j => dead j e

/-- An endpoint out of service takes its stack, its HBM3 stacks or its port with it (R410). -/
def State.epOut (s : State) (e : EpId) : State :=
  let s := s.putOut 0x08 e.val
  match epStack e, epDie e, epPort e with
  | some x, _, _ => s.stackOut x
  | _, some k, _ =>
    ((s.modDie k fun d => { d with trained := 0 }).putOut 0x05 (2 * k.val)).putOut 0x05 (2 * k.val + 1)
  | _, _, some t => (s.modPort t fun q => { q with oos := true }).putOut 0x06 (24 + t.val)
  | _, _, _ => s

/-- The links as step 10 leaves them: every lane that passed on path A, in the widest mask (R409, R410, R420). -/
def State.startLinks (s : State) : KMap Link :=
  allEps.foldl (fun m i => m ++ (others i).foldl (fun m j =>
    let u := if s.isOut 0x08 i.val || s.isOut 0x08 j.val then 0 else s.usableRx i j &&& s.usableTx i j
    let w := widest u
    m ++ [(linkKey i j, { trained := w.1 ≠ 0, mask := w.1, width := w.2, agreed := u, usableSnd := s.usableTx i j
                          sndEpoch := (s.ep i).epoch, seen := true, lastPkt := s.now
                          nextMark := if w.1 = 0 then 0 else 16 * s.now + markerInterval w.1 })]) []) []

/-- An endpoint at ready: synchronised, its tables written, every peer heard, and those out of service held lost (R173, R199, R444). -/
def State.startEp (s : State) (dead : BitVec 32) (e : EpId) : State :=
  let tab (epoch : Bool) : KMap (BitVec 64) := (others e).map fun j => (j.val, s.newEntry e j epoch)
  s.modEp e fun x =>
    { x with inService := !hasBit dead e.val, synced := true, delta := 0, corr := 0, lastSync := s.now, lost := dead
             lastBeacon := (others e).map fun j => (j.val, s.now), bankA := tab false, bankB := tab true, cwPos := some 0, waits := 0, ctlB := false
             beacons := if (stewOf e).isSome then (others e).map fun j => (j.val, (s.ep j).epoch) else []
             probeFail := s.loopsFailed e true }

/-- What both stewards know of the lanes at ready: the start-up results on either path, and the lanes that failed for a ring (R410, R422, R463, R472). -/
def State.startLanes (s : State) (st : Steward) : Steward :=
  let those (f : Lane → Bool) : List LaneId := (s.lanes.filter fun k => f k.2).map fun k => laneOfKey k.1
  { st with startA := those fun k => k.startBad.getLsbD 0, startB := those fun k => k.startBad.getLsbD 1
            badA := those fun k => k.failA.isSome, badB := those fun k => k.failB.isSome, rings := those fun k => k.ring.isSome }

/-- Step 11 ends: the module is ready (R173, R176, R199, R410, R473). -/
def State.moduleReady (s : State) : State :=
  let s := forEach (allEps.filter fun e => s.epDead e) (fun e s => s.epOut e) s
  let dead : BitVec 32 := allEps.foldl (fun m e => if s.isOut 0x08 e.val then putBit m e.val true else m) 0
  let s := { s with links := s.startLinks }
  let s := forEach allEps (fun e s => s.startEp dead e) s
  let gens : KMap Nat := [(0, 1), (1, 1), (2, 1), (3, 1)]
  let exp : KMap Nat := (List.range 4).map fun g => (g, s.now + 1000)
  let upA := !hasBit dead 28
  let upB := !hasBit dead 30
  { s with
    stewA := s.startLanes { up := upA, holds := if upA then 0xF else 0, gen := gens, leaseE := exp, sentE := exp, lastRenew := s.now }
    stewB := s.startLanes { up := upB, gen := gens, heardE := exp, known := 0xF }
    groups := 0, holder := 0
    pm := { repDown := allTiles.foldl (fun m (t : TileId) => if s.isOut 0x03 t.val then putBit m t.val true else m) 0 }
    pw := { s.pw with phase := .ready, failed := false }
    bt := { s.bt with ended := putBit s.bt.ended 11 true, busy := 0 } }.writeOverlay

/-- A start-up step ends with the result of its attempt. A first attempt that leaves failed elements repeats once in steps 5, 6, 8, 9 and
10, and what failed both attempts is out of service (R173, R175). Step 1 ends with the gateways powered, which follow their PERST_N. -/
def execStartupStepEnd (k : Fin 12) (r : StepResult) (s : State) : Res :=
  let again := k.val = 5 || k.val = 6 || k.val = 8 || k.val = 9 || k.val = 10
  .next (if s.pw.phase ≠ .starting || !hasBit s.bt.busy k.val then s
    else if again && s.stepFailed r k.val && !hasBit s.bt.repeated k.val then
      { s with bt := { s.bt with repeated := putBit s.bt.repeated k.val true, firstTry := s.bt.firstTry ++ [(k.val, r)] } }
    else
      let r := match s.bt.firstTry.find? fun f => f.1 = k.val with
        | some f => f.2.repeated r (s.ringsFailed f.2) (s.groupsBad f.2) (s.unitsUp f.2) (allTiles.filter (s.sitePasses f.2))
        | none => r
      let s := s.applyStep k.val r
      if s.pw.phase ≠ .starting then s
      else if k.val = 11 then s.moduleReady
      else
        let s := s.nextSteps k.val
        if k.val = 1 then s.portsFollow else s)

/-! ### The return of a die (R160, R189, R192, R498 to R503) -/

/-- The crossing FIFOs of a stack's regions, as its sequence calibrates them (R160). -/
def State.setFifos (s : State) (x : StackId) (r : StepResult) : State :=
  forEach (r.checks.filter fun q => q.1 = x) (fun q s => s.modRegion x q.2.1 fun g =>
    { g with rx := { g.rx with lat := max 4 q.2.2.fifo }, tx := { g.tx with lat := max 4 q.2.2.fifo } }) s

/-- A steward returns with its hub: from a partner in service it receives the Tollgate state, the lanes and the pending switchovers, and is standby;
without one it waits as R651 gives (R472, R482, R651). -/
def State.stewBack (s : State) (h : Fin 2) : State :=
  let o := s.stew (otherStew h)
  if s.stewUp (otherStew h) then
    s.modStew h fun _ => { o with
      up := true, holds := 0, leaseE := [], sentE := [], lastRenew := 0, heardE := o.sentE, known := o.holds, heard := 0, asked := []
      returned := false, partnerLost := none }
  else s.modStew h fun st => { st with up := true, returned := true, paths := s.groups }

/-- A die whose clock is present and whose sequence has passed returns to service: its FIFOs are calibrated, its modules train, and a chiplet passes
the checks of its admission. While its base tile is isolated the tile's reset governs, while its CD is away with the whole stack the stack's, and with the tile return the dies that were not isolated on
their own account (R160, R189, R192, R500, R503). -/
def execDieReturnToService (back : DieReturn) (s : State) : Res :=
  let d := back.die
  let r := back.found
  let c := dieClass d
  let tileAway : Bool := match d with
    | .cd x => s.alone (.tile (tileOfStack x))
    | .ml x => s.alone (.tile (tileOfStack x)) || (s.alone (.cd x) && hasBit s.bt.wholeReset x.val)
    | _ => false
  let links : Bool := match d with
    | .mp k => s.partnerUp r (.mp k)
    | .hg t => s.partnerUp r (.hg t)
    | _ => true
  .next (if !s.on || s.bt.stayOut.contains c || !s.alone d || tileAway || !links || (r.checks.any fun q => 8 < q.2.2.fifo) then s
    else
      let s := { s with bt := { s.bt with isolated := s.bt.isolated.filter (· ≠ c), commanded := s.bt.commanded.filter (· ≠ c) }
                        pw := { s.pw with railFaults := s.pw.railFaults.filter fun r => !(railsOf d).contains r } }
      match d with
      | .cd x =>
        let s := { s with bt := { s.bt with wholeReset := putBit s.bt.wholeReset x.val false } }
        ((s.modEp (stackEp x) fun e => { e with isolated := false }).setFifos x r).stackBack x true (!s.alone (.ml x))
      | .ml x => ((s.setFifos x r).stackBack x false true).retryStalled (stackEp x)
      | .tile t =>
        let s := forEach (epsOfTile t) (fun e s => s.modEp e fun x => { x with isolated := false }) s
        let s := forEach (stacksOfTile t) (fun x s => (s.setFifos x r).stackBack x (!s.alone (.cd x)) (!s.alone (.ml x))) s
        let s := { s with pm := { s.pm with copying := putBit s.pm.copying t.val true }
                          bt := { s.bt with laserLit := putBit s.bt.laserLit t.val true } }
        let mine : List (LinkPartner × DieId) :=
          [(.mp ⟨2 * t.val, by omega⟩, .mp ⟨2 * t.val, by omega⟩), (.mp ⟨2 * t.val + 1, by omega⟩, .mp ⟨2 * t.val + 1, by omega⟩), (.hg t, .hg t)]
        let s := forEach (mine.filter fun q => !s.alone q.2 && s.partnerUp r q.1) (fun q s => s.trainUnits r (modulesOf q.1)) s
        let s := if (modulesOf (.hg t)).all fun u => (s.ucieMod u).up then s.modPort t fun q => { q with detached := false } else s
        let s := if s.bt.isX && (s.site t).on then s.admitSite r t else s
        match stewOf (hubEp t) with
        | some h => s.stewBack h
        | none => s
      | .mp k =>
        ((s.modEp (dieEp k) fun e => { e with isolated := false }).modDie k fun d => { d with lost := false }).trainUnits r (modulesOf (.mp k))
      | .hg t => ((s.modEp (gwEp t) fun e => { e with isolated := false }).modPort t fun q =>
          { q with isolated := false, detached := false }).trainUnits r (modulesOf (.hg t))
      | .site t => if s.bt.isX && (s.site t).on then s.admitSite r t else s)

/-! ### The restart of a partition (R183 to R185, R200, R204, R492, R493) -/

/-- The tuning and the self-test of one stack in a restart, after its clear; a stack whose die is isolated stays away (R196, R200, R204). -/
def State.restartStack (s : State) (x : StackId) (r : StepResult) : State :=
  if s.alone (.cd x) || s.alone (.ml x) || s.alone (.tile (tileOfStack x)) then s
  else
    let s := (s.tuneStack x r.vlanes).modStack x fun k => { k with cdLost := false, mlLost := false }
    let s := { s with regions := kmapIf {} s.regions (fun k => k / 100 = x.val) fun r => { r with clearing := false } }
    if (s.stack x).oos then s else (s.selfTest x r false).loadClusters x

/-- A restart ends after its steps, a failed attempt repeated once: idle without a bundle, or stopped with cause 0x08 where a stack of it is left
out of service, or away with an isolated die, which the spec does not name (R185, R200; DEDUCED, log 46). It does not end before the first sync of
an endpoint that has returned (R145). Choices that differ go into the field overlay (R177). -/
def execPartitionRestartDone (p : PartId) (tests : Attempts) (s : State) : Res :=
  let b := s.part p
  let mine := s.stacksOf p
  .next (if b.block ≠ .committed || b.work ≠ .resetting || mine.any fun x => (s.ep (stackEp x)).inService && !(s.ep (stackEp x)).synced then s
    else
      let r := if tests.first.leaves mine then tests.first.repeated tests.again [] [] else tests.first
      let s := (forEach mine (fun x s => s.restartStack x r) s).writeOverlay
      let bad := mine.any fun x => (s.stack x).oos || (s.stack x).cdLost || (s.stack x).mlLost
      s.modPart p fun b => if bad then { b with work := .stopped, cause := 0x08 } else { b with work := .idle, cause := 0 })

/-- The commit finishes once its regions are awake and cleared: copies are loaded, the partition is idle, and its first heartbeat is written. A
stack with a region that failed the check of a wake while it was unassigned runs steps 2 to 4 of a restart first, with one repeat; where it is
left out of service the partition stands as after such a restart (R200, R494, R525; DEDUCED, log 69). -/
def execCommitDone (c : CommitEnd) (s : State) : Res :=
  let p := c.part
  let b := s.part p
  .next (if b.block = .committed && b.commitSt = 1 && s.allAwake p then
      let fresh := if b.work = .stopped then [] else
        (s.stacksOf p).filter fun x => (List.finRange 100).any fun q => (s.region x q).wakeFailed
      let r := if c.tests.first.leaves fresh then c.tests.first.repeated c.tests.again [] [] else c.tests.first
      let s := if fresh.isEmpty then s else (forEach fresh (fun x s => s.restartStack x r) s).writeOverlay
      let s := forEach (s.stacksOf p) (fun x s => s.loadClusters x) s
      let bad := fresh.any fun x => (s.stack x).oos
      let s := s.modPart p fun b =>
        { b with commitSt := 2, hbCap := s.capOver (s.stacksOf p), work := if bad then .stopped else b.work, cause := if bad then 0x08 else b.cause }
      s.beat p (workCode (s.part p).work) (s.causeOf p)
    else s)

/-! ### The copy of the page map (R190) -/

/-- The copy into a reset tile's replica ends: the replica equals another tile's, with the updates made meanwhile, and the flips that the
running periods have made there (R190, R553). -/
def execPageMapCopyDone (t : TileId) (s : State) : Res :=
  .next (match allTiles.find? fun u => u ≠ t && !hasBit s.pm.repDown u.val with
    | none => s
    | some u =>
      if !s.on || !hasBit s.pm.copying t.val then s
      else
        let pm := s.pm.modRep t fun _ => s.pm.rep u
        let s := { s with pm := { pm with repDown := putBit pm.repDown t.val false, copying := putBit pm.copying t.val false } }
        let like (m : BitVec 4) : BitVec 4 := putBit m t.val (hasBit m u.val)
        { s with parts := kmapIf {} s.parts (fun _ => true) fun b =>
          { b with periods := b.periods.map fun n =>
            { n with flipped := like n.flipped, decided := like n.decided, confirmed := like n.confirmed
                     failSeen := like n.failSeen, lossSeen := like n.lossSeen } } })

/-! ### Beacons (R199) -/

/-- An endpoint in service sends a beacon with its link epoch to each of its peers; one whose port die or gateway is isolated or in reset is
silent, so that its peers hold it lost (R191, R199, R376). -/
def execBeaconSend (e : EpId) (s : State) : Res :=
  let x := s.ep e
  .next (if !s.on || !x.inService || x.isolated || s.pw.phase ≠ .ready || ((epStack e).isNone && s.dieGone e .load) then s
    else s.sendAll e .beacon (.beacon x.epoch))

/-- A beacon arrives and ends any lost state of its sender; a steward that hears its partner's hub again counts it present, and a token
holder's state record answers the first beacon of an endpoint that was lost or whose link epoch shows a reset (R199, R417, R474, R479, R482). -/
def execBeacon (a : Arr) (epoch : BitVec 8) (s : State) : Res :=
  .next (s.arriveCtl a .beacon (.beacon epoch) fun s =>
    let o := a.h.origin
    let was := hasBit (s.ep a.rx).lost o.val
    let s := s.modEp a.rx fun x => { x with lost := putBit x.lost o.val false, lastBeacon := kput 0 x.lastBeacon o.val s.now }
    match stewOf a.rx with
    | some h =>
      let s := if o = stewHub (otherStew h) then s.modStew h fun st => { st with partnerLost := none } else s
      let first := kget 0 (s.ep a.rx).beacons o.val ≠ epoch
      let s := s.modEp a.rx fun x => { x with beacons := kput 0 x.beacons o.val epoch }
      if (was || first) && (s.stew h).holds ≠ 0 then s.sendRecord h o else s
    | none => s)

/-- The partition's running periods have lost an endpoint at a hub: its replica reverts at K (R553). -/
def State.hubLoses (s : State) (t : TileId) (o : EpId) : State :=
  forEach allParts (fun p s =>
    let mine := s.gwOf p = o || (match epStack o with
      | some x => hasBit (s.part p).stackMask x.val
      | none => false)
    if (s.part p).block = .committed && mine then
      s.modPeriods p (fun n => n.stage ≠ .noticed && !hasBit n.decided t.val) fun n => { n with lossSeen := putBit n.lossSeen t.val true }
    else s) s

/-- No beacon has come from an endpoint for 3,000 ticks: operations to it end with "endpoint reset", routes avoid it, and a steward learns of
the loss of its partner's hub, after which it announces what waited for an echo (R199, R421, R447, R473, R474, R477, R553, R651). -/
def execPeerLost (e o : EpId) (s : State) : Res :=
  let x := s.ep e
  .next (if !s.on || e = o || x.isolated || s.pw.phase ≠ .ready || hasBit x.lost o.val ||
      s.now < kget 0 x.lastBeacon o.val + 3000 then s
    else
      let s := (s.modEp e fun x => { x.forgetPeer o with lost := putBit x.lost o.val true }).releaseOf e o
      let s := (s.ops.filter fun q => q.snd = e && q.placed && q.tgt = o).foldl (fun s q =>
        if q.attempts.isEmpty then s.finishOp q stReset [] else s.reply q (q.attempts.length - 1) stReset []) s
      let s := match epHub e with
        | some t => s.hubLoses t o
        | none => s
      let s := match stewOf e with
        | some h => if o = stewHub (otherStew h) then
            (s.modStew h fun st => { st with partnerLost := some (s.copyNow e), heard := 0 }).announceHeld h
          else s
        | none => s
      let gone (h : EpId) : Bool := e = h || hasBit (s.ep e).lost h.val
      let s := if (o = 28 || o = 30) && e ≠ 28 && e ≠ 30 && gone 28 && gone 30 then s.ev 0x9004 err 0x08 e.val else s
      s.reroute e)

end Sys2Proof.Machine
end

