-- ==== Sys2Proof/Machine/Dies.lean ====
section
/-!
DEFINITION. Vertical eye monitors (R495), UCIe flits and links that go down (R496 to R500), and the open sites (R501 to R505).
-/

namespace Sys2Proof.Machine

/-! ### Eye monitors (R495) -/

/-- Record an event of a group once in each start: of its warning, or of its error. -/
def State.eyeOnce (s : State) (l : VLane) (e : Bool) (code : BitVec 16) (sev : Fin 4) : State :=
  if s.bt.eyeWarned.contains (l, e) then s
  else { s with bt := { s.bt with eyeWarned := s.bt.eyeWarned ++ [(l, e)] } }.ev code sev 0x01 l.stack.val none
    (BitVec.ofNat 96 (l.bundle * 2 ^ 15 + l.lane))

/-- Bits of a group's passing range, in thousandths of a bit time: a step is 3.7 ps; a region bundle takes two bits to a cycle of its clock, and
bundles at the fixed clock eight bits to a tick, channel 17 two (R487, R491). -/
def State.eyeRange (s : State) (l : VLane) (steps : Nat) : Nat :=
  if !l.isRegion then 37 * steps * 8 / 10
  else if l.channel = 17 then 37 * steps * 2 / 10
  else 37 * steps * 2 * (s.region l.stack ⟨l.bundle % 100, by omega⟩).mhz / 10000

/-- A group below 0.10 of a bit time: a region group throughout 1 ms lowers the highest frequency of its region, and the time begins again; a
fixed bundle's error is recorded once at each start (R495). -/
def State.eyeShut (s : State) (g : VLane) (range : Nat) : State :=
  let rest := s.bt.eyeLow.filter fun c => c.1 ≠ g
  let setLow (s : State) (l : List (VLane × Nat)) : State := { s with bt := { s.bt with eyeLow := l } }
  if 100 ≤ range then setLow s rest
  else if !g.isRegion then s.eyeOnce g true 0xA003 err
  else match s.bt.eyeLow.find? fun c => c.1 = g with
    | none => setLow s (rest ++ [(g, s.now)])
    | some (_, t) =>
      if s.now < t + 1000000 then s
      else (setLow s (rest ++ [(g, s.now)])).lowerMax g.stack ⟨g.bundle % 100, by omega⟩

/-- The corrected errors of a lane, counted over 1 s: more than one word in a million is a warning, and the lane is tested first at the next
tuning (R495). -/
def State.eyeLane (s : State) (l : VLane) (words errors : Nat) : State :=
  let rest := s.bt.eyeCounts.filter fun c => c.1 ≠ l
  let (t, w, e) := ((s.bt.eyeCounts.find? fun c => c.1 = l).map (·.2)).getD (s.now, 0, 0)
  let (w, e) := (w + words, e + errors)
  if s.now < t + 1000000000 then { s with bt := { s.bt with eyeCounts := rest ++ [(l, t, w, e)] } }
  else
    let s := { s with bt := { s.bt with eyeCounts := rest } }
    if e * 1000000 ≤ w then s
    else { s with bt := { s.bt with testFirst := VLane.insert l s.bt.testFirst } }.ev 0xA004 warn 0x01 l.stack.val none
      (BitVec.ofNat 96 (l.bundle * 2 ^ 15 + l.lane))

/-- A sample of a group, named by a lane of it: its passing range in steps, the words that its lanes have carried since the last sample, and the
lanes with corrected errors among them, each with their number (R495). -/
def execEyeMonitorSample (x : StackId) (bundle lane steps words : Nat) (errors : List (Nat × Nat)) (s : State) : Res :=
  let l : VLane := { stack := x, bundle, lane }
  let g : VLane := { l with lane := l.first }
  .next (if !s.on || !s.pw.rails || !l.wf then s
    else if l.isRegion && (s.region l.stack ⟨l.bundle % 100, by omega⟩).mhz = 0 then s
    else
      let range := s.eyeRange l steps
      let s := if range < 150 then s.eyeOnce g false 0xA002 warn else s
      let s := { s.eyeShut g range with bt := { (s.eyeShut g range).bt with eyes := (s.bt.eyes.filter fun c => c.1 ≠ g) ++ [(g, range)] } }
      let found := errors.filter fun c => ({ l with lane := c.1 } : VLane).wf && ({ l with lane := c.1 } : VLane).sameGroup l
      let counting := (s.bt.eyeCounts.filter fun c => c.1.sameGroup l && !found.any (·.1 = c.1.lane)).map fun c => (c.1.lane, 0)
      forEach (found ++ counting) (fun c s => s.eyeLane { l with lane := c.1 } words c.2) s)

/-! ### UCIe (R499, R500) -/

/-- The packet bytes that remain to be taken after a packet has ended: a packet follows at once unless its first five bytes are zero, which no
packet's are; else zeros are idle until the next byte that is not (R499; DEDUCED, log 69). -/
def ucieRest (b : List Byte) : List Byte := if (b.take 5).all (· = 0) then b.dropWhile (· = 0) else b

/-- The packet in progress and the packets that are complete after some bytes of the stream (R399, R499). -/
def ucieTake : Nat → List Byte → List (List Byte) × List Byte
  | 0, b => ([], b)
  | n + 1, b =>
    let b := ucieRest b
    if b.length < 12 || b.length < packetLen b then ([], b)
    else
      let r := ucieTake n (b.drop (packetLen b))
      (b.take (packetLen b) :: r.1, r.2)

/-- Whether the reset-notice of a tile is asserted: the tile is isolated or in reset (R500). -/
def State.notice (s : State) (t : TileId) : Bool := (s.ep (hubEp t)).isolated

/-- An open-site chiplet is isolated, with its error event; VOPEN is turned off. A second cause in that tick is recorded too (R500, R503, R505). -/
def State.siteLost (s : State) (t : TileId) (detail : Nat) : State :=
  let k := s.site t
  let e := s.ev 0xA007 err 0x0C t.val none (BitVec.ofNat 96 detail)
  if !k.on then s
  else if k.isolated then (if k.isoAt = some s.now then e else s)
  else (e.isolateAt (.site t) 0).modSite t fun k => { k with isoAt := some s.now }

/-- A partner's link goes down. With the reset-notice the MP's stacks go to self-refresh and the gateway keeps its link; without it the partner is
reset (R500). -/
def State.partnerDown (s : State) (q : LinkPartner) : State :=
  let s := (modulesOf q).foldl (fun s u => s.modUcie u fun _ => {}) s
  match q with
  | .mp k =>
    if s.notice ⟨k.val / 2, by omega⟩ then s.modDie k fun d => { d with selfRef := d.trained, full := [] }
    else s.isolateAt (.mp k) 0
  | .hg t =>
    if s.notice t then
      let s := s.modPort t fun q => { q with detached := true }
      forEach (s.servedBy t) (fun p s => ((s.discardWork p).gatewayStop p).discardWork p) s
    else
      let s := forEach (s.servedBy t) (fun p s => s.gatewayStop p) s
      s.isolateAt (.hg t) 0x09
  | .site t => s.siteLost t 1

/-- The sideband reports a link down. -/
def execUcieLinkDown (q : LinkPartner) (s : State) : Res := .next (if !s.on || !s.pw.rails then s else s.partnerDown q)

/-- The partner of a UCIe module (R496). -/
def partnerOf (u : Fin 76) : LinkPartner :=
  let t : TileId := ⟨u.val / 19, by omega⟩
  let m := u.val % 19
  if m < 16 then .mp ⟨(2 * (u.val / 19) + m / 8) % 8, by omega⟩ else if m = 16 then .hg t else .site t

/-- A flit that is discarded takes with it every packet that has a byte in it; packets are taken again from the next packet start (R499). -/
def Ucie.lose (m : Ucie) (count : Nat) : Ucie := { m with count := (count + 1) % 65536, skipping := true, part := [] }

/-- The VC of the packet to which the first bytes of a stream belong, of which no byte is idle. -/
def streamVc (b : List Byte) : Option Nat := (ucieRest b).head?.map fun x => bits x.toNat 6 5

/-- The 256 bytes of a flit arrive. One that fails its CRC or is out of count is discarded; failing ones throughout 1 µs bring the link down. A good
one returns its credits, its packets are taken, its own buffer is freed, and the flits that waited for a buffer go out (R499, R500). -/
def execUcieFlit (u : Fin 76) (bs : List Byte) (s : State) : Res :=
  let m := s.ucieMod u.val
  let count := field bs 0 2
  let first := field bs 2 1
  let cr := field bs 3 1
  let crcOk := bs.length = 256 && field bs 0xFC 4 = (crc32c (bs.take 0xFC)).toNat
  let body := slice bs 4 240
  .next (if !s.on || !m.up then s
    else if !crcOk then
      let s := s.modUcie u.val fun m => { m.lose m.count with failSince := some (m.failSince.getD s.now) }
      if (m.failSince.getD s.now) + 1000 ≤ s.now then s.partnerDown (partnerOf u) else s
    else if count ≠ m.count then s.modUcie u.val fun m => { m.lose count with failSince := none }
    else
      let stream := if !m.skipping then m.part ++ body else if first < 240 then body.drop first else []
      let (done, rest) := ucieTake 32 stream
      let s := s.modUcie u.val fun m =>
        { m with count := (m.count + 1) % 65536, skipping := m.skipping && 240 ≤ first, part := rest, failSince := none
                 credits := kmod 0 m.credits (cr / 64) (· - cr % 64)
                 owed := match streamVc stream with
                   | some vc => kmod 0 m.owed vc (· + 1)
                   | none => m.owed }
      (done.foldl (fun s b => s.emit (.uciePacket u.val b)) s).sendFlits u.val m.tx.length)

/-! ### Open sites (R501 to R503) -/

/-- The chiplet reports its temperature, in degrees; its declared limit isolates it. -/
def execOpenSiteTempReport (t : TileId) (temp : Int) (s : State) : Res :=
  .next (if !s.on || !(s.site t).on then s
    else
      let s := if (s.site t).isolated then s else s.modSite t fun k => { k with lastReport := s.now }
      if (s.site t).limit ≤ temp then s.siteLost t 0 else s)

def execOpenSiteTempTimeout (t : TileId) (s : State) : Res :=
  .next (if s.on && !(s.site t).isolated && (s.site t).lastReport + 100000000 ≤ s.now then s.siteLost t 2 else s)

/-- The partition that a site is assigned to (R502). -/
def State.siteOwner (s : State) (t : TileId) : Option PartId :=
  allParts.find? fun p => (s.part p).block = .committed && hasBit (s.part p).siteMask t.val

/-- A packet from the chiplet: the hub writes its partition, takes the six operations of R502 on VC 2, and issues them as its own; what it
refuses is answered with a status. -/
def execOpenSitePacket (t : TileId) (vc : BitVec 2) (op : POp) (addr : BitVec 48) (pl : Payload) (tag : Nat) (s : State) : Res :=
  let reply (st : BitVec 4) : State := s.emit (.siteReply t tag st [])
  .next (if !s.on || !(s.site t).on || (s.site t).isolated || (s.ep (hubEp t)).isolated then s
    else match s.siteOwner t with
      | none => reply stNotOwned
      | some p =>
        let base (k : OpKind) : RemOp := { kind := k, issuer := .site t tag, snd := hubEp t, part := p, addr, payload := pl, instr := s.nextOp }
        let go (s : State) (o : RemOp) : State := (s.addOp o).pump
        if vc ≠ 2 then reply stAddress
        else match op, pl with
          | .load, _ => go s { base .load with payload := .none }
          | .store, .store _ _ => go s (base .store)
          | .atomic, .atomic _ => go s (base .atomic)
          | .copyData, .copyData _ => go s (base .copySend)
          | .copyRead, .copyRead dst len _ _ _ => go s { base .copyRead with payload := .copyRead dst len 0 0 0 }
          | .wmAdd, .wmAdd core _ _ =>
            if h : core < 24576 then
              let g : CoreId := ⟨core, h⟩
              if hasBit (s.part p).stackMask (coreStack g).val then
                go s { base .wmAdd with placed := true, tgt := stackEp (coreStack g), ackBy := stackEp (coreStack g) }
              else reply stNotOwned
            else reply stAddress
          | _, _ => reply stAddress)

end Sys2Proof.Machine
end

