-- ==== Sys2Proof/Machine/Health.lean ====
section
/-!
DEFINITION. Health information: the state of the module as it is reported (R73, R564, R634), the selectors of HEALTH_QUERY (R539), and the
health report of R614 to R617.
-/

namespace Sys2Proof.Machine

/-! ### The module's state -/

/-- The module state of measurement block 6 and of MODULE_STATUS; a lost reference reads as a failed start (R164, R564, R634). -/
def State.moduleState (s : State) : Nat :=
  match s.pw.phase with
  | .ready => 1
  | .startFailed | .tcxoLost => 2
  | _ => 0

/-- Automatic restarts counted within the last 24 h (R129, R600). -/
def State.restartCount (s : State) : Nat := min 3 (s.pw.restarts.filter fun t => s.now < t + 86400000000000).length

/-! ### The sections of the report (R616) -/

/-- Indicators and their elements, in the order of R610. -/
def ageElements (s : State) : List (Nat × Nat) :=
  (List.range 32).map (fun e => (1, e)) ++ (List.range 32).map (fun e => (2, e)) ++ (List.range 16).map (fun x => (3, x)) ++
    (List.range 16).map (fun x => (4, x)) ++ (List.range 16).map (fun h => (5, h)) ++
    ((List.range 76).filter fun u => (s.ucieMod u).up).map fun u => (6, u)

/-- The estimator as a snapshot of this tick sees it: before the update of the tick (R629). -/
def State.ageSeen (s : State) : Ageing := ((s.ageBefore.filter fun q => q.1 = s.now).map (·.2)).getD s.age

/-- The latest value of an element, which the spec leaves open before its first sample. -/
def State.ageLatest (s : State) (k : Nat) : BitVec 32 :=
  match kget [] s.ageSeen.hourly k with
  | h :: _ => BitVec.ofInt 32 h.2
  | [] => s.freeBits 32

/-- The days remaining of an element, 0xFFFF before its first prediction (R612). -/
def State.ageDays (s : State) (k : Nat) : Nat := (kget 0 s.ageSeen.days k + 65535) % 65536

/-- Section 0x0001. -/
def State.ageSection (s : State) : List Byte :=
  (ageElements s).flatMap fun x =>
    let k := 65536 * x.1 + x.2
    leBytes 1 x.1 ++ leBytes 1 (ageClass x.1).toNat ++ leBytes 2 x.2 ++ leBytes 4 (s.ageLatest k).toNat ++
      leBytes 4 (BitVec.ofInt 32 (ageLimit x.1).1).toNat ++ leBytes 2 (s.ageDays k) ++
      leBytes 1 (b2n (kget false s.ageSeen.warned k) + 2 * b2n (kget false s.ageSeen.reached k)) ++ [0]

/-- Section 0x0002: the entries of R179, section 0x0008. -/
def State.oosSection (s : State) : List Byte :=
  s.bt.oosList.flatMap fun x => leBytes 1 x.cls.toNat ++ leBytes 1 x.num ++ leBytes 2 x.cause.toNat ++ leBytes 4 x.start

/-- One entry of section 0x0003 for each path on which a lane is unusable. -/
def Lane.report (k : Lane) (l : LaneId) (inUse : Bool) : List Byte :=
  (k.badOn inUse).flatMap fun q =>
    leBytes 1 l.snd.val ++ leBytes 1 l.rcv.val ++ leBytes 1 l.plane.val ++ leBytes 1 (b2n q.1 + 2 * min 6 q.2.toNat + 16 * b2n k.held)

def State.laneSection (s : State) : List Byte := s.lanes.flatMap fun k => k.2.report (laneOfKey k.1) (s.pathOf (laneOfKey k.1))

/-- Section 0x0004: ML regions in service, then HBM3 stacks. -/
def State.memSection (s : State) : List Byte :=
  (allStacks.flatMap fun x => (List.finRange 100).flatMap fun p =>
    if hasBit (s.stack x).cmap p.val && !(s.stack x).oos then
      leBytes 1 x.val ++ leBytes 1 p.val ++ leBytes 2 0 ++ leBytes 4 (s.region x p).mlErrors
    else []) ++
  (List.finRange 16).flatMap fun h => leBytes 1 h.val ++ leBytes 3 0 ++ leBytes 4 (kget 0 (s.die (dieOfHbm h)).eccCount (h.val % 2))

/-- The uncorrectable codewords that an endpoint has received on its links, and the corrected symbols on its lanes (R403, R616). -/
def EpState.lostCount (x : EpState) : Nat := min (2 ^ 32 - 1) (x.lostCw.map (·.2)).sum
def State.correctedAt (s : State) (e : EpId) : Nat :=
  min (2 ^ 64 - 1) (((s.lanes.filter fun k => (laneOfKey k.1).rcv = e).map fun k => k.2.corrected).sum)

/-- Section 0x0005: 64 bytes for each endpoint. -/
def State.fabricSection (s : State) : List Byte :=
  allEps.flatMap fun e =>
    let x := s.ep e
    leBytes 4 x.lostCount ++ ((List.range 7).flatMap fun k => leBytes 4 (kget 0 x.discards k)) ++ leBytes 8 (s.correctedAt e) ++
      leBytes 4 x.partials.length ++ List.replicate 20 0

/-- Stacks with a suspect ML region (R122). -/
def State.suspectMask (s : State) : BitVec 16 := s.th.suspect.foldl (fun m k => if k.2 then putBit m (k.1 / 100) true else m) 0

/-- Section 0x0006. -/
def State.thermalSection (s : State) : List Byte :=
  leBytes 2 s.suspectMask.toNat ++ leBytes 5 s.th.diodeFault.toNat ++ [0] ++
    (allStacks.flatMap fun x => leBytes 1 ((List.finRange 100).filter fun p => hasBit (s.stack x).cmap p.val && s.meshNow x p).length) ++
    allStacks.flatMap fun x => leBytes 1 (s.stack x).lowCap

/-- Section 0x0007. -/
def State.recorderSection (s : State) : List Byte :=
  let r := s.evr
  leBytes 4 r.entries.length ++ leBytes 4 r.dropped ++ leBytes 4 r.suppTotal ++ leBytes 4 r.holdDrops ++ leBytes 4 r.flushes ++
    leBytes 4 r.failed ++ leBytes 4 r.seq ++ leBytes 4 0

/-! ### The report (R614, R615) -/

/-- The directory of sections whose bodies start at an offset. -/
def directory : List (List Byte) → Nat → Nat → List Byte
  | [], _, _ => []
  | x :: r, k, off => leBytes 4 k ++ leBytes 4 off ++ leBytes 4 x.length ++ leBytes 4 0 ++ directory r (k + 1) (off + x.length)

/-- The report: header, directory and sections. -/
def State.healthReport (s : State) : List Byte :=
  let secs := [s.ageSection, s.oosSection, s.laneSection, s.memSection, s.fabricSection, s.thermalSection, s.recorderSection]
  let body := secs.flatten
  leBytes 4 0x52484C48 ++ leBytes 2 1 ++ leBytes 2 7 ++ leBytes 8 s.now ++ leBytes 4 s.bt.startCount ++ leBytes 4 (0x90 + body.length) ++
    leBytes 8 0 ++ directory secs 1 0x90 ++ body

/-- The lost pages of a partition (R374). -/
def State.lostPagesOf (s : State) (p : PartId) : List Nat :=
  ((s.pm.rep (s.servTile 28)).filter fun k => eLost k.2 && eOwner k.2 = p.val).map (·.1)

/-- The partial-delivery records that the endpoints of a partition's stacks hold (R456). -/
def State.partialsOf (s : State) (p : PartId) : List (List Byte) := (s.stacksOf p).flatMap fun x => (s.ep (stackEp x)).partials

/-- What a selector returns (R539; log 21). -/
def State.healthInfo (s : State) (p : PartId) (sel : Nat) : List Byte :=
  match sel with
  | 0 => Config.healthBytes 0 [s.conditions.toNat]
  | 1 => Config.healthBytes 1 (s.lostPagesOf p)
  | 2 => (s.partialsOf p).flatten
  | _ => s.healthReport

/-- What follows a report: the lowest caps are counted from the caps in force again, and an open value it held is used up (R616). -/
def State.reported (s : State) (sel : Nat) : State :=
  if sel ≠ 3 then s
  else forEach allStacks (fun x s => s.modStack x fun k => { k with lowCap := s.capOver [x] }) s.tookFree

/-- HEALTH_QUERY writes the first bytes of what its selector names to host memory (R539, R614). -/
def execHealthQuery (p : PartId) (n : Nat) (s : State) : Res :=
  .next (s.withDesc p n 0x0D fun d s =>
    let len := d.field 0x10 4
    let sel := d.byte 0x14
    if !(d.clean [(8, 13)] && 64 ≤ len && len ≤ 2 ^ 20 && sel ≤ 3) then s.finish p d.d 1
    else
      let bs := (s.healthInfo p sel).take len
      ((s.emit (.hostWrite (s.part p).servPort (d.field 8 8) bs)).reported sel).finish p d.d 0 0 bs.length)

end Sys2Proof.Machine
end

