-- ==== Sys2Proof/Machine/Matrix.lean ====
section
/-!
DEFINITION. The matrix unit: tiles, MMA with its fixed chunked order, and the tile moves (R218, R219, R262, R263,
R295 to R299).
-/

namespace Sys2Proof.Machine

/-- Key of a tile element (R205). -/
def tileKey (t r c : Nat) : Nat := 256 * t + 16 * r + c

/-- A tile element, and its write. -/
def Core.tGet (k : Core) (t i : Nat) : BitVec 32 := kget 0 k.tiles (256 * t + i)
def Core.tPut (k : Core) (t i : Nat) (x : BitVec 32) : Core := { k with tiles := kput 0 k.tiles (256 * t + i) x }

/-- Whether a convoy holds a tile under the core's split (R218). -/
def holdsTile (split80 : Bool) (h : Fin 2) (t : BitVec 6) : Bool :=
  okTile t && (if split80 then h = 0 else if h = 0 then t.toNat < 4 else 4 ≤ t.toNat)

/-- Whether an instruction may name a tile: its convoy holds the tile, or no lane is active and it acts not at all (R218, R252; log 58). -/
def mayName (s : State) (u : Cv) (f : FM) (t : BitVec 6) : Bool :=
  (s.cv u).active f.gd = 0 || holdsTile (s.core u.g).split80 u.h t

/-- The checks common to the matrix class (R218, R251, R262). -/
def okMat (s : State) (u : Cv) (f : FM) : Bool :=
  f.gd.ok && f.rsv = 0 && okTile f.dest && mayName s u f f.dest

/-- Bytes of one operand of MMA and of its scales, K, and bits per element (R263). -/
structure MmaShape where
  k : Nat
  bitsPer : Nat
  data : Nat
  scales : Nat
  deriving DecidableEq, Repr

/-- The shape of an MMA type (R263). -/
def mmaShape (t : BitVec 4) : Option MmaShape :=
  match t.toNat with
  | 2 => some ⟨32, 16, 1024, 0⟩
  | 3 => some ⟨32, 16, 1024, 0⟩
  | 4 => some ⟨64, 8, 1024, 0⟩
  | 5 => some ⟨64, 8, 1024, 0⟩
  | 6 => some ⟨64, 8, 1024, 32⟩
  | 7 => some ⟨64, 6, 768, 32⟩
  | 8 => some ⟨64, 6, 768, 32⟩
  | 9 => some ⟨128, 4, 1024, 64⟩
  | 0xA => some ⟨64, 8, 1024, 0⟩
  | 0xB => some ⟨64, 8, 1024, 0⟩
  | 0xE => some ⟨128, 4, 1024, 0⟩
  | _ => none

/-- An operand in memory: its data as one bit string and its scale bytes (R263, R279). -/
structure Operand where
  data : Nat
  scales : List Byte
  deriving DecidableEq, Repr

/-- Element i of line n of an operand, as raw bits: lines of K elements, contiguous along K (R263). -/
def Operand.raw (o : Operand) (sh : MmaShape) (n i : Nat) : Nat :=
  o.data / 2 ^ (sh.bitsPer * (n * sh.k + i)) % 2 ^ sh.bitsPer

/-- The scale byte of line n, block j (R263). -/
def Operand.scale (o : Operand) (sh : MmaShape) (n j : Nat) : Nat := (o.scales.getD (n * (sh.k / 32) + j) 0).toNat

/-- The exact sum of a chunk so far: a finite multiple of a power of two, the infinities seen, NaN, and NV (R295, R297). -/
structure Chunk where
  n : Int := 0
  e : Int := 0
  posInf : Bool := false
  negInf : Bool := false
  nan : Bool := false
  nv : Bool := false
  deriving DecidableEq, Repr

/-- Add one exact product to a chunk (R295, R297). -/
def Chunk.add (c : Chunk) (x y : FVal) : Chunk :=
  if x.isNan || y.isNan then { c with nan := true, nv := c.nv || x.isSig || y.isSig }
  else match (mulRaw x y).1 with
    | .nan => { c with nan := true, nv := true }
    | .inf n => if n then { c with negInf := true } else { c with posInf := true }
    | .zero _ => c
    | .num n m e _ =>
      let e0 := min c.e e
      { c with n := c.n * 2 ^ (c.e - e0).toNat + scaled n m e e0, e := e0 }

/-- A chunk as a value to add to the accumulator, with the flags it raises. A quiet NaN beside infinite products of both signs raises none, which the
spec leaves open (R297; DESIGN CHOICE, log 76). -/
def Chunk.value (c : Chunk) : FVal × BitVec 16 :=
  if c.nan then (.nan false, if c.nv then flNV else 0)
  else if c.posInf && c.negInf then (.nan false, flNV)
  else if c.posInf then (.inf false, 0)
  else if c.negInf then (.inf true, 0)
  else (.fin (c.n < 0) c.n.natAbs c.e, 0)

/-- acc + s rounded once into FP32; an exact zero is +0, or -0 under RDN (R295). MM.ADD rounds by it too, so that -0 and -0 give +0, which R299 leaves
open (DESIGN CHOICE, log 76). -/
def addChunk (mode r : Nat) (acc : BitVec 32) (v : FVal) : BitVec 32 × BitVec 16 :=
  let a := fp32.decode acc.toNat
  let (raw, f1) : Raw × BitVec 16 :=
    if a.isNan || v.isNan then (.nan, if a.isSig then flNV else 0) else addRaw mode a v
  let raw := match raw with
    | .zero _ => .zero (mode = 2)
    | x => x
  let (x, f2) := fp32.result mode r raw
  (BitVec.ofNat 32 x, f1 ||| f2)

/-- The sum over one chunk for element (r, c) of a floating-point or MX type. -/
def chunkSum (F : Fmt) (mx : Bool) (sh : MmaShape) (a b : Operand) (r c j : Nat) : Chunk :=
  let ea : Int := if mx then (a.scale sh r j : Int) - 127 else 0
  let eb : Int := if mx then (b.scale sh c j : Int) - 127 else 0
  let bad := mx && (a.scale sh r j = 255 || b.scale sh c j = 255)
  let scaleBy (v : FVal) (d : Int) : FVal := match v with
    | .fin n m e => .fin n m (e + d)
    | x => x
  (List.range 32).foldl (fun k i =>
    k.add (scaleBy (F.decode (a.raw sh r (32 * j + i))) ea) (scaleBy (F.decode (b.raw sh c (32 * j + i))) eb))
    { nan := bad }

/-- The sum over one chunk of an integer type (R298). -/
def chunkInt (lo : Int) (sh : MmaShape) (a b : Operand) (r c j : Nat) : Int :=
  (List.range 32).foldl (fun n i =>
    n + intVal lo sh.bitsPer (a.raw sh r (32 * j + i)) * intVal lo sh.bitsPer (b.raw sh c (32 * j + i))) 0

/-- The lane whose generator an element draws from (R254, R296). -/
def eltLane (i : Nat) : Fin 32 := ⟨i % 32, by omega⟩

/-- Add chunk j to every element of a tile, r and then c ascending, drawing under stochastic rounding (R296). -/
def mmaChunk (u : Cv) (t : BitVec 6) (mode : Nat) (val : Nat → FVal × BitVec 16) (st : Core × BitVec 16) : Core × BitVec 16 :=
  (List.range 256).foldl (fun st i =>
    let (c, r) := (st.1.cv u.h).drawIf mode (eltLane i)
    let k := st.1.modCv u.h fun _ => c
    let (v, f1) := val i
    let (x, f2) := addChunk mode r (k.tGet t.toNat i) v
    (k.tPut t.toNat i x, st.2 ||| f1 ||| f2)) st

/-- An operand's key for MMA, MM.LD or MM.ST: a local address aligned to 64 B (R263, R264; for the tile moves, log 32). -/
def operandKey (g : CoreId) (a : BitVec 64) (n : Nat) : Option Nat := rangeKey g a n 64

/-- Read an operand: its access, key and content. -/
def State.operand (s : State) (k : Nat) (sh : MmaShape) : Operand :=
  { data := s.mlNum k sh.data, scales := memRead s.ml (k + sh.data) sh.scales }

/-- MMA on operands that are readable (R295 to R298). -/
def mmaBody (u : Cv) (f : FM) (sh : MmaShape) (a b : Operand) (s : State) : State :=
  let t := f.dest.toNat
  let k := s.core u.g
  let k := if f.acc = 0 then (List.range 256).foldl (fun k i => k.tPut t i 0) k else k
  let (k, fl) : Core × BitVec 16 := match intRange f.typ with
    | some (lo, _, _) =>
      ((List.range 256).foldl (fun k i =>
        k.tPut t i (k.tGet t i + BitVec.ofInt 32
          ((List.range (sh.k / 32)).foldl (fun n j => n + chunkInt lo sh a b (i / 16) (i % 16) j) 0))) k, 0)
    | none => match eltFmt f.typ with
      | none => (k, 0)
      | some F => (List.range (sh.k / 32)).foldl (fun st j =>
          mmaChunk u f.dest f.rnd.toNat (fun i => (chunkSum F (isMx f.typ) sh a b (i / 16) (i % 16) j).value) st) (k, 0)
  ((s.modCore u.g fun _ => k).raise u fl).advance u

/-- The places of the two ends of some ranges: no range is longer than a slice. -/
def rangeEnds (l : List (Nat × Nat)) : List Nat := l.flatMap fun r => [r.1, r.1 + r.2 - 1]

/-- The accesses of a matrix instruction to some ranges: the convoy waits where one stalls; AF where one is refused, or where a read finds a bad
word, whose events are recorded; else the body (R323, R327, R331). -/
def matAccess (u : Cv) (l : List (Nat × Nat)) (reads : Bool) (e : Ecc) (body : State → State) (s : State) : State :=
  match (rangeEnds l).find? fun k => s.cvAccess u k = .stall with
  | some k => s.stallAt u k
  | none =>
    if (rangeEnds l).any fun k => s.cvAccess u k = .refused then (s.raise u flAF).advance u
    else if !reads then body s
    else
      let s := s.mlFound e ((l.head?.map (·.1)).getD 0)
      if l.any fun r => s.mlHasBad r.1 r.2 then ((l.foldl (fun s r => s.mlErrorEvents r.1 r.2) s).raise u flAF).advance u else body s

def execMma (u : Cv) (f : FM) (e : Ecc) (s : State) : Res :=
  .next (match mmaShape f.typ with
    | none => issue u false [] id s
    | some sh => issueMem u (okMat s u f && okS f.sA && okS f.sB && f.stile = 0 && f.acc.toNat < 2 &&
          (if (intRange f.typ).isSome then f.rnd = 0 else okRnd f.rnd)) [] (fun s =>
        let c := s.cv u
        let n := sh.data + sh.scales
        if c.active f.gd = 0 then s.advance u
        else match operandKey u.g (c.sGet f.sA) n, operandKey u.g (c.sGet f.sB) n with
          | some ka, some kb =>
            matAccess u [(ka, n), (kb, n)] true e (fun s => mmaBody u f sh (s.operand ka sh) (s.operand kb sh) s) s
          | _, _ => (s.raise u flAF).advance u) s)

/-- A tile instruction that acts on its core once when a lane is active. -/
def tileOp (u : Cv) (f : FM) (ok : Bool) (op : Core → Core × BitVec 16) (s : State) : State :=
  issue u (okMat s u f && ok) [] (fun s =>
    if (s.cv u).active f.gd = 0 then s.advance u
    else
      let (k, fl) := op (s.core u.g)
      ((s.modCore u.g fun _ => k).raise u fl).advance u) s

/-- A type that the tile moves accept (R253). -/
def tileType (t : BitVec 4) : Bool := t = 1 || t = 0xC

def execMmZero (u : Cv) (f : FM) (s : State) : Res :=
  .next (tileOp u f (tileType f.typ && f.sA = 0 && f.sB = 0 && f.stile = 0 && f.acc = 0 && f.rnd = 0)
    (fun k => ((List.range 256).foldl (fun k i => k.tPut f.dest.toNat i 0) k, 0)) s)

def execMmLd (u : Cv) (f : FM) (e : Ecc) (s : State) : Res :=
  .next (issueMem u (okMat s u f && tileType f.typ && okS f.sA && f.sB = 0 && f.stile = 0 && f.acc = 0 && f.rnd = 0) []
    (fun s =>
      let c := s.cv u
      if c.active f.gd = 0 then s.advance u
      else match operandKey u.g (c.sGet f.sA) 1024 with
        | none => (s.raise u flAF).advance u
        | some k => matAccess u [(k, 1024)] true e (fun s =>
            (s.modCore u.g fun c => (List.range 256).foldl (fun c i =>
              c.tPut f.dest.toNat i (BitVec.ofNat 32 (s.mlNum (k + 4 * i) 4))) c).advance u) s) s)

/-- One element of MM.ST: its bytes and flags, drawing when it rounds (R254, R299). -/
def stElt (u : Cv) (f : FM) (st : Core × List Byte × BitVec 16) (i : Nat) : Core × List Byte × BitVec 16 :=
  let (k, out, fl) := st
  let x := (k.tGet f.dest.toNat i).toNat
  if f.typ = 0xC then (k, out ++ leBytes 4 x, fl)
  else
    let (c, r) := (k.cv u.h).drawIf f.rnd.toNat (eltLane i)
    let k := k.modCv u.h fun _ => c
    match vecFmt f.typ with
    | none => (k, out, fl)
    | some F =>
      let (y, g) := toFp F f.rnd.toNat r (fp32.decode x)
      (k, out ++ leBytes ((F.low + 1) / 8) y, fl ||| g)

def execMmSt (u : Cv) (f : FM) (s : State) : Res :=
  .next (issueMem u (okMat s u f && [1, 2, 3, 0xC].contains f.typ.toNat && okS f.sA && f.sB = 0 && f.stile = 0 &&
        f.acc = 0 && (if f.typ = 0xC then f.rnd = 0 else okRnd f.rnd)) [] (fun s =>
      let c := s.cv u
      let n := 256 * (eltBits f.typ / 8)
      if c.active f.gd = 0 then s.advance u
      else match operandKey u.g (c.sGet f.sA) n with
        | none => (s.raise u flAF).advance u
        | some a => matAccess u [(a, n)] false {} (fun s =>
            let (k, out, fl) := (List.range 256).foldl (stElt u f) (s.core u.g, [], 0)
            let s := s.modCore u.g fun _ => k
            ((({ s with ml := memWrite s.ml a out }).mlCleared a n).raise u fl).advance u) s) s)

def execMmAdd (u : Cv) (f : FM) (s : State) : Res :=
  let src : BitVec 6 := f.stile.setWidth 6
  .next (tileOp u f (tileType f.typ && f.sA = 0 && f.sB = 0 && f.acc = 0 &&
      mayName s u f src && (if f.typ = 0xC then f.rnd = 0 else okRnd f.rnd))
    (fun k =>
      if f.typ = 0xC then
        ((List.range 256).foldl (fun k i =>
          k.tPut f.dest.toNat i (k.tGet f.dest.toNat i + k.tGet src.toNat i)) k, 0)
      else
        let val (i : Nat) : FVal × BitVec 16 :=
          let v := fp32.decode (k.tGet src.toNat i).toNat
          (v, if v.isSig then flNV else 0)
        mmaChunk u f.dest f.rnd.toNat val (k, 0)) s)

end Sys2Proof.Machine
end

