-- ==== Sys2Proof/Machine/Pyhiet.lean ====
section
/-!
DEFINITION. Pyhiet: its restarts, watchdog, wake and sleep (R590 to R593); the sideband's messages (R595, R596); the control messages of MCTP
(R595); the base and monitoring types of PLDM (R599, R600); and the firmware device (R570 to R573, R605 to R607). Codes of DSP0236, DSP0240,
DSP0248 and DSP0267 are taken from those standards (log 20).
-/

namespace Sys2Proof.Machine

/-! ### Messages on the sideband (R80, R595 to R597) -/

/-- Whether a control message is taken: the null endpoint ID is answered too, and alone until an ID is assigned (R595). -/
def State.takesControl (s : State) (m : Mctp) : Bool :=
  s.sideUp && !m.full && (m.dest = 0 || (s.pyh.eid ≠ 0 && m.dest = s.pyh.eid))

/-- Pyhiet wakes for a message, and has work (R590). -/
def State.wakePyh (s : State) : State :=
  { s with pyh := { s.pyh with awake := true, lastWork := s.now, wokeAt := if s.pyh.awake then s.pyh.wokeAt else s.now } }

/-- Pyhiet's clock in MHz: 50 while asleep and from a wake, 400 once the PLL has locked, at most 20 µs later (R589, R590; log 71). -/
def State.pyhietMhz (s : State) : Nat := if s.pyh.awake && s.pyh.wokeAt + 20000 ≤ s.now then 400 else 50

/-! ### Restarts (R592, R593, R604, R606) -/

/-- An update is abandoned: its slot is erased (R606). -/
def State.dropUpdate (s : State) : State :=
  if s.pyh.update.isSome then { s with pyh := { s.pyh.setSlot s.pyh.updSlot [] with update := none } } else s

/-- A start from step 2 after a module reset that MOD_RESET_N did not command: the straps are sampled again, and a destructive march that had
not ended runs (R71, R188, R204, R593, R604). -/
def State.warmStart (s : State) : State :=
  let owed := s.marchOpen
  let s := s.moduleReset.beginStart .warm
  { s with bt := { s.bt with marchOwed := owed }, pw := { s.pw with steward := s.pw.selPin.toFin } }.portsFollow

/-- Pyhiet restarts: sessions end, a transfer in progress is abandoned, and a start that is not ready begins again as a warm one (R568, R592,
R593, R606). -/
def State.restartPyhiet (s : State) (disarm : Bool) : State :=
  let s := if s.pyh.update.any (fun u => !u.checked) then s.dropUpdate else s
  let s := { s with
    ports := kmapIf {} s.ports (fun _ => true) fun q => { q with doe := {} }
    pyh := { s.pyh.relock with restarting := true, awake := true, side := {}, bindWait := [], wdDisarmed := disarm, restartTick := s.now } }
  if s.pw.phase = .starting then s.warmStart else s

/-- The watchdog expires, no sooner than 100 ms after the first kick: the condition is set and Pyhiet restarts; the second expiry of a supplement within 10 min of its activation returns
the marker (R573, R592). -/
def execWatchdogExpiry (s : State) : Res :=
  let p := s.pyh
  let armed := if p.wdDisarmed || p.restarting then p.restartTick + 250000000 ≤ s.now else p.kickAt + 100000000 ≤ s.now
  .next (if !s.on || !p.up || !armed then s
    else
      let mine := p.running = some p.marker && p.liveTick.any fun t => s.now < t + 600000000000
      let s := { s with pyh := { p with wdFault := true, liveWd := if mine then p.liveWd + 1 else p.liveWd } }
      let s := if mine && p.liveWd + 1 = 2 && p.slotOk p.livePrev then
          { s with pyh := { s.pyh with marker := p.livePrev, liveTick := none } }.ev 0xC004 err 0x0D 0
        else s
      s.restartPyhiet false)

/-- Pyhiet runs again, and its first kick clears the condition and arms the watchdog (R592). -/
def execPyhietBootDone (s : State) : Res :=
  .next (if !s.on || !(s.pyh.restarting || s.pyh.wdFault || s.pyh.wdDisarmed) then s
    else
      let s := if s.pyh.restarting then s.bootPyhiet else s
      { s with pyh := { s.pyh with wdFault := false, wdDisarmed := false, kickAt := s.now } })

/-- A helper's interrupt, a message or the timer wakes Pyhiet (R590). -/
def execPyhietWake (s : State) : Res := .next (if s.on && !s.pyhDown then s.wakePyh else s)

/-- No work has been pending for 1 ms (R590). -/
def execPyhietSleep (s : State) : Res :=
  .next (if s.on && !s.pyhDown && s.pyh.lastWork + 1000000 ≤ s.now then { s with pyh := { s.pyh with awake := false } } else s)

/-! ### MCTP control (R595) -/

/-- Answer a control message, from the endpoint's own hardware. -/
def State.control (s : State) (m : Mctp) (cmd : BitVec 8) (body : List Byte) : State :=
  if s.takesControl m then s.respond (.mctp cmd body) else s

/-- Set Endpoint ID: the null and the broadcast ID are invalid data. -/
def execSetEndpointId (m : Mctp) (e : BitVec 8) (s : State) : Res :=
  .next (if !s.takesControl m then s
    else if e = 0 || e = 0xFF then s.respond (.mctp 0x01 [0x02])
    else { s with pyh := { s.pyh with eid := e } }.respond (.mctp 0x01 [0, 0, e, 0]))

def execGetEndpointId (m : Mctp) (s : State) : Res := .next (s.control m 0x02 [0, s.pyh.eid, 0, 0])

def execGetEndpointUuid (m : Mctp) (s : State) : Res := .next (s.control m 0x03 (0 :: slice (Config.standardBytes 0x103 []) 0 16))

/-- The versions of a message type that the endpoint supports (R595). -/
def execGetMctpVersionSupport (m : Mctp) (typ : BitVec 8) (s : State) : Res :=
  let known := typ = 0xFF || typ = 0 || typ = 1 || typ = 5 || typ = 6 || typ = 0x7E
  .next (s.control m 0x04 (if known then 0 :: Config.standardBytes 0x104 [typ.toNat] else [0x80]))

/-- The five message types of R595. -/
def execGetMessageTypeSupport (m : Mctp) (s : State) : Res := .next (s.control m 0x05 [0, 5, 0x00, 0x01, 0x05, 0x06, 0x7E])

/-- One vendor set: PCI vendor ID 0x1DB0 (R595). -/
def execGetVendorDefinedMessageSupport (m : Mctp) (sel : BitVec 8) (s : State) : Res :=
  .next (s.control m 0x06 (if sel = 0 then [0, 0xFF, 0x00, 0x1D, 0xB0] else [0x02]))

/-! ### PLDM (R596, R599, R600) -/

/-- Take a PLDM request; while Pyhiet restarts it is answered with ERROR_NOT_READY (R596). -/
def State.pldm (s : State) (m : Mctp) (typ cmd : BitVec 8) (body : State → State) : State :=
  if !s.takes m then s
  else if s.pyhDown then s.respond (.pldm typ cmd 4 [])
  else body s.wakePyh

/-- SetTID: 0 and 0xFF are invalid data. -/
def execSettid (m : Mctp) (tid : BitVec 8) (s : State) : Res :=
  .next (s.pldm m 0 0x01 fun s =>
    if tid = 0 || tid = 0xFF then s.respond (.pldm 0 0x01 2 [])
    else { s with pyh := { s.pyh with tid := tid } }.respond (.pldm 0 0x01 0 []))

def execGettid (m : Mctp) (s : State) : Res := .next (s.pldm m 0 0x02 fun s => s.respond (.pldm 0 0x02 0 [s.pyh.tid]))

/-- Whether a PLDM type is supported (R599). -/
def pldmType (t : BitVec 8) : Bool := t = 0 || t = 2 || t = 5

def execGetpldmversion (m : Mctp) (typ : BitVec 8) (s : State) : Res :=
  .next (s.pldm m 0 0x03 fun s =>
    s.respond (if pldmType typ then .pldm 0 0x03 0 (Config.standardBytes 0x203 [typ.toNat]) else .pldm 0 0x03 0x83 []))

/-- Types 0, 2 and 5 (R599). -/
def execGetpldmtypes (m : Mctp) (s : State) : Res :=
  .next (s.pldm m 0 0x04 fun s => s.respond (.pldm 0 0x04 0 [0x25, 0, 0, 0, 0, 0, 0, 0]))

/-- The command codes of a type (R599, R605). -/
def pldmCommands (t : BitVec 8) : List Nat :=
  if t = 0 then [1, 2, 3, 4, 5]
  else if t = 2 then [0x11, 0x21, 0x50, 0x51]
  else [0x10, 0x11, 0x12, 0x13, 0x14, 0x15, 0x16, 0x17, 0x18, 0x1A, 0x1B, 0x1C, 0x1D]

def execGetpldmcommands (m : Mctp) (typ : BitVec 8) (s : State) : Res :=
  .next (s.pldm m 0 0x05 fun s =>
    s.respond (if pldmType typ then .pldm 0 0x05 0 (leBytes 32 ((pldmCommands typ).foldl (fun n k => n + 2 ^ k) 0))
      else .pldm 0 0x05 0x83 []))

/-! ### Sensors (R600) -/

/-- The sensor IDs, one record each. -/
def sensorIds : List Nat := (List.range 95).map (· + 1) ++ [100, 101, 102]

/-- What a sensor's record says of it: its ID, its unit as DSP0248 numbers units (degrees Celsius 2, volts 5, amperes 6, watts 7, counts 20,
none 1), its resolution in hundredths, and its update interval in µs, 0 on change (R600; log 20). -/
def sensorRow (id : Nat) : List Nat :=
  id :: (if id ≤ 36 then [2, 25, 1000]
    else if id ≤ 72 then [2, 25, 10]
    else if id ≤ 88 then [2, 100, 100]
    else if id ≤ 90 then [2, 25, 100000]
    else if id = 91 then [5, 1, 10]
    else if id = 92 then [6, 10, 10]
    else if id ≤ 94 then [7, 100, 10]
    else if id = 95 then [2, 100, 0]
    else if id = 100 then [1, 0, 0]
    else if id = 101 then [1, 0, 10]
    else [20, 100, 0])

/-- Numeric sensors: none is no sensor, some none is unavailable. -/
def State.sensorValue (s : State) (id : Nat) : Option (Option Int) :=
  let temp (out : Bool) (l : List SensorId) : Option Int :=
    if out then none else some (match l with
      | [] => 0
      | c :: r => r.foldl (fun m d => max m (s.effective d)) (s.effective c))
  let away (d : DieId) : Bool := s.dieOut d || s.alone d
  if 1 ≤ id ∧ id ≤ 36 then
    let i := id - 1
    let out := away (if i < 16 then .cd ⟨i % 16, by omega⟩ else if i < 32 then .ml ⟨i % 16, by omega⟩ else .tile ⟨(i - 32) % 4, by omega⟩)
    some (if out || hasBit s.th.diodeFault i then none else some (kget 100 s.th.diode i))
  else if 37 ≤ id ∧ id ≤ 52 then
    let x : StackId := ⟨(id - 37) % 16, by omega⟩
    some (temp (away (.cd x)) ((List.finRange 100).map (.cd x)))
  else if 53 ≤ id ∧ id ≤ 68 then
    let x : StackId := ⟨(id - 53) % 16, by omega⟩
    some (temp (away (.ml x)) ((List.finRange 100).map (.ml x)))
  else if 69 ≤ id ∧ id ≤ 72 then
    let t : TileId := ⟨(id - 69) % 4, by omega⟩
    some (temp (away (.tile t)) ((List.finRange 32).map (.base t)))
  else if 73 ≤ id ∧ id ≤ 88 then some (if s.isOut 0x05 (id - 73) || away (.mp ⟨(id - 73) / 2 % 8, by omega⟩) then none else some (kget 25 s.th.hbmTemp (id - 73)))
  else if id = 89 then some (some s.th.inlet)
  else if id = 90 then some (some s.th.outlet)
  else if id = 91 then some (some s.pw.vinCv)
  else if id = 92 then some (some (s.pw.inW * 1000 / s.pw.vinCv : Nat))
  else if id = 93 then some (some s.pw.inW)
  else if id = 94 then some (some s.inputCap)
  else if id = 95 then some (some s.th.tThr)
  else if id = 102 then some (some s.restartCount)
  else none

/-- The state sensors: the module's state, and its thermal state. -/
def State.stateSensor (s : State) (id : Nat) : Option Nat :=
  if id = 100 then some s.moduleState
  else if id = 101 then some (if s.pw.limited then 3 else if s.pw.tripped then 2 else if s.capOver allStacks < 100 then 1 else 0)
  else none

/-- The repository of this start: how many records it holds, and the rest as its standard lays it out (R600). -/
def execGetpdrrepositoryinfo (m : Mctp) (s : State) : Res :=
  .next (s.pldm m 2 0x50 fun s => s.respond (.pldm 2 0x50 0 (leBytes 4 sensorIds.length ++ Config.standardBytes 0x250 [s.bt.startCount])))

/-- The record of a handle: 0 names the first, n the n-th. -/
def execGetpdr (m : Mctp) (handle : BitVec 32) (s : State) : Res :=
  .next (s.pldm m 2 0x51 fun s =>
    match sensorIds[handle.toNat - 1]? with
    | some id => s.respond (.pldm 2 0x51 0 (Config.standardBytes 0x251 (sensorRow id)))
    | none => s.respond (.pldm 2 0x51 0x82 []))

/-- A reading: operational state 0 is enabled and 2 unavailable, then the value in the resolution of R600. -/
def execGetsensorreading (m : Mctp) (id : BitVec 16) (s : State) : Res :=
  .next (s.pldm m 2 0x11 fun s =>
    match s.sensorValue id.toNat with
    | none => s.respond (.pldm 2 0x11 0x80 [])
    | some none => s.respond (.pldm 2 0x11 0 [2])
    | some (some v) => s.respond (.pldm 2 0x11 0 (0 :: leBytes 4 (BitVec.ofInt 32 v).toNat)))

def execGetstatesensorreadings (m : Mctp) (id : BitVec 16) (s : State) : Res :=
  .next (s.pldm m 2 0x21 fun s =>
    match s.stateSensor id.toNat with
    | none => s.respond (.pldm 2 0x21 0x80 [])
    | some v => s.respond (.pldm 2 0x21 0 [1, 0, BitVec.ofNat 8 v]))

/-! ### Firmware transfer (R572, R573, R605 to R607) -/

/-- The next piece of a transfer: how many bytes. -/
def Update.next (u : Update) (have_ : Nat) : Nat := min u.piece (u.length - have_)

/-- Ask the update agent for the next piece, or report that the transfer is complete (R605). -/
def State.askPiece (s : State) (u : Update) : State :=
  let n := (s.pyh.slot s.pyh.updSlot).length
  if n < u.length then
    { s with pyh := { s.pyh with update := some { u with requested := some s.now } } }.respond (.pldm 5 0x15 0 (leBytes 4 n ++ leBytes 4 (u.next n)))
  else { s with pyh := { s.pyh with update := some { u with requested := none } } }.respond (.pldm 5 0x16 0 [0])

/-- UpdateComponent: the one component, refused below the floor; the slot that the running supplement does not occupy is erased and filled
(R572, R605). -/
def execUpdateComponent (m : Mctp) (cls ident : BitVec 16) (stamp : BitVec 32) (size most : Nat) (s : State) : Res :=
  .next (s.pldm m 5 0x14 fun s =>
    let p := s.pyh
    if p.update.isSome then s.respond (.pldm 5 0x14 0x84 [])
    else if most < 32 then s.respond (.pldm 5 0x14 0x02 [])
    else if cls ≠ 0x000A || ident ≠ 1 || 196608 < size then s.respond (.pldm 5 0x14 0 [1, 0x06])
    else if stamp.toNat < p.floor then s.respond (.pldm 5 0x14 0 [1, 0x02])
    else
      let u : Update := { length := size, piece := min 1024 most, requested := none, checked := false }
      ({ s with pyh := { p.setSlot p.updSlot [] with update := some u } }.respond (.pldm 5 0x14 0 [0, 0])).askPiece u)

/-- The answer to a RequestFirmwareData is written behind what the slot holds (R605). -/
def execFirmwareData (m : Mctp) (d : List Byte) (s : State) : Res :=
  .next (match s.pyh.update with
    | none => s
    | some u =>
      let b := s.pyh.updSlot
      let x := s.pyh.slot b
      if !s.takes m || s.pyhDown || u.requested.isNone || d.length ≠ u.next x.length then s
      else ({ s with pyh := s.pyh.setSlot b (x ++ d) }).wakePyh.askPiece u)

/-- A request has gone unanswered for 60 s (R606). -/
def execFirmwareDataTimeout (s : State) : Res :=
  .next (if s.on && !s.pyhDown && s.pyh.update.any (fun u => u.requested.any fun t => t + 60000000000 ≤ s.now) then s.dropUpdate else s)

/-- The slot is checked once its last byte is written: a slot that fails is erased, with an error (R571, R572). -/
def execSupplementCheck (s : State) : Res :=
  .next (match s.pyh.update with
    | none => s
    | some u =>
      if !s.on || s.pyhDown || u.checked || u.requested.isSome || (s.pyh.slot s.pyh.updSlot).length < u.length then s
      else if s.pyh.slotOk s.pyh.updSlot then
        { s with pyh := { s.pyh with update := some { u with checked := true } } }.respond (.pldm 5 0x17 0 [0])
      else (s.dropUpdate.ev 0xC003 err 0x0D 0).respond (.pldm 5 0x17 0 [1]))

/-- ActivateFirmware of a checked supplement: live, Pyhiet restarts with its watchdog disarmed; else the marker moves now and the floor rises
(R573, R605, R607). -/
def execActivateFirmware (m : Mctp) (live : Bool) (s : State) : Res :=
  .next (s.pldm m 5 0x1A fun s =>
    let p := s.pyh
    match p.update with
    | none => s.respond (.pldm 5 0x1A 0x80 [])
    | some u =>
      if !u.checked then s.respond (.pldm 5 0x1A 0x85 [])
      else if live then
        let s := (s.respond (.pldm 5 0x1A 0 (leBytes 2 1))).restartPyhiet true
        { s with pyh := { s.pyh with activating := true } }
      else
        let b := p.updSlot
        { s with pyh := { p with
          marker := b, floor := max p.floor (field (p.slot b) 0xC 4), update := none, pendNext := true, livePrev := !b } }.respond
          (.pldm 5 0x1A 0 (leBytes 2 0)))

/-- CancelUpdate: the update is abandoned (R606). -/
def execCancelUpdate (m : Mctp) (s : State) : Res :=
  .next (s.pldm m 5 0x1D fun s =>
    if s.pyh.update.isNone then s.respond (.pldm 5 0x1D 0x80 []) else s.dropUpdate.respond (.pldm 5 0x1D 0 (leBytes 9 0)))

/-- CancelUpdateComponent: so is the component's transfer, and with its one component the update (R606). -/
def execCancelUpdateComponent (m : Mctp) (s : State) : Res :=
  .next (s.pldm m 5 0x1C fun s =>
    if s.pyh.update.isNone then s.respond (.pldm 5 0x1C 0x80 []) else s.dropUpdate.respond (.pldm 5 0x1C 0 []))

end Sys2Proof.Machine
end

