-- ==== Sys2Proof/Machine/Vendor.lean ====
section
/-!
DEFINITION. The vendor commands of the sideband (R601 to R604, R608), the resets that they schedule (R188, R189, R198), the reading and clearing
of the recorder (R618, R624, R626), and the debug unlock (R85, R569).
-/

namespace Sys2Proof.Machine

/-- Take a vendor command: from its answer's status and fields, which it may leave open for later, and its effect. While Pyhiet restarts the status
is 0x02; reserved fields that are not zero are malformed (R596, R601, R603). -/
def State.vendorMay (s : State) (v : Vendor) (cmd : BitVec 8) (body : State → Option (BitVec 8 × List Byte) × State) : State :=
  if !s.takes v.m then s
  else if s.pyhDown then s.respond (vendorReply cmd v.tag 0x02 [])
  else if !v.clean then s.respond (vendorReply cmd v.tag 0x01 [])
  else match body s.wakePyh with
    | (some (st, bs), s) => s.respond (vendorReply cmd v.tag st bs)
    | (none, s) => s

/-- A vendor command that answers at once. -/
def State.vendor (s : State) (v : Vendor) (cmd : BitVec 8) (body : State → BitVec 8 × List Byte × State) : State :=
  s.vendorMay v cmd fun s => let r := body s; (some (r.1, r.2.1), r.2.2)

/-- GET_CONDITIONS: conditions, module state and restart count (R602). -/
def execGetConditions (v : Vendor) (s : State) : Res :=
  .next (s.vendor v 0x01 fun s => (0, leBytes 2 s.conditions.toNat ++ leBytes 1 s.moduleState ++ leBytes 1 s.restartCount, s))

/-! ### Resets (R188, R189, R193, R602) -/

/-- The die of a reset command and whether its whole stack is meant; some none is the module, none malformed (R602). -/
def resetTarget (dom num : Nat) : Option (Option (DieId × Bool)) :=
  match dom with
  | 0 => if num = 0 then some none else none
  | 1 => if num < 4 then some (some (.tile ⟨num % 4, by omega⟩, false)) else none
  | 2 => if num < 16 then some (some (.cd ⟨num % 16, by omega⟩, true)) else none
  | 3 => if num < 16 then some (some (.cd ⟨num % 16, by omega⟩, false)) else none
  | 4 => if 16 ≤ num ∧ num < 24 then some (some (.mp ⟨num % 8, by omega⟩, false)) else none
  | _ => none

/-- RESET: the reset begins 1 ms after the response (R602; log 53). -/
def execReset (v : Vendor) (dom num : BitVec 8) (s : State) : Res :=
  .next (s.vendor v 0x02 fun s =>
    let ok : BitVec 8 × List Byte × State := (0, [], { s with pyh := { s.pyh with resetDue := some (dom.toNat, num.toNat, s.now + 1000000) } })
    match resetTarget dom.toNat num.toNat with
    | none => (1, [], s)
    | some none =>
      if s.pyh.resetDue.isSome then (5, [], s)
      else if s.pw.phase = .starting || s.pw.phase = .ready || s.pw.phase = .startFailed || s.pw.phase = .held then ok
      else (3, [], s)
    | some (some (d, _)) =>
      if s.pw.phase ≠ .ready then (2, [], s)
      else if s.dieOut d then (3, [], s)
      else if s.pyh.resetDue.isSome then (5, [], s)
      else ok)

/-- A commanded reset of a die: the partitions that contain it stop, and it returns when its sequence has passed; a port die keeps its HBM3
contents (R188, R193, R198). A reset that a larger one contains does nothing of its own (R189). -/
def State.sideReset (s : State) (d : DieId) (whole : Bool) : State :=
  let c := dieClass d
  let within := match d with
    | .cd x => s.bt.isolated.contains (0x03, (tileOfStack x).val) || (!whole && s.bt.isolated.contains c)
    | _ => s.bt.isolated.contains c
  if within then s
  else
    let s := { s with bt := { s.bt with
      isolated := if s.bt.isolated.contains c then s.bt.isolated else s.bt.isolated ++ [c]
      commanded := if s.alone d then s.bt.commanded else s.bt.commanded ++ [c] } }
    match d with
    | .mp k => (s.modDie k fun d => { d with lost := true }).resetDie k true
    | .tile _ => s.loseDie d 0x03 false
    | _ => s.loseDie d 0x01 whole

/-- 1 ms after a RESET response its reset begins (R602). -/
def execSidebandResetStart (s : State) : Res :=
  .next (match s.pyh.resetDue with
    | none => s
    | some (dom, num, t) =>
      if !s.on || s.now < t then s
      else
        let s := { s with pyh := { s.pyh with resetDue := none } }
        match resetTarget dom num with
        | some none => if s.pw.phase = .starting || s.pw.phase = .ready || s.pw.phase = .startFailed then s.warmStart else s
        | some (some (d, whole)) => if s.pw.phase = .ready then s.sideReset d whole else s
        | none => s)

/-! ### The steward, the restart limit, the paths (R129, R476, R521) -/

/-- STEWARD_SET moves the role at once (R521, R602, R603). -/
def execStewardSet (v : Vendor) (port : BitVec 8) (s : State) : Res :=
  .next (s.vendor v 0x03 fun s =>
    if 3 < port.toNat then (1, [], s)
    else
      let t : PortId := ⟨port.toNat % 4, by omega⟩
      if (s.port t).oos || s.dieOut (.hg t) then (3, [], s) else (0, [], s.moveSteward t))

/-- THERMAL_RESTART, in the restart-limit state only: the count is cleared, and the start waits for cool dies (R129, R130, R603, R608). -/
def execThermalRestart (v : Vendor) (s : State) : Res :=
  .next (s.vendor v 0x04 fun s =>
    if s.pw.limited then (0, [], { s with pw := { s.pw with restarts := [], limited := false, tripPin := false } }) else (3, [], s))

/-- PATH_SWITCH: the holder's answer, with the T of its announcement where it accepts; until it has announced, the answer waits (R476, R602). -/
def execPathSwitch (v : Vendor) (g path : BitVec 8) (s : State) : Res :=
  .next (s.vendorMay v 0x05 fun s =>
    if 3 < g.toNat || 1 < path.toNat then (some (1, []), s)
    else if s.pw.phase ≠ .ready then (some (2, []), s)
    else s.askSwitch ⟨g.toNat % 4, by omega⟩ (path = 1) v.tag)

/-! ### Health and the recorder (R602, R614, R618, R624, R626) -/

/-- HEALTH_READ: bytes of what the selector names (R602, R614). -/
def execHealthRead (v : Vendor) (sel part : BitVec 8) (off : BitVec 32) (len : BitVec 16) (s : State) : Res :=
  .next (s.vendor v 0x06 fun s =>
    if 3 < sel.toNat || len = 0 || 1024 < len.toNat || ((sel = 1 || sel = 2) && 15 < part.toNat) then (1, [], s)
    else
      let bs := ((s.healthInfo ⟨part.toNat % 16, by omega⟩ sel.toNat).drop off.toNat).take len.toNat
      (0, bs, s.reported sel.toNat))

/-- The 32 bytes of an entry (R618). -/
def RecEntry.toBytes (e : RecEntry) : List Byte :=
  leBytes 8 e.tick ++ leBytes 4 e.seq ++ leBytes 2 e.code.toNat ++ leBytes 1 (e.sev.val + 4 * b2n e.flushed + 8 * b2n e.restored) ++
    leBytes 1 e.cls.toNat ++ leBytes 2 e.num ++ leBytes 1 ((e.part.map (·.val)).getD 0xFF) ++ [0] ++ leBytes 12 e.detail.toNat

/-- RECORDER_READ: the entries numbered from 0 for the oldest; the first read freezes the recorder, and a release ends the freeze (R624). -/
def execRecorderRead (v : Vendor) (first : BitVec 16) (count flags : BitVec 8) (s : State) : Res :=
  .next (s.vendor v 0x07 fun s =>
    if count = 0 || 32 < count.toNat || 1 < flags.toNat then (1, [], s)
    else
      let bs := ((s.evr.entries.drop first.toNat).take count.toNat).flatMap RecEntry.toBytes
      let r := { s.evr with frozen := true, freezeTick := s.now }
      (0, bs, { s with evr := if flags = 1 then r.thaw else r }))

/-- The maintainer session of the sideband that a command came in, while maintenance is enabled (R569, R598). -/
def State.maintainer (s : State) (ses : Option (BitVec 32)) : Option Session :=
  if s.pyh.maintEnable then s.pyh.side.sessions.find? fun x => ses = some x.id && x.finished && x.maintainer else none

/-- RECORDER_CLEAR in a maintainer session; a clear in progress makes it busy. As every maintainer operation does, it sets the debug field of
block 6 (R569, R602, R603, R626; log 71). -/
def execRecorderClear (v : Vendor) (ses : Option (BitVec 32)) (s : State) : Res :=
  .next (s.vendor v 0x08 fun s =>
    match s.maintainer ses with
    | none => (4, [], s)
    | some x =>
      if s.evr.clearQ.isSome then (5, [], s)
      else
        let s := s.clearRecorder ((x.peer.map (·.digest8)).getD 0)
        (0, [], { s with pyh := { s.pyh with unlockSeen := true } }))

/-- DEBUG_UNLOCK in a maintainer session: debug is unlocked, or locked again, with a warning (R85, R569, R602). -/
def execDebugUnlock (v : Vendor) (ses : Option (BitVec 32)) (flags : BitVec 8) (s : State) : Res :=
  .next (s.vendor v 0x09 fun s =>
    if 1 < flags.toNat then (1, [], s)
    else if (s.maintainer ses).isNone then (4, [], s)
    else
      let s := s.ev 0xC001 warn
      (0, [], if flags = 1 then { s with pyh := { s.pyh.relock with unlockSeen := true } } else { s with pyh := { s.pyh with tempDebug := true, unlockSeen := true } }))

/-! ### Restarts of Pyhiet on command (R592, R602) -/

/-- PYHIET_RESTART: the restart begins 1 ms after the response. -/
def execPyhietRestart (v : Vendor) (s : State) : Res :=
  .next (s.vendor v 0x0A fun s =>
    if s.pyh.restartDue.isSome then (5, [], s) else (0, [], { s with pyh := { s.pyh with restartDue := some (s.now + 1000000) } }))

def execPyhietRestartStart (s : State) : Res :=
  .next (match s.pyh.restartDue with
    | none => s
    | some t => if !s.on || s.now < t then s else { s with pyh := { s.pyh with restartDue := none } }.restartPyhiet true)

end Sys2Proof.Machine
end

