-- ==== Sys2Proof/Machine/Security.lean ====
section
/-!
DEFINITION. The SPDM responder (R558 to R569), the binding of weight envelopes (R574 to R579), and result seals (R580 to R584). Codes of SPDM are
taken from its standard (log 20).
-/

namespace Sys2Proof.Machine

/-! ### Requests (R562, R563, R568) -/

/-- The connection of a transport. -/
def State.spdmOf (s : State) : Transport → Spdm
  | .doe t => (s.port t).doe
  | .side => s.pyh.side

def State.modSpdm (s : State) (x : Transport) (f : Spdm → Spdm) : State :=
  match x with
  | .doe t => s.modPort t fun q => { q with doe := f q.doe }
  | .side => { s with pyh := { s.pyh with side := f s.pyh.side } }

/-- Whether a request reaches the responder (R508, R562, R595). -/
def State.spdmUp (s : State) (r : SpdmReq) : Bool :=
  match r.x with
  | .doe t => s.on && (s.port t).linkUp && !(s.port t).isolated
  | .side => s.takes r.m

/-- Send a response, with its interrupt on the sideband (R597). -/
def State.spdmSend (s : State) (x : Transport) (code : BitVec 8) (body : List Byte) : State :=
  match x with
  | .doe _ => s.emit (.spdm x code body)
  | .side => s.respond (.spdm x code body)

/-- An ERROR response. -/
def State.spdmErr (s : State) (x : Transport) (code : BitVec 8) (data : BitVec 8 := 0) : State := s.spdmSend x 0x7F [code, data]

/-- Take a request whose connection has reached a state: ResponseNotReady with RDTExponent 18 while Pyhiet restarts, BUSY while another transport
is served, InvalidSession for a session that is not there, UnexpectedRequest out of turn (R563, R568). -/
def State.spdm (s : State) (r : SpdmReq) (need : Nat) (body : State → State) : State :=
  if !s.spdmUp r then s
  else if s.pyhDown then s.spdmErr r.x 0x42 18
  else if r.busy then s.spdmErr r.x 0x03
  else
    let s := s.wakePyh
    let c := s.spdmOf r.x
    if !(r.ses.all fun i => c.sessions.any (·.id = i)) then s.spdmErr r.x 0x02
    else if c.state < need then s.spdmErr r.x 0x04
    else body s

/-- The finished session that a request came in. -/
def State.sessionOf (s : State) (r : SpdmReq) : Option Session :=
  r.ses.bind fun i => (s.spdmOf r.x).sessions.find? fun y => y.id = i && y.finished

/-- Sessions of a transport end; with a maintainer's, debug is locked (R569). -/
def State.endSessions (s : State) (x : Transport) (f : Session → Bool) : State :=
  let gone := (s.spdmOf x).sessions.filter f
  let s := s.modSpdm x fun c => { c with sessions := c.sessions.filter fun y => !f y }
  if gone.any (·.maintainer) then { s with pyh := s.pyh.relock } else s

/-! ### Certificates and measurements (R560, R564 to R567) -/

/-- 48 bytes of a digest. -/
def digest48 (d : List Byte) : List Byte := slice d 0 48

/-- Whether step 3 of this start has applied the records (R173). -/
def State.recordsApplied (s : State) : Bool := hasBit s.bt.ended 3

/-- The digest of the applied overlay, zero when none applies. -/
def State.overlayDigest (s : State) : List Byte :=
  match s.bt.overlay with
  | some o => digest48 o.digest
  | none => List.replicate 48 0

/-- The digest of the applied assembly record, zero before step 3. -/
def State.recordDigest (s : State) : List Byte :=
  match s.bt.record with
  | some r => digest48 r.digest
  | none => List.replicate 48 0

/-- The attestation certificate of this start, from what it carries (R560). -/
def State.attCertificate (s : State) : List Byte :=
  Config.attCert (leBytes 8 s.bt.serial.toNat ++ leBytes 4 s.bt.startCount ++ digest48 Config.romDigest ++
    s.recordDigest ++ s.overlayDigest ++ leBytes 4 s.pyh.attKey)

/-- The chain of a slot (R560). -/
def State.chain (s : State) (slot : Nat) : List Byte := Config.chainHead slot ++ if slot = 0 then s.attCertificate else []

/-- The image digest of a supplement (R570). -/
def suppDigest (x : List Byte) : List Byte := slice x 0x18 48

/-- The update field of block 6 (R564). -/
def State.updateState (s : State) : Nat := if s.pyh.update.isSome then 1 else if s.pyh.pendNext then 2 else 0

/-- Measurement block 6 (R564). -/
def State.stateBlock (s : State) : List Byte :=
  leBytes 1 s.moduleState ++ leBytes 1 s.updateState ++ leBytes 1 (b2n s.pyh.tempDebug + 2 * b2n s.pyh.unlockSeen) ++ [0] ++
    leBytes 4 s.bt.startCount ++ leBytes 8 s.now

/-- The states of a block as codes (R564, R639). -/
def blockCode : BlockState → Nat
  | .free => 0
  | .configuring => 1
  | .committed => 2
  | .tearing => 3

/-- A measurement block, taken at this tick before what changes it in it; the blocks of partitions show zero where the transport does not serve
them (R564 to R566). -/
def State.measurement (s : State) (x : Transport) (i : Nat) : Option (List Byte) :=
  let zero := List.replicate 48 (0 : Byte)
  let b := s.partSnap ⟨i % 16, by omega⟩
  let held := b.block = .committed || b.block = .tearing
  let sees := match x with
    | .side => true
    | .doe t => held && b.port = t
  if i = 1 then some (digest48 Config.romDigest)
  else if i = 2 then some (match s.pyh.running with
    | some k => suppDigest (s.pyh.slot k)
    | none => zero)
  else if i = 3 then some (if s.pyh.update.isSome then suppDigest (s.pyh.slot s.pyh.updSlot) else zero)
  else if i = 4 then some (if s.recordsApplied then s.recordDigest else zero)
  else if i = 5 then some s.overlayDigest
  else if i = 6 then some s.stateBlock
  else if 16 ≤ i ∧ i < 32 then
    some (if sees && held then digest48 (Config.sha384 b.fields) else zero)
  else if 32 ≤ i ∧ i < 48 then some (match (if sees then b.bundle else none) with
    | some d => digest48 d
    | none => zero)
  else if 48 ≤ i ∧ i < 64 then
    some (if sees && !b.envs.isEmpty then digest48 (Config.sha384 b.envs) else zero)
  else if 64 ≤ i ∧ i < 80 then
    some (if sees then leBytes 1 (blockCode b.block) ++ leBytes 1 (if held then workCode b.work else 0) ++ leBytes 6 0
      else leBytes 8 0)
  else none

/-- The indices of R564. -/
def measurementIndices : List Nat := (List.range 6).map (· + 1) ++ (List.range 64).map (· + 16)

/-! ### The connection (R562) -/

/-- VERSION: one entry, 1.3 (R562). -/
def spdmVersions : List Byte := 1 :: leBytes 2 0x1300

/-- CAPABILITIES: CTExponent 16, and the flags CERT, CHAL, MEAS with signature, ENCRYPT, MAC, MUT_AUTH, KEY_EX, HBEAT and KEY_UPD at the bits
that SPDM 1.3 gives them; the sizes that follow are the standard's (R562; log 20). -/
def spdmCapabilities : List Byte := 16 :: (leBytes 4 0x63D6 ++ slice (Config.standardBytes 0x361 []) 0 8)

/-- ALGORITHMS: DMTF measurements, SHA-384 for measurements, ECDSA P-384, SHA-384, and the structures of DHE secp384r1, AES-256-GCM, the requester's
ECDSA P-384 and the SPDM key schedule, in the codes of SPDM 1.3 (R562; log 20). -/
def spdmAlgorithms : List Byte :=
  [1] ++ leBytes 4 4 ++ leBytes 4 0x80 ++ leBytes 4 2 ++ [2, 0x20, 0x10, 0, 3, 0x20, 2, 0, 4, 0x20, 0x80, 0, 5, 0x20, 1, 0]

/-- GET_VERSION begins a connection afresh (log 20). -/
def execGetVersion (r : SpdmReq) (s : State) : Res :=
  .next (s.spdm r 0 fun s =>
    if r.ses.isSome then s.spdmErr r.x 0x04
    else ((s.endSessions r.x fun _ => true).modSpdm r.x fun c => { c with state := 1 }).spdmSend r.x 0x04 spdmVersions)

/-- GET_CAPABILITIES with its SPDM version: VersionMismatch before 1.3. -/
def execGetCapabilities (r : SpdmReq) (version : BitVec 8) (s : State) : Res :=
  .next (s.spdm r 1 fun s =>
    if version.toNat < 0x13 then s.spdmErr r.x 0x41
    else (s.modSpdm r.x fun c => { c with state := max c.state 2 }).spdmSend r.x 0x61 spdmCapabilities)

def execNegotiateAlgorithms (r : SpdmReq) (s : State) : Res :=
  .next (s.spdm r 2 fun s =>
    (s.modSpdm r.x fun c => { c with state := 3 }).spdmSend r.x 0x63 spdmAlgorithms)

/-- The digests of the two chains. -/
def execGetDigests (r : SpdmReq) (s : State) : Res :=
  .next (s.spdm r 3 fun s => s.spdmSend r.x 0x01 (digest48 (Config.sha384 (s.chain 0)) ++ digest48 (Config.sha384 (s.chain 1))))

/-- A portion of the chain of slot 0 or 1, with the length that remains. -/
def execGetCertificate (r : SpdmReq) (slot : BitVec 8) (off len : BitVec 16) (s : State) : Res :=
  .next (s.spdm r 3 fun s =>
    let c := s.chain slot.toNat
    if 1 < slot.toNat || c.length < off.toNat then s.spdmErr r.x 0x01
    else
      let bs := (c.drop off.toNat).take len.toNat
      s.spdmSend r.x 0x02 (leBytes 2 bs.length ++ leBytes 2 (c.length - off.toNat - bs.length) ++ bs))

/-- CHALLENGE is answered with a signature over the chain's digest and the nonce; without an attestation key there is none to give (log 20). -/
def execChallenge (r : SpdmReq) (slot : BitVec 8) (nonce : List Byte) (s : State) : Res :=
  .next (s.spdm r 3 fun s =>
    if slot ≠ 0 then s.spdmErr r.x 0x01
    else if s.pyh.attKey = 0 then s.spdmErr r.x 0x05
    else
      let m := digest48 (Config.sha384 (s.chain 0)) ++ nonce
      s.spdmSend r.x 0x03 (m ++ slice (Config.sign s.pyh.attKey m) 0 96))

/-- GET_MEASUREMENTS: 0 asks how many blocks there are, 0xFF for all of them, another number for one; a signature covers them and the nonce
(R564, R566). -/
def execGetMeasurements (r : SpdmReq) (op : BitVec 8) (signed : Bool) (nonce : List Byte) (s : State) : Res :=
  .next (s.spdm r 3 fun s =>
    let block (i : Nat) : List Byte := match s.measurement r.x i with
      | some v => BitVec.ofNat 8 i :: v
      | none => []
    let m := if op = 0 then [BitVec.ofNat 8 measurementIndices.length] else if op = 0xFF then measurementIndices.flatMap block else block op.toNat
    if m.isEmpty then s.spdmErr r.x 0x01
    else if !signed then s.spdmSend r.x 0x60 m
    else if s.pyh.attKey = 0 then s.spdmErr r.x 0x05
    else s.spdmSend r.x 0x60 (m ++ nonce ++ slice (Config.sign s.pyh.attKey (m ++ nonce)) 0 96))

/-! ### Secure sessions (R563, R569) -/

/-- KEY_EXCHANGE with the requester's half of the session ID: at most two sessions on a transport. The module's half is open. -/
def execKeyExchange (r : SpdmReq) (rid : BitVec 16) (s : State) : Res :=
  .next (s.spdm r 3 fun s =>
    if r.ses.isSome then s.spdmErr r.x 0x04
    else if 2 ≤ (s.spdmOf r.x).sessions.length then s.spdmErr r.x 0x0A
    else if s.pyh.attKey = 0 then s.spdmErr r.x 0x05
    else
      let id : BitVec 32 := rid.setWidth 32 ||| (s.freeBits 16).setWidth 32 <<< 16
      let s := s.tookFree.modSpdm r.x fun c =>
        { c with sessions := c.sessions ++ [{ id, finished := false, peer := none, maintainer := false, keyGen := 0 }] }
      s.spdmSend r.x 0x64 (leBytes 4 id.toNat ++ slice (Config.sign s.pyh.attKey (leBytes 4 id.toNat)) 0 96))

/-- FINISH: whether its verify data is right, and the requester's certificate where authentication is mutual. A certificate of the maintainer CA
that names this module makes a maintainer session (R569). -/
def execFinish (r : SpdmReq) (ok : Bool) (peer : Option PeerCert) (s : State) : Res :=
  .next (s.spdm r 3 fun s =>
    match r.ses with
    | none => s.spdmErr r.x 0x04
    | some i =>
      if (s.sessionOf r).isSome then s.spdmErr r.x 0x04
      else if !ok then (s.endSessions r.x fun y => y.id = i).spdmErr r.x 0x06
      else (s.modSpdm r.x fun c => { c with sessions := c.sessions.map fun y =>
          if y.id = i then { y with finished := true, peer, maintainer := peer.any fun k => k.maintainerCa && k.serial = s.bt.serial } else y }).spdmSend
        r.x 0x65 [])

/-- A session's HEARTBEAT. -/
def execSpdmHeartbeat (r : SpdmReq) (s : State) : Res :=
  .next (s.spdm r 3 fun s => if (s.sessionOf r).isNone then s.spdmErr r.x 0x04 else s.spdmSend r.x 0x68 [])

/-- KEY_UPDATE: operations 1 and 2 make new keys, 3 verifies them. -/
def execKeyUpdate (r : SpdmReq) (op : BitVec 8) (s : State) : Res :=
  .next (s.spdm r 3 fun s =>
    match s.sessionOf r with
    | none => s.spdmErr r.x 0x04
    | some y =>
      if op = 0 || 3 < op.toNat then s.spdmErr r.x 0x01
      else (s.modSpdm r.x fun c => { c with sessions := c.sessions.map fun z =>
        if z.id = y.id && op ≠ 3 then { z with keyGen := z.keyGen + 1 } else z }).spdmSend r.x 0x69 [op])

def execEndSession (r : SpdmReq) (s : State) : Res :=
  .next (s.spdm r 3 fun s =>
    match s.sessionOf r with
    | none => s.spdmErr r.x 0x04
    | some y => (s.endSessions r.x fun z => z.id = y.id).spdmSend r.x 0x6C [])

/-! ### Weight envelopes (R574 to R578) -/

/-- Pages and tags of an envelope: their count, and where the pages start (R574). -/
def envPages (e : List Byte) : Nat := field e 8 4
def envT (e : List Byte) : Nat := (0x2000 + 16 * envPages e + 4095) / 4096 * 4096

/-- Whether an envelope's header is well formed, for a length (R574). -/
def envFormOk (e : List Byte) (len : Nat) : Bool :=
  let m := field e 6 2
  let b := field e 0xC 1
  field e 0 4 = 0x56504E45 && field e 4 2 = 1 && 1 ≤ m && m ≤ 64 && 1 ≤ envPages e && envPages e ≤ 2 ^ 20 && 1 ≤ b && b ≤ 8 &&
  field e 0xD 3 = 0 && (slice e (0x80 + 48 * b) (384 - 48 * b)).all (· = 0) && (slice e (0x200 + 64 * m) (0x1000 - 64 * m)).all (· = 0) &&
  (slice e 0x1210 0xDF0).all (· = 0) && (List.range m).all (fun k => field e (0x200 + 64 * k + 56) 8 = 0) && envT e + 2 ^ 20 * envPages e ≤ len

/-- This module's wrapped key in an envelope, where a recipient entry is its own (R574). -/
def State.envWrapped (s : State) (e : List Byte) : Option (List Byte) :=
  ((List.range (field e 6 2)).find? fun k =>
    slice e (0x200 + 64 * k) 8 = leBytes 8 s.bt.serial.toNat && slice e (0x208 + 64 * k) 8 = slice Config.bindingKeyId 0 8).map
    fun k => slice e (0x210 + 64 * k) 40

/-- The bytes "CLM-BIND" (R575). -/
def bindLabel : List Byte := [0x43, 0x4C, 0x4D, 0x2D, 0x42, 0x49, 0x4E, 0x44]

/-- The weight key of an envelope, once the header tag verifies (R574, R575). -/
def State.envKey (s : State) (e wrapped : List Byte) : Option (List Byte) :=
  let kek := Config.hkdf (slice e 0x10 16) (Config.ecdhX (slice e 0x20 96)) (bindLabel ++ leBytes 8 s.bt.serial.toNat)
  (Config.unwrapKey kek wrapped).bind fun k =>
    (Config.gcmOpen k ([0xFF, 0xFF, 0xFF, 0xFF] ++ slice e 0x10 8) (slice e 0 0x1200) [] (slice e 0x1200 16)).map fun _ => k

/-- Whether a page can be bound: owned, read–write and unversioned, not lost, and not in use (R357, R576). -/
def State.bindable (s : State) (p : PartId) (n : Nat) : Bool := s.imagePageOk p n && !(s.part p).declares n

/-- The checks of a BIND in order: a bind to start, or a status (R576, R577). -/
def State.bindCheck (s : State) (p : PartId) (addr len first : Nat) (e : List Byte) : Except Nat Bind :=
  let b := s.part p
  if 16 ≤ b.envelopes.length || b.binds.any (fun x => !x.ended) then .error 6
  else if !envFormOk e len then .error 8
  else match s.envWrapped e with
    | none => .error 2
    | some w =>
      if !allPages first (envPages e) (s.bindable p) then .error 5
      else match s.envKey e w with
        | none => .error 3
        | some key => .ok
          { no := s.pyh.bindNo, status := 1, first, pages := envPages e, done := 0, addr, id := slice e 0x10 16, digest := digest48 (Config.sha384 (slice e 0 0x2000))
            permitted := (List.range (field e 0xC 1)).map fun k => slice e (0x80 + 48 * k) 48, key, ended := false }

/-- The port whose secure session a request came in. -/
def State.doePort (s : State) (r : SpdmReq) : Option PortId :=
  match r.x with
  | .doe t => if (s.sessionOf r).isSome then some t else none
  | .side => none

/-- A BIND is taken: the gateway fetches the header, whose bytes come with it, and the crypto engine unwraps the key. UnsupportedRequest anywhere but
in a secure session of the port that serves the partition. It waits where the page-map loader is away (R348, R576, R577, R647). -/
def State.takeBind (s : State) (q : BindReq) : State :=
  let p : PartId := ⟨q.part.toNat % 16, by omega⟩
  match s.doePort q.r with
  | none => s.spdmErr q.r.x 0x07 0xFE
  | some t =>
    if 16 ≤ q.part.toNat || (s.part p).block ≠ .committed || (s.part p).servPort ≠ t then s.spdmErr q.r.x 0x07 0xFE
    else if s.loaderDown then { s with pyh := { s.pyh with bindWait := s.pyh.bindWait ++ [q] } }
    else
      let s := s.emit (.hostRead t q.addr.toNat 0x2000)
      match s.bindCheck p q.addr.toNat q.len.toNat q.first.toNat q.env with
      | .error st => s.spdmSend q.r.x 0x7E [BitVec.ofNat 8 st]
      | .ok x =>
        let s := { s with pyh := { s.pyh with bindNo := (s.pyh.bindNo + 1) % 65536 } }.modPart p fun b => { b with binds := b.binds ++ [x] }
        s.spdmSend q.r.x 0x7E (leBytes 2 x.no)

def execBind (r : SpdmReq) (part : BitVec 8) (addr len : BitVec 64) (first : BitVec 32) (env : List Byte) (s : State) : Res :=
  .next (s.spdm r 0 fun s => s.takeBind { r, part, addr, len, first, env })

/-- The loader has rebuilt its frame table from another tile's replica, and the BINDs that waited for it are taken (R348). -/
def execFrameTableRebuilt (s : State) : Res :=
  .next (if s.pm.rebuilding && !hasBit s.pm.repDown 0 then
      let q := s.pyh.bindWait
      let s := { s with pm := { s.pm.rebuild (s.pm.rep (s.servTile 28)) with rebuilding := false }, pyh := { s.pyh with bindWait := [] } }
      if s.pyhDown then s else forEach q (fun q s => s.takeBind q) s
    else s)

/-- BIND_STATUS of a bind of a partition that the port serves (R576). -/
def execBindStatus (r : SpdmReq) (no : BitVec 16) (s : State) : Res :=
  .next (s.spdm r 0 fun s =>
    match s.doePort r with
    | none => s.spdmErr r.x 0x07 0xFE
    | some t =>
      let l := (allParts.filter fun p => ((s.part p).block = .committed || (s.part p).block = .tearing) && (s.part p).servPort = t).flatMap
        fun p => (s.part p).binds
      match l.find? fun x => x.no = no.toNat with
      | none => s.spdmErr r.x 0x01
      | some x => s.spdmSend r.x 0x7E (leBytes 1 x.status ++ leBytes 4 x.done))

/-- Decrypt the pages of a bind in ascending order, each written only after its tag verifies: how many were done, and the status of the page that
failed (R574, R577). -/
def State.bindPages (s : State) (p : PartId) (x : Bind) : List (List Byte × List Byte) → Nat → Nat × Option Nat × State
  | [], i => (i, if i = x.pages then none else some 4, s)
  | (ct, tag) :: r, i =>
    if i = x.pages then (i, none, s)
    else match Config.gcmOpen x.key (leBytes 4 i ++ slice x.id 0 8) (x.id ++ leBytes 4 i) ct tag with
      | none => (i, some 4, s)
      | some d =>
        let a := (x.first + i) * 2 ^ 20
        match s.writeBytes (s.gwOf p) p .desc none {} (slice d 0 (2 ^ 20)) a (linesFrom a (2 ^ 20)) 0 with
        | (_, none, s) => s.bindPages p x r (i + 1)
        | (_, some _, s) => (i, some 5, s)

/-- The entry of a bound page: read-only (R577). -/
def boundEntry (e : BitVec 64) : BitVec 64 := (e &&& ~~~0x0180000000000000) ||| 0x0080000000000000

/-- The decryption of the running bind of a partition ends. The operand is the envelope's pages with their tags. The key is erased, and either the
pages become bound at one update tick, or they are filled with zeros (R577; log 55). -/
def execBindComplete (p : PartId) (pages : List (List Byte × List Byte)) (s : State) : Res :=
  .next (match (s.part p).binds.find? fun x => !x.ended && !x.key.isEmpty with
    | none => s
    | some x =>
      if !s.on then s
      else
        let set (s : State) (f : Bind → Bind) : State := s.modPart p fun b => { b with binds := b.binds.map fun y => if y.no = x.no then f y else y }
        let read := Output.hostRead (s.part p).servPort (x.addr + 0x2000) ((16 * x.pages + 4095) / 4096 * 4096 + 2 ^ 20 * x.pages)
        match s.bindPages p x pages 0 with
        | (n, some st, s) => set ((s.emit read).zeroPages x.first x.pages) fun y => { y with key := [], status := st, done := n, ended := true }
        | (n, none, s) =>
          let s := set (s.emit read) fun y => { y with key := [], done := n }
          s.offerBatch { src := .bound p x.no, flip := false, recs := (List.range x.pages).map fun i => (x.first + i, boundEntry (s.mapEntry (x.first + i))) })

/-! ### Result seals (R580 to R584) -/

/-- Bytes of a sealed page from an offset: its entry names the committed frame (R347, R580). -/
def State.pageBytes (s : State) (q : Nat × BitVec 64) (off n : Nat) : List Byte :=
  let f := if eSel q.2 then eFrameB q.2 else eFrameA q.2
  (List.range n).map fun i => memGet s.hbm (placeByte (eClass q.2) (frameOf q.1 f) (off + i) 0)

/-- The hashes of a page's 16 leaves (R580). -/
def State.leafHashes (s : State) (q : Nat × BitVec 64) : List (List Byte) :=
  (List.range 16).map fun k => digest48 (Config.sha384 (0 :: s.pageBytes q (65536 * k) 65536))

/-- One level of the tree above another; a last unpaired hash moves up (R580). -/
def levelUp : List (List Byte) → List (List Byte)
  | a :: b :: r => digest48 (Config.sha384 (1 :: (a ++ b))) :: levelUp r
  | l => l

/-- The root of a tree; the first argument bounds the levels (R580). -/
def treeRoot : Nat → List (List Byte) → List Byte
  | 0, l => l.headD []
  | n + 1, l => if l.length ≤ 1 then l.headD [] else treeRoot n (levelUp l)

/-- The last leaf of a seal is hashed and its root built; a lost page fails it; writes that waited for it go on (R581, R582, R584). -/
def execSealLeavesHashed (p : PartId) (no : Nat) (s : State) : Res :=
  .next (match (s.part p).sealing.find? fun x => x.period = no && !x.hashed with
    | none => s
    | some x =>
      if !s.on then s
      else
        let s := if x.pages.any fun q => eLost (s.mapEntry q.1) then State.sweepBad p 256 (s.failSeals p (·.period = no))
          else
            let l := x.pages.flatMap s.leafHashes
            let root := treeRoot l.length l
            s.modPart p fun b => { b with sealing := b.sealing.map fun y => if y.period = no then { y with hashed := true, root } else y }
        forEach allEps (fun e s => if (s.ep e).stalled.isEmpty then s else s.retryStalled e) s.pump)

/-- The 352 bytes of a seal (R583). -/
def State.sealBytes (s : State) (p : PartId) (x : Sealing) : List Byte :=
  let b := leBytes 4 0x4C414553 ++ leBytes 2 1 ++ leBytes 1 p.val ++ [0] ++ leBytes 8 s.bt.serial.toNat ++ leBytes 8 x.period ++
    leBytes 8 x.compl.tick ++ leBytes 8 s.now ++ leBytes 8 (16 * x.pages.length) ++ digest48 x.digest ++ digest48 x.root ++
    digest48 (Config.sha384 s.attCertificate) ++ leBytes 32 x.outs.toNat ++ List.replicate 32 0
  b ++ slice (Config.sign s.pyh.attKey b) 0 96

/-- The crypto engine signs a seal: it is kept among the last 64, and the period's record carries its handle. Signing waits while Pyhiet restarts
(R555, R581, R583, R588). -/
def execSealSigned (p : PartId) (no : Nat) (s : State) : Res :=
  .next (match (s.part p).sealing.find? fun x => x.period = no && x.hashed with
    | none => s
    | some x =>
      if !s.on || s.pyhDown || s.pyh.attKey = 0 then s
      else
        let bs := s.sealBytes p x
        let c := { x.compl with handle := BitVec.ofNat 64 (field (Config.sha384 bs) 0 8) }
        let s := s.modPart p fun b =>
          { b with
            sealing := b.sealing.filter fun y => y.period ≠ no
            seals := (b.seals ++ [({ period := no, bytes := bs } : Seal)]).drop (b.seals.length + 1 - 64)
            periods := b.periods.map fun y => if y.no = no then { y with compl := some c } else y }
        State.sweepBad p 256 (s.settle p))

end Sys2Proof.Machine
end

