-- ==== Sys2Proof/Machine/Registers.lean ====
section
/-!
DEFINITION. The setup register map: writes of BAR0 through a port, their checks and effects (R13, R14, R17, R520, R522, R630 to R646), and what a
read returns.
-/

namespace Sys2Proof.Machine

/-! ### Checks of a write (R14, R17, R520, R631, R632) -/

/-- One warning for a reserved encoding written to a field (R14). -/
def State.reservedField (s : State) (t : PortId) (off : Nat) : State :=
  s.ev 0xE001 warn 0x06 (gwEp t).val none (writeDetail t off)

/-- A field of a written word: its bits, and the range of values that are not reserved (R14). -/
structure RegField where
  hi : Nat
  lo : Nat
  least : Nat
  most : Nat
  deriving DecidableEq, Repr

/-- Whether a word gives a field a value that is not reserved. -/
def RegField.ok (f : RegField) (v : BitVec 64) : Bool := f.least ≤ bits v.toNat f.hi f.lo && bits v.toNat f.hi f.lo ≤ f.most

/-- The value of a field after a write: a reserved encoding leaves it as it was (R632). -/
def RegField.take (f : RegField) (v old : BitVec 64) : Nat := bits (if f.ok v then v else old).toNat f.hi f.lo

/-- A register after a write: only its fields are taken, the rest reads zero (R13, R632). -/
def takeFields (l : List RegField) (v old : BitVec 64) : BitVec 64 := BitVec.ofNat 64 (l.foldl (fun n f => n + f.take v old * 2 ^ f.lo) 0)

/-- One warning for each field that was given a reserved encoding. -/
def State.warnFields (s : State) (t : PortId) (off : Nat) (l : List RegField) (v : BitVec 64) : State :=
  (l.filter fun f => !f.ok v).foldl (fun s _ => s.reservedField t off) s

/-- A register that only the steward port writes (R520). -/
def State.stewardWrite (s : State) (t : PortId) (off : Nat) (f : State → State) : State :=
  if !s.barUp t then s else if t ≠ s.pw.steward then s.ignoredWrite t off else f s

/-! ### The module, thermal and time blocks (R634 to R636) -/

/-- MODULE_CONTROL: clearing the enable relocks debug at once (R569, R634). -/
def State.writeControl (s : State) (t : PortId) (v : BitVec 64) : State :=
  s.stewardWrite t 0x20 fun s =>
    if v.getLsbD 0 then { s with pyh := { s.pyh with maintEnable := true } }
    else { s with pyh := { s.pyh.relock with maintEnable := false } }

def execModuleControl (t : PortId) (v : BitVec 64) (s : State) : Res := .next (s.writeControl t v)

/-- The fields of RECORDER_LIMIT: burst and rate. -/
def limitFields : List RegField := [⟨26, 16, 1, 1024⟩, ⟨8, 0, 1, 256⟩]

/-- RECORDER_LIMIT as it reads. -/
def Recorder.limitWord (r : Recorder) : BitVec 64 := BitVec.ofNat 64 (r.burst * 2 ^ 16 + r.rate)

def State.writeLimit (s : State) (t : PortId) (v : BitVec 64) : State :=
  s.stewardWrite t 0x28 fun s =>
    let w := (takeFields limitFields v s.evr.limitWord).toNat
    { s with evr := s.evr.setLimit s.now (bits w 8 0) (bits w 26 16) : State }.warnFields t 0x28 limitFields v

def execRecorderLimit (t : PortId) (v : BitVec 64) (s : State) : Res := .next (s.writeLimit t v)

/-- The fields of THERM_CONFIG: input power cap and T_thr (R104, R118). -/
def thermFields : List RegField := [⟨44, 32, 2000, 7500⟩, ⟨6, 0, 80, 95⟩]

/-- THERM_CONFIG as it reads. -/
def Therm.configWord (h : Therm) : BitVec 64 := BitVec.ofNat 64 (h.capW * 2 ^ 32 + h.tThr)

def State.writeTherm (s : State) (t : PortId) (v : BitVec 64) : State :=
  s.stewardWrite t 0x1000 fun s =>
    let w := (takeFields thermFields v s.th.configWord).toNat
    { s with th := { s.th with capW := bits w 44 32, tThr := bits w 6 0 } : State }.warnFields t 0x1000 thermFields v

def execThermConfig (t : PortId) (v : BitVec 64) (s : State) : Res := .next (s.writeTherm t v)

/-- Another source is selected: steering is frozen, and the first valid sample of the new source sets the offset; free-run has none
(R147, R150, R152). -/
def TimeLock.select (k : TimeLock) (v : BitVec 3) : TimeLock :=
  if v = k.source then k
  else { k with source := v, lock := if v = 0 then .free else .acquire, locked1 := false, samples := 0, inBand := 0, ppsNext := 0
                rejected := false, ptmFail := none }

/-- TIME_SOURCE: a pending PPS_SECONDS value is discarded (R646). -/
def State.writeSource (s : State) (t : PortId) (v : BitVec 64) : State :=
  s.stewardWrite t 0x2000 fun s =>
    let s := { s with tm := { s.tm with ppsSec := none } }
    if 5 < bits v.toNat 2 0 then s.reservedField t 0x2000
    else { s with tm := s.tm.select (v.setWidth 3) }

def execTimeSource (t : PortId) (v : BitVec 64) (s : State) : Res := .next (s.writeSource t v)

/-- PPS_SECONDS names the next qualified edge (R149). -/
def State.writePps (s : State) (t : PortId) (v : BitVec 64) : State :=
  s.stewardWrite t 0x2020 fun s => { s with tm := { s.tm with ppsSec := some v.toNat } }

def execPpsSeconds (t : PortId) (v : BitVec 64) (s : State) : Res := .next (s.writePps t v)

/-! ### The gateway block (R638) -/

/-- LINK_SELECT of the writing port: receiver and sender. -/
def State.writeSelect (s : State) (t : PortId) (v : BitVec 64) : State :=
  if s.barUp t then s.modPort t fun q => { q with linkSel := v &&& 0x1F1F } else s

def execLinkSelect (t : PortId) (v : BitVec 64) (s : State) : Res := .next (s.writeSelect t v)

/-! ### Partition blocks (R639 to R643) -/

/-- The fields of an RWL register (R523, R530, R641, R642). -/
def rwlFields (reg : Nat) : List RegField :=
  match reg with
  | 0x10 => [⟨39, 36, 0, 15⟩, ⟨33, 32, 0, 3⟩, ⟨15, 0, 0, 65535⟩]
  | 0x18 => [⟨41, 32, 2, 1000⟩, ⟨16, 16, 0, 1⟩, ⟨3, 0, 0, 12⟩]
  | 0x20 => [⟨40, 32, 0, 256⟩, ⟨24, 16, 0, 256⟩, ⟨8, 0, 0, 256⟩]
  | 0x28 => [⟨63, 20, 0, 2 ^ 44⟩]
  | 0x30 => [⟨46, 20, 0, 2 ^ 26⟩]
  | 0x38 => [⟨63, 6, 0, 2 ^ 58⟩]
  | 0x40 => [⟨63, 12, 0, 2 ^ 52⟩]
  | 0x48 => [⟨63, 9, 0, 2 ^ 55⟩]
  | _ => []

/-- An RWL register of a block (R639). -/
def Part.rwl (b : Part) (reg : Nat) : BitVec 64 :=
  match reg with
  | 0x10 => b.shape
  | 0x18 => b.timing
  | 0x20 => b.shares
  | 0x28 => b.winBase
  | 0x30 => b.winSize
  | 0x38 => b.heartbeat
  | 0x40 => b.ringTable
  | 0x48 => b.doorbell
  | _ => 0

/-- A block with a word in one of its RWL registers. -/
def Part.setRwl (b : Part) (reg : Nat) (w : BitVec 64) : Part :=
  match reg with
  | 0x10 => { b with shape := w }
  | 0x18 => { b with timing := w }
  | 0x20 => { b with shares := w }
  | 0x28 => { b with winBase := w }
  | 0x30 => { b with winSize := w }
  | 0x38 => { b with heartbeat := w }
  | 0x40 => { b with ringTable := w }
  | 0x48 => { b with doorbell := w }
  | _ => b

/-- A free block that is written begins to be configured (R522). -/
def Part.touched (b : Part) : Part := if b.block = .free then { b with block := .configuring } else b

/-- A block whose fields are locked (R17, R639). -/
def Part.locked (b : Part) : Bool := b.block = .committed || b.block = .tearing

/-- A write of an RWL register: locked after commit and in its cycle, with a warning (R17, R19). -/
def State.writeRwl (s : State) (t : PortId) (p : PartId) (reg : Nat) (v : BitVec 64) : State :=
  s.stewardWrite t (blockOff p reg) fun s =>
    if (s.part p).locked || s.commitsNow p then s.ev 0xE002 warn 0x06 (gwEp t).val none (writeDetail t (blockOff p reg))
    else (s.modPart p fun b => b.touched.setRwl reg (takeFields (rwlFields reg) v (b.rwl reg))).warnFields t (blockOff p reg) (rwlFields reg) v

/-- PART_IRQ_ENABLE: the steward port while the block is not locked, the serving port after commit (R530, R642; log 56). -/
def State.writeIrq (s : State) (t : PortId) (p : PartId) (v : BitVec 64) : State :=
  let b := s.part p
  if !s.barUp t then s
  else if b.block = .committed && t = b.servPort || !b.locked && t = s.pw.steward then s.modPart p fun b => { b.touched with irq := v }
  else s.ignoredWrite t (blockOff p 0x50)

/-- PAGE_CMD: a reserved action is warned of, and reads as a malformed command (R14, R643). -/
def State.writePageCmd (s : State) (t : PortId) (p : PartId) (v : BitVec 64) : State :=
  let first := bits v.toNat 52 32
  let count := bits v.toNat 20 0
  match bits v.toNat 63 62 with
  | 1 => s.pageCmd t p false first count
  | 2 => s.pageCmd t p true first count
  | _ => s.stewardWrite t (blockOff p 0x58) fun s => (s.reservedField t (blockOff p 0x58)).pageCmd t p false 0 0

/-- PART_CONTROL: the actions of R641, and a warning for any other. A commit reads the ring table. -/
def State.writeAction (s : State) (t : PortId) (p : PartId) (v : BitVec 64) (table : List Byte) : State :=
  match bits v.toNat 7 0 with
  | 1 => s.commit t p table
  | 2 => s.abandon t p
  | 3 => s.teardown t p
  | 4 => s.restartPart t p
  | 5 => s.doorbellResync t p
  | _ => if s.barUp t then s.refuseAction t p else s

/-- A register of a partition block. -/
def State.writePart (s : State) (t : PortId) (p : PartId) (reg : Nat) (v : BitVec 64) (table : List Byte) : State :=
  if reg = 0x08 then s.writeAction t p v table
  else if reg = 0x50 then s.writeIrq t p v
  else if reg = 0x58 then s.writePageCmd t p v
  else if 0x10 ≤ reg && reg ≤ 0x48 then s.writeRwl t p reg v
  else if !s.barUp t || reg ≠ 0 && reg ≠ 0x60 && reg ≠ 0x68 || t = s.pw.steward then s
  else s.ignoredWrite t (blockOff p reg)

/-! ### The window (R630 to R632) -/

/-- The last register of a block that is not a partition's; what follows it is reserved. -/
def blockEnd (blk : Nat) : Nat :=
  match blk with
  | 0 => 0x28
  | 1 => 0x20
  | 2 => 0x20
  | 3 => 0x20
  | 4 => 0x18
  | _ => 0

/-- A write of one aligned 8 B register. A reserved offset and a read-only register are ignored. -/
def State.writeReg (s : State) (t : PortId) (off : Nat) (v : BitVec 64) (table : List Byte) : State :=
  let blk := off / 0x1000
  let reg := off % 0x1000
  if 0x10000 ≤ off then
    if h : blk - 16 < 16 then s.writePart t ⟨blk - 16, h⟩ reg v table else s
  else if off = 0x20 then s.writeControl t v
  else if off = 0x28 then s.writeLimit t v
  else if off = 0x1000 then s.writeTherm t v
  else if off = 0x2000 then s.writeSource t v
  else if off = 0x2020 then s.writePps t v
  else if off = 0x4008 then s.writeSelect t v
  else if blk ≤ 3 && reg ≤ blockEnd blk then s.stewardWrite t off fun s => s
  else s

/-- A write through BAR0 of a port: offset, size, value, and the ring table as the gateway reads it, which the Commit action needs. A write
that is not one aligned 8 B write has no effect (R631). -/
def execRegisterWrite (t : PortId) (off size : Nat) (v : BitVec 64) (table : List Byte) (s : State) : Res :=
  .next (if !s.barUp t then s
    else if size ≠ 8 || off % 8 ≠ 0 then s.ev 0xE004 warn 0x06 (gwEp t).val none (writeDetail t off)
    else s.writeReg t off v table)

/-! ### What a read returns (R520, R634 to R643) -/

/-- A word from fields: value and lowest bit. -/
def word (l : List (Nat × Nat)) : BitVec 64 := BitVec.ofNat 64 (l.foldl (fun n f => n + f.1 * 2 ^ f.2) 0)

/-- A signed value in a field of 32 bits. -/
def signed32 (x : Int) : Nat := (BitVec.ofInt 32 x).toNat

/-- The start-up step in progress (R634). -/
def State.stepNow (s : State) : Nat := if s.pw.phase = .starting then (bitList s.bt.busy).headD 0 else 0

/-- Stacks out of service (R634). -/
def State.oosStacks (s : State) : Nat := ((allStacks.filter fun x => (s.stack x).oos).map fun x => 2 ^ x.val).sum

/-- The lowest cap over one stack, for STACK_CAPS0 and STACK_CAPS1. -/
def State.capsFrom (s : State) (lo : Nat) : BitVec 64 :=
  word ((allStacks.filter fun x => lo ≤ x.val && x.val < lo + 8).map fun x => (s.capOver [x], 8 * (x.val - lo)))

/-- The hottest governing temperature of R113, in quarter degrees. -/
def State.hottest (s : State) : Int :=
  allStacks.foldl (fun m x => (List.finRange 100).foldl (fun m p => max m (max (s.govern x p).1 (s.govern x p).2)) m) (-400)

/-- The module, thermal and time blocks (R634 to R636). -/
def State.readCommon (s : State) (t : PortId) (off : Nat) : BitVec 64 :=
  match off with
  | 0x0000 => s.bt.serial
  | 0x0008 => word [(1, 16), (b2n s.bt.isX, 8), (s.pw.steward.val, 4), (t.val, 0)]
  | 0x0010 => word [(s.oosStacks, 32), (s.stepNow, 24), (if s.moduleState = 2 then s.bt.failStep else 0, 16), (s.conditions.toNat, 8), (s.moduleState, 0)]
  | 0x0018 => BitVec.ofNat 64 (s.copyNow (gwEp t))
  | 0x0020 => word [(b2n s.pyh.maintEnable, 0)]
  | 0x0028 => s.evr.limitWord
  | 0x1000 => s.th.configWord
  | 0x1008 => word [(s.pw.inW, 48), (s.pw.vinCv, 32), (s.restartCount, 24), (s.capOver allStacks, 16), (s.hottest.toNat % 1024, 0)]
  | 0x1010 => s.capsFrom 0
  | 0x1018 => s.capsFrom 8
  | 0x1020 => word [(s.th.diodeFlags.toNat, 16), (s.suspectMask.toNat, 0)]
  | 0x2000 => s.tm.source.setWidth 64
  | 0x2008 => word [(signed32 s.tm.steer, 32), (b2n s.tm.ppsOk, 9), (b2n s.tm.ptmValid, 8),
      (match s.tm.lock with | .free => 0 | .acquire => 1 | .locked => 2 | .holdover => 3, 0)]
  | 0x2010 => BitVec.ofInt 64 s.tm.offset
  | 0x2018 => word [(signed32 (max (-(2 ^ 31)) (min (2 ^ 31 - 1) s.tm.phaseErr)), 32), (min s.tm.samples (2 ^ 32 - 1), 0)]
  | _ => 0

/-- The fabric status block and the gateway block of a port (R637, R638). -/
def State.readPort (s : State) (t : PortId) (off : Nat) : BitVec 64 :=
  let e := s.ep (gwEp t)
  let q := s.port t
  let down := allTiles.filter fun h => (s.ep (hubEp h)).isolated
  let i : EpId := ⟨bits q.linkSel.toNat 4 0 % 32, by omega⟩
  let j : EpId := ⟨bits q.linkSel.toNat 12 8 % 32, by omega⟩
  let serving := allParts.filter fun p => (s.part p).block = .committed
  match off with
  | 0x3000 => word ([(s.holder.toNat, 4), (s.groups.toNat, 0)] ++ match e.pends.head? with
      | some w => [(1, 15), (b2n w.path, 14), (w.group.val, 12)]
      | none => [])
  | 0x3008 => BitVec.ofNat 64 (match e.pends.head? with | some w => w.t | none => 0)
  | 0x3010 => word [(e.lost.toNat, 32), (((allEps.filter fun x => (s.ep x).inService).map fun x => 2 ^ x.val).sum, 0)]
  | 0x3018 => word [((down.map fun h => 2 ^ h.val).sum, 4), (b2n !down.isEmpty, 0)]
  | 0x3020 => word [((allEps.flatMap fun i => (others i).filter fun j => (s.usableTx i j &&& s.usableRx i j) = 0).length, 32),
      ((s.lanes.filter fun k => !(k.2.badOn (s.pathOf (laneOfKey k.1))).isEmpty).length, 0)]
  | 0x4000 => word [(((serving.filter fun p => (s.part p).servPort = t).map fun p => 2 ^ p.val).sum, 48), (b2n (t = s.pw.steward), 40),
      (q.ide.toNat, 32), (q.cxlWidth, 16), (q.cxlRate, 0)]
  | 0x4008 => q.linkSel
  | 0x4010 => word [(if i = j then 0 else (s.link i j).mask.toNat, 32), ((s.link i j).width.toNat, 20), (entryRoute (s.entry i j), 16),
      ((s.ep i).epoch.toNat, 8)]
  | 0x4018 => word [(((serving.filter fun p => (s.part p).servPort = t).map fun p => (s.part p).share 2).sum, 32),
      ((serving.map fun p => (s.part p).share 1).sum, 16), ((serving.map fun p => (s.part p).share 0).sum, 0)]
  | _ => 0

/-- A register of a partition block; write-only ones read zero (R17, R639 to R643). -/
def State.readPart (s : State) (p : PartId) (reg : Nat) : BitVec 64 :=
  let b := s.part p
  match reg with
  | 0x00 => word [(b.commitSt.toNat, 32), (if b.block = .committed then s.causeOf p else 0, 24),
      (if b.block = .committed then workCode b.work else 0, 16), (blockCode b.block, 0)]
  | 0x50 => b.irq
  | 0x60 => word [(b.pageApplied, 32), ((b.pageRefused.getD b.pageSt).toNat, 0)]
  | 0x68 => word [(s.lostCount p, 32), ((s.pagesOf p).length - s.lostCount p, 0)]
  | _ => b.rwl reg

/-- The register that an aligned 8 B read through a port returns: zero at a reserved offset, and in a partition block that is neither the steward's to read
nor served by the port (R520, R632). -/
def State.readReg (s : State) (t : PortId) (off : Nat) : BitVec 64 :=
  let blk := off / 0x1000
  if 0x10000 ≤ off then
    if h : blk - 16 < 16 then
      let p : PartId := ⟨blk - 16, h⟩
      if t = s.pw.steward || (s.part p).locked && (s.part p).servPort = t then s.readPart p (off % 0x1000) else 0
    else 0
  else if blk ≤ 2 then s.readCommon t off
  else s.readPort t off

/-- What an aligned read of 4 or 8 bytes through a port returns: the bytes it covers (R631). -/
def State.readBar (s : State) (t : PortId) (off size : Nat) : List Byte :=
  slice (leBytes 8 (s.readReg t (off / 8 * 8)).toNat) (off % 8) size

end Sys2Proof.Machine
end

