-- ==== Sys2Proof/Machine/Uniform.lean ====
section
/-!
DEFINITION. The uniform class (R258): operations on 64-bit s registers, each acting once (R252).
-/

namespace Sys2Proof.Machine

/-- The check of a uniform register form (R251, R258). -/
def okUni (f : FA) : Bool :=
  f.gd.ok && f.typ = 0xC && f.mods = 0 && f.src3 = 0 && okS f.src1 && okS f.src2

/-- The check of a uniform immediate form. -/
def okUniImm (f : FB) : Bool := f.gd.ok && f.typ = 0xC && f.rnd = 0 && okS f.src1

/-- A uniform operation in a register form, or in an immediate form that gets the immediate extended as stated. -/
def uniBin (u : Cv) (x : FAB) (sext : Bool) (op : BitVec 64 → BitVec 64 → BitVec 64) : State → State :=
  match x with
  | .reg f => issue u (okUni f && okS f.dest) [] <| cvEffect u fun c =>
      (c.uniform f.gd fun c => c.sPut f.dest (op (c.sGet f.src1) (c.sGet f.src2)), 0)
  | .imm f => issue u (okUniImm f && okS f.dest) [] <| cvEffect u fun c =>
      (c.uniform f.gd fun c => c.sPut f.dest
        (op (c.sGet f.src1) (if sext then f.imm.signExtend 64 else f.imm.setWidth 64)), 0)

def execUAdd (u : Cv) (x : FAB) (s : State) : Res := .next (uniBin u x true (· + ·) s)

def execUSub (u : Cv) (f : FA) (s : State) : Res := .next (uniBin u (.reg f) true (· - ·) s)

def execUMul (u : Cv) (f : FA) (s : State) : Res := .next (uniBin u (.reg f) true (· * ·) s)

def execUAnd (u : Cv) (x : FAB) (s : State) : Res := .next (uniBin u x false (· &&& ·) s)

def execUOr (u : Cv) (x : FAB) (s : State) : Res := .next (uniBin u x false (· ||| ·) s)

def execUXor (u : Cv) (x : FAB) (s : State) : Res := .next (uniBin u x false (· ^^^ ·) s)

def execUShl (u : Cv) (x : FAB) (s : State) : Res := .next (uniBin u x false (fun a b => a <<< (b.toNat % 64)) s)

def execUShr (u : Cv) (x : FAB) (s : State) : Res := .next (uniBin u x false (fun a b => a >>> (b.toNat % 64)) s)

def execLshi (u : Cv) (f : FB) (s : State) : Res :=
  .next (uniBin u (.imm f) false (fun a b => a <<< 25 ||| b) s)

def execUCmp (u : Cv) (k : Cmp) (x : FAB) (s : State) : Res :=
  .next (match x with
    | .reg f => issue u (okUni f && okP f.dest) [] (cvEffect u fun c =>
        (c.preds f.gd f.dest fun _ => cmpInt k (c.sGet f.src1).toInt (c.sGet f.src2).toInt, 0)) s
    | .imm f => issue u (okUniImm f && okP f.dest) [] (cvEffect u fun c =>
        (c.preds f.gd f.dest fun _ => cmpInt k (c.sGet f.src1).toInt f.imm.toInt, 0)) s)

end Sys2Proof.Machine
end

