-- ==== Sys2Proof/Machine/Dispatch.lean ====
section
/-!
DEFINITION. The dispatch: one arm for each constructor of Instr, each a direct call of that command's meaning.
-/

namespace Sys2Proof.Machine

def exec (i : Instr) (s : State) : Host.Outcome State Fault Refusal :=
  match i with
  | .modPwrenOn f => Sys2Proof.Machine.execModPwrenOn f s
  | .modPwrenOff => Sys2Proof.Machine.execModPwrenOff s
  | .orderlyShutdownDone f => Sys2Proof.Machine.execOrderlyShutdownDone f s
  | .modResetAssert => Sys2Proof.Machine.execModResetAssert s
  | .modResetRelease => Sys2Proof.Machine.execModResetRelease s
  | .perstNAssert t => Sys2Proof.Machine.execPerstNAssert t s
  | .perstNDeassert t refclk => Sys2Proof.Machine.execPerstNDeassert t refclk s
  | .gatewayPowerStable t => Sys2Proof.Machine.execGatewayPowerStable t s
  | .refclkAppear t => Sys2Proof.Machine.execRefclkAppear t s
  | .stewardSelChange v => Sys2Proof.Machine.execStewardSelChange v s
  | .ppsEdge rate => Sys2Proof.Machine.execPpsEdge rate s
  | .ppsTimeout => Sys2Proof.Machine.execPpsTimeout s
  | .i3cStuckLow => Sys2Proof.Machine.execI3cStuckLow s
  | .i3cBusResume => Sys2Proof.Machine.execI3cBusResume s
  | .i3cEntdaa a => Sys2Proof.Machine.execI3cEntdaa a s
  | .i3cSetdasa static a => Sys2Proof.Machine.execI3cSetdasa static a s
  | .diodeFrame l => Sys2Proof.Machine.execDiodeFrame l s
  | .jtagInstruction ir => Sys2Proof.Machine.execJtagInstruction ir s
  | .coolantSample inlet outlet => Sys2Proof.Machine.execCoolantSample inlet outlet s
  | .inputLowWarning cv => Sys2Proof.Machine.execInputLowWarning cv s
  | .inputLowShutdown cv => Sys2Proof.Machine.execInputLowShutdown cv s
  | .inputBrownoutStop cv => Sys2Proof.Machine.execInputBrownoutStop cv s
  | .inputOvervoltageStop cv => Sys2Proof.Machine.execInputOvervoltageStop cv s
  | .inputBackInRange cv f => Sys2Proof.Machine.execInputBackInRange cv f s
  | .railFault r n => Sys2Proof.Machine.execRailFault r n s
  | .cdPowerSample x mw => Sys2Proof.Machine.execCdPowerSample x mw s
  | .inputPowerSample w cv => Sys2Proof.Machine.execInputPowerSample w cv s
  | .thermalModelUpdate sens inputs => Sys2Proof.Machine.execThermalModelUpdate sens inputs s
  | .throttleSample => Sys2Proof.Machine.execThrottleSample s
  | .capTakesEffect x p => Sys2Proof.Machine.execCapTakesEffect x p s
  | .hbmThermalSample h t => Sys2Proof.Machine.execHbmThermalSample h t s
  | .mlSensorsSuspect x p => Sys2Proof.Machine.execMlSensorsSuspect x p s
  | .thermalTrip l => Sys2Proof.Machine.execThermalTrip l s
  | .thermalAutoRestart => Sys2Proof.Machine.execThermalAutoRestart s
  | .syncSend => Sys2Proof.Machine.execSyncSend s
  | .sync a count => Sys2Proof.Machine.execSync a count s
  | .syncProbe a t => Sys2Proof.Machine.execSyncProbe a t s
  | .syncEcho a t1 t2 => Sys2Proof.Machine.execSyncEcho a t1 t2 s
  | .syncHoldoverWarning e => Sys2Proof.Machine.execSyncHoldoverWarning e s
  | .ptmDialogue t d => Sys2Proof.Machine.execPtmDialogue t d s
  | .lockSourceLost => Sys2Proof.Machine.execLockSourceLost s
  | .droopStretch x p => Sys2Proof.Machine.execDroopStretch x p s
  | .replicaMarginSample x p first paths => Sys2Proof.Machine.execReplicaMarginSample x p first paths s
  | .fixedClockLoss d => Sys2Proof.Machine.execFixedClockLoss d s
  | .regionOscillatorFailure x p => Sys2Proof.Machine.execRegionOscillatorFailure x p s
  | .meshClockFailure x => Sys2Proof.Machine.execMeshClockFailure x s
  | .tcxoLoss => Sys2Proof.Machine.execTcxoLoss s
  | .tcxoReturn => Sys2Proof.Machine.execTcxoReturn s
  | .masterPllRelock => Sys2Proof.Machine.execMasterPllRelock s
  | .regionClockStop x p => Sys2Proof.Machine.execRegionClockStop x p s
  | .regionPowerOff x p => Sys2Proof.Machine.execRegionPowerOff x p s
  | .powerOffRampDone x p c => Sys2Proof.Machine.execPowerOffRampDone x p c s
  | .scheduledWake p => Sys2Proof.Machine.execScheduledWake p s
  | .regionWake x p c => Sys2Proof.Machine.execRegionWake x p c s
  | .startupStepEnd k r => Sys2Proof.Machine.execStartupStepEnd k r s
  | .dieReturnToService back => Sys2Proof.Machine.execDieReturnToService back s
  | .pageMapCopyDone t => Sys2Proof.Machine.execPageMapCopyDone t s
  | .sliceAccessTimeout u => Sys2Proof.Machine.execSliceAccessTimeout u s
  | .beaconSend e => Sys2Proof.Machine.execBeaconSend e s
  | .beacon a epoch => Sys2Proof.Machine.execBeacon a epoch s
  | .peerLost e o => Sys2Proof.Machine.execPeerLost e o s
  | .partitionRestart t p => Sys2Proof.Machine.execPartitionRestart t p s
  | .partitionRestartDone p tests => Sys2Proof.Machine.execPartitionRestartDone p tests s
  | .heartbeatWrite p => Sys2Proof.Machine.execHeartbeatWrite p s
  | .periodStart x c => Sys2Proof.Machine.execPeriodStart x c s
  | .deadline x c => Sys2Proof.Machine.execDeadline x c s
  | .programFetch g => Sys2Proof.Machine.execProgramFetch g s
  | .freeRunTickLimit p => Sys2Proof.Machine.execFreeRunTickLimit p s
  | .copyEngineIssue g e => Sys2Proof.Machine.execCopyEngineIssue g e s
  | .handoverDone x c n => Sys2Proof.Machine.execHandoverDone x c n s
  | .intAdd u x => Sys2Proof.Machine.execIntAdd u x s
  | .intSub u x => Sys2Proof.Machine.execIntSub u x s
  | .intMul u x => Sys2Proof.Machine.execIntMul u x s
  | .mulhi u f => Sys2Proof.Machine.execMulhi u f s
  | .mad u f => Sys2Proof.Machine.execMad u f s
  | .intMin u x => Sys2Proof.Machine.execIntMin u x s
  | .intMax u x => Sys2Proof.Machine.execIntMax u x s
  | .intAnd u x => Sys2Proof.Machine.execIntAnd u x s
  | .intOr u x => Sys2Proof.Machine.execIntOr u x s
  | .intXor u x => Sys2Proof.Machine.execIntXor u x s
  | .intShl u x => Sys2Proof.Machine.execIntShl u x s
  | .intShr u x => Sys2Proof.Machine.execIntShr u x s
  | .popc u f => Sys2Proof.Machine.execPopc u f s
  | .clz u f => Sys2Proof.Machine.execClz u f s
  | .intCmp u k x => Sys2Proof.Machine.execIntCmp u k x s
  | .sel u f => Sys2Proof.Machine.execSel u f s
  | .intMov u x => Sys2Proof.Machine.execIntMov u x s
  | .movSv u f => Sys2Proof.Machine.execMovSv u f s
  | .movVs u f => Sys2Proof.Machine.execMovVs u f s
  | .shfl u f => Sys2Proof.Machine.execShfl u f s
  | .vote u f => Sys2Proof.Machine.execVote u f s
  | .pand u f => Sys2Proof.Machine.execPand u f s
  | .por u f => Sys2Proof.Machine.execPor u f s
  | .pxor u f => Sys2Proof.Machine.execPxor u f s
  | .pnot u f => Sys2Proof.Machine.execPnot u f s
  | .uAdd u x => Sys2Proof.Machine.execUAdd u x s
  | .uSub u f => Sys2Proof.Machine.execUSub u f s
  | .uMul u f => Sys2Proof.Machine.execUMul u f s
  | .uAnd u x => Sys2Proof.Machine.execUAnd u x s
  | .uOr u x => Sys2Proof.Machine.execUOr u x s
  | .uXor u x => Sys2Proof.Machine.execUXor u x s
  | .uShl u x => Sys2Proof.Machine.execUShl u x s
  | .uShr u x => Sys2Proof.Machine.execUShr u x s
  | .lshi u f => Sys2Proof.Machine.execLshi u f s
  | .uCmp u k x => Sys2Proof.Machine.execUCmp u k x s
  | .fAdd u x => Sys2Proof.Machine.execFAdd u x s
  | .fSub u x => Sys2Proof.Machine.execFSub u x s
  | .fMul u x => Sys2Proof.Machine.execFMul u x s
  | .fma u f => Sys2Proof.Machine.execFma u f s
  | .fMin u x => Sys2Proof.Machine.execFMin u x s
  | .fMax u x => Sys2Proof.Machine.execFMax u x s
  | .div u f => Sys2Proof.Machine.execDiv u f s
  | .sqrt u f => Sys2Proof.Machine.execSqrt u f s
  | .rcp u f => Sys2Proof.Machine.execRcp u f s
  | .rsqrt u f => Sys2Proof.Machine.execRsqrt u f s
  | .exp2 u f => Sys2Proof.Machine.execExp2 u f s
  | .log2 u f => Sys2Proof.Machine.execLog2 u f s
  | .fCmp u k x => Sys2Proof.Machine.execFCmp u k x s
  | .cmpUn u f => Sys2Proof.Machine.execCmpUn u f s
  | .fMov u f => Sys2Proof.Machine.execFMov u f s
  | .conversion u src f => Sys2Proof.Machine.execConversion u src f s
  | .xadd u f => Sys2Proof.Machine.execXadd u f s
  | .xsub u f => Sys2Proof.Machine.execXsub u f s
  | .xneg u f => Sys2Proof.Machine.execXneg u f s
  | .xmov u f => Sys2Proof.Machine.execXmov u f s
  | .xzero u f => Sys2Proof.Machine.execXzero u f s
  | .xcmp u k f => Sys2Proof.Machine.execXcmp u k f s
  | .mma u f e => Sys2Proof.Machine.execMma u f e s
  | .mmZero u f => Sys2Proof.Machine.execMmZero u f s
  | .mmLd u f e => Sys2Proof.Machine.execMmLd u f e s
  | .mmSt u f => Sys2Proof.Machine.execMmSt u f s
  | .mmAdd u f => Sys2Proof.Machine.execMmAdd u f s
  | .ld u f e => Sys2Proof.Machine.execLd u f e s
  | .st u f e => Sys2Proof.Machine.execSt u f e s
  | .ldU u f e => Sys2Proof.Machine.execLdU u f e s
  | .stU u f => Sys2Proof.Machine.execStU u f s
  | .ldc u f => Sys2Proof.Machine.execLdc u f s
  | .stc u f => Sys2Proof.Machine.execStc u f s
  | .ldG u f => Sys2Proof.Machine.execLdG u f s
  | .stG u f => Sys2Proof.Machine.execStG u f s
  | .atomAdd u f => Sys2Proof.Machine.execAtomAdd u f s
  | .atomFadd u f => Sys2Proof.Machine.execAtomFadd u f s
  | .atomMin u f => Sys2Proof.Machine.execAtomMin u f s
  | .atomMax u f => Sys2Proof.Machine.execAtomMax u f s
  | .atomMinu u f => Sys2Proof.Machine.execAtomMinu u f s
  | .atomMaxu u f => Sys2Proof.Machine.execAtomMaxu u f s
  | .atomSwap u f => Sys2Proof.Machine.execAtomSwap u f s
  | .atomCas u f => Sys2Proof.Machine.execAtomCas u f s
  | .atomXsadd u f => Sys2Proof.Machine.execAtomXsadd u f s
  | .copy u f => Sys2Proof.Machine.execCopy u f s
  | .copyMc u f => Sys2Proof.Machine.execCopyMc u f s
  | .wmAddInstr u f => Sys2Proof.Machine.execWmAddInstr u f s
  | .wmSet u f => Sys2Proof.Machine.execWmSet u f s
  | .wmWait u f => Sys2Proof.Machine.execWmWait u f s
  | .wmRead u f => Sys2Proof.Machine.execWmRead u f s
  | .wmSignal u f => Sys2Proof.Machine.execWmSignal u f s
  | .nopI u f => Sys2Proof.Machine.execNopI u f s
  | .bra u f => Sys2Proof.Machine.execBra u f s
  | .braAny u f => Sys2Proof.Machine.execBraAny u f s
  | .ifI u f => Sys2Proof.Machine.execIfI u f s
  | .elseI u f => Sys2Proof.Machine.execElseI u f s
  | .endif u f => Sys2Proof.Machine.execEndif u f s
  | .loop u f => Sys2Proof.Machine.execLoop u f s
  | .breakI u f => Sys2Proof.Machine.execBreakI u f s
  | .endloop u f => Sys2Proof.Machine.execEndloop u f s
  | .halt u f => Sys2Proof.Machine.execHalt u f s
  | .barSync u f => Sys2Proof.Machine.execBarSync u f s
  | .fenceCore u f => Sys2Proof.Machine.execFenceCore u f s
  | .fence u f => Sys2Proof.Machine.execFence u f s
  | .idV u f => Sys2Proof.Machine.execIdV u f s
  | .idS u f => Sys2Proof.Machine.execIdS u f s
  | .flagsRd u f => Sys2Proof.Machine.execFlagsRd u f s
  | .flagsClr u f => Sys2Proof.Machine.execFlagsClr u f s
  | .outDone u f => Sys2Proof.Machine.execOutDone u f s
  | .outputPartComplete g => Sys2Proof.Machine.execOutputPartComplete g s
  | .clearDone x p => Sys2Proof.Machine.execClearDone x p s
  | .marchDone x m => Sys2Proof.Machine.execMarchDone x m s
  | .operationTimeout n => Sys2Proof.Machine.execOperationTimeout n s
  | .pageMapBatchAccept => Sys2Proof.Machine.execPageMapBatchAccept s
  | .pageMapUpdateTick => Sys2Proof.Machine.execPageMapUpdateTick s
  | .quarantineEnd f => Sys2Proof.Machine.execQuarantineEnd f s
  | .hbmSelfRefreshEntry h => Sys2Proof.Machine.execHbmSelfRefreshEntry h s
  | .replayEntryExpiry e id => Sys2Proof.Machine.execReplayEntryExpiry e id s
  | .frameTableRebuilt => Sys2Proof.Machine.execFrameTableRebuilt s
  | .commitFlip p t => Sys2Proof.Machine.execCommitFlip p t s
  | .stackJudgement x => Sys2Proof.Machine.execStackJudgement x s
  | .periodFailRepeat e p => Sys2Proof.Machine.execPeriodFailRepeat e p s
  | .confirmationTick p t => Sys2Proof.Machine.execConfirmationTick p t s
  | .marginReading l cdBm => Sys2Proof.Machine.execMarginReading l cdBm s
  | .lightLoss x => Sys2Proof.Machine.execLightLoss x s
  | .laneMarker m => Sys2Proof.Machine.execLaneMarker m s
  | .symbolErrorCheck l symbols corrected codewords => Sys2Proof.Machine.execSymbolErrorCheck l symbols corrected codewords s
  | .ringLossOfLock l r => Sys2Proof.Machine.execRingLossOfLock l r s
  | .pilotCheck l modulator khz => Sys2Proof.Machine.execPilotCheck l modulator khz s
  | .ringAcquisitionDone l modulator dips => Sys2Proof.Machine.execRingAcquisitionDone l modulator dips s
  | .laserPowerLow e r => Sys2Proof.Machine.execLaserPowerLow e r s
  | .laneReturnTest l => Sys2Proof.Machine.execLaneReturnTest l s
  | .laneReturnTestDone l r => Sys2Proof.Machine.execLaneReturnTestDone l r s
  | .linkMaskDecision a m => Sys2Proof.Machine.execLinkMaskDecision a m s
  | .linkMaskAnnouncement a m => Sys2Proof.Machine.execLinkMaskAnnouncement a m s
  | .trainingRepeat ei j => Sys2Proof.Machine.execTrainingRepeat ei j s
  | .linkQuiet ei j => Sys2Proof.Machine.execLinkQuiet ei j s
  | .packetSend ei j => Sys2Proof.Machine.execPacketSend ei j s
  | .ack a p => Sys2Proof.Machine.execAck a p s
  | .ackTimer e o => Sys2Proof.Machine.execAckTimer e o s
  | .atomicReply a r1 r2 => Sys2Proof.Machine.execAtomicReply a r1 r2 s
  | .credit a => Sys2Proof.Machine.execCredit a s
  | .hubState a mask ring => Sys2Proof.Machine.execHubState a mask ring s
  | .hubStateSend t => Sys2Proof.Machine.execHubStateSend t s
  | .periodNotice a tag start deadline => Sys2Proof.Machine.execPeriodNotice a tag start deadline s
  | .periodFail a tag tick => Sys2Proof.Machine.execPeriodFail a tag tick s
  | .pageMapEntries a u recs => Sys2Proof.Machine.execPageMapEntries a u recs s
  | .auditReply a vc transit held returned number => Sys2Proof.Machine.execAuditReply a vc transit held returned number s
  | .load a e => Sys2Proof.Machine.execLoad a e s
  | .readData a d bad => Sys2Proof.Machine.execReadData a d bad s
  | .store a be d e => Sys2Proof.Machine.execStore a be d e s
  | .atomic a p e => Sys2Proof.Machine.execAtomic a p e s
  | .copyRead a dst len mask dstEp dstLoc e => Sys2Proof.Machine.execCopyRead a dst len mask dstEp dstLoc e s
  | .copyData a d e => Sys2Proof.Machine.execCopyData a d e s
  | .wmAdd a core w n => Sys2Proof.Machine.execWmAdd a core w n s
  | .drainMarker a => Sys2Proof.Machine.execDrainMarker a s
  | .windowAudit a => Sys2Proof.Machine.execWindowAudit a s
  | .windowAuditTimer ei j vc => Sys2Proof.Machine.execWindowAuditTimer ei j vc s
  | .promotion e => Sys2Proof.Machine.execPromotion e s
  | .bankIdleTimeout e => Sys2Proof.Machine.execBankIdleTimeout e s
  | .epochHoldTimeout e o vc => Sys2Proof.Machine.execEpochHoldTimeout e o vc s
  | .turnpikeEntry t => Sys2Proof.Machine.execTurnpikeEntry t s
  | .internalDelivery e x => Sys2Proof.Machine.execInternalDelivery e x s
  | .causewayRecord e w => Sys2Proof.Machine.execCausewayRecord e w s
  | .causewayRecordMissing e => Sys2Proof.Machine.execCausewayRecordMissing e s
  | .controllerFail e => Sys2Proof.Machine.execControllerFail e s
  | .leaseRenew h => Sys2Proof.Machine.execLeaseRenew h s
  | .leaseRenewal h g gen ex => Sys2Proof.Machine.execLeaseRenewal h g gen ex s
  | .leaseEcho h g ex => Sys2Proof.Machine.execLeaseEcho h g ex s
  | .tokenTakeover h g => Sys2Proof.Machine.execTokenTakeover h g s
  | .stewardReturnTakeover h => Sys2Proof.Machine.execStewardReturnTakeover h s
  | .switchoverEcho h g => Sys2Proof.Machine.execSwitchoverEcho h g s
  | .probeReading e p cdBm khz => Sys2Proof.Machine.execProbeReading e p cdBm khz s
  | .switchAnnouncement a sw h => Sys2Proof.Machine.execSwitchAnnouncement a sw h s
  | .switchAcceptance a sw => Sys2Proof.Machine.execSwitchAcceptance a sw s
  | .faultReport a f => Sys2Proof.Machine.execFaultReport a f s
  | .stateRecord a paths h gen => Sys2Proof.Machine.execStateRecord a paths h gen s
  | .announceRepeat h => Sys2Proof.Machine.execAnnounceRepeat h s
  | .stateRecordSend h => Sys2Proof.Machine.execStateRecordSend h s
  | .switchExclude e => Sys2Proof.Machine.execSwitchExclude e s
  | .driverSwitch e => Sys2Proof.Machine.execDriverSwitch e s
  | .switchRestore e => Sys2Proof.Machine.execSwitchRestore e s
  | .switchComplete h g => Sys2Proof.Machine.execSwitchComplete h g s
  | .eyeMonitorSample x bundle lane steps words errors => Sys2Proof.Machine.execEyeMonitorSample x bundle lane steps words errors s
  | .ucieFlit u bs => Sys2Proof.Machine.execUcieFlit u bs s
  | .ucieLinkDown q => Sys2Proof.Machine.execUcieLinkDown q s
  | .openSiteTempReport t temp => Sys2Proof.Machine.execOpenSiteTempReport t temp s
  | .openSiteTempTimeout t => Sys2Proof.Machine.execOpenSiteTempTimeout t s
  | .openSitePacket t vc op addr pl tag => Sys2Proof.Machine.execOpenSitePacket t vc op addr pl tag s
  | .configRequest t r => Sys2Proof.Machine.execConfigRequest t r s
  | .functionLevelReset t => Sys2Proof.Machine.execFunctionLevelReset t s
  | .powerStateChange t d3 => Sys2Proof.Machine.execPowerStateChange t d3 s
  | .hdmDecoderCommit t n base size skip ways => Sys2Proof.Machine.execHdmDecoderCommit t n base size skip ways s
  | .cxlMemRead t tag hpa => Sys2Proof.Machine.execCxlMemRead t tag hpa s
  | .cxlMemWrite t tag hpa be d => Sys2Proof.Machine.execCxlMemWrite t tag hpa be d s
  | .cxlMemReadTimeout t tag => Sys2Proof.Machine.execCxlMemReadTimeout t tag s
  | .doorbellSnoop p l => Sys2Proof.Machine.execDoorbellSnoop p l s
  | .doorbellWake p v => Sys2Proof.Machine.execDoorbellWake p v s
  | .cxlLinkDown t => Sys2Proof.Machine.execCxlLinkDown t s
  | .cxlLinkUp t width rate => Sys2Proof.Machine.execCxlLinkUp t width rate s
  | .ideKeyProgram t keys => Sys2Proof.Machine.execIdeKeyProgram t keys s
  | .ideIntegrityFailure t => Sys2Proof.Machine.execIdeIntegrityFailure t s
  | .cdatRead t => Sys2Proof.Machine.execCdatRead t s
  | .commit t p table => Sys2Proof.Machine.execCommit t p table s
  | .commitDone c => Sys2Proof.Machine.execCommitDone c s
  | .abandon t p => Sys2Proof.Machine.execAbandon t p s
  | .teardown t p => Sys2Proof.Machine.execTeardown t p s
  | .teardownDone p => Sys2Proof.Machine.execTeardownDone p s
  | .doorbellResync t p => Sys2Proof.Machine.execDoorbellResync t p s
  | .pageAssign t p first count => Sys2Proof.Machine.execPageAssign t p first count s
  | .pageRelease t p first count => Sys2Proof.Machine.execPageRelease t p first count s
  | .descriptorFetch p r l => Sys2Proof.Machine.execDescriptorFetch p r l s
  | .nopDescriptor p n => Sys2Proof.Machine.execNopDescriptor p n s
  | .loadBundle p n bs => Sys2Proof.Machine.execLoadBundle p n bs s
  | .bundleAdmission p => Sys2Proof.Machine.execBundleAdmission p s
  | .runPeriods p n => Sys2Proof.Machine.execRunPeriods p n s
  | .stopWork p n => Sys2Proof.Machine.execStopWork p n s
  | .copyIn p n h e lost => Sys2Proof.Machine.execCopyIn p n h e lost s
  | .copyOut p n h e lost => Sys2Proof.Machine.execCopyOut p n h e lost s
  | .fill p n e lost => Sys2Proof.Machine.execFill p n e lost s
  | .fenceDescriptor p n => Sys2Proof.Machine.execFenceDescriptor p n s
  | .pageMapUpdate p n bs => Sys2Proof.Machine.execPageMapUpdate p n bs s
  | .waymarkSet p n => Sys2Proof.Machine.execWaymarkSet p n s
  | .freeRun p n bs => Sys2Proof.Machine.execFreeRun p n bs s
  | .sealFetch p n => Sys2Proof.Machine.execSealFetch p n s
  | .marchTest p n => Sys2Proof.Machine.execMarchTest p n s
  | .healthQuery p n => Sys2Proof.Machine.execHealthQuery p n s
  | .completionRecordWrite p r => Sys2Proof.Machine.execCompletionRecordWrite p r s
  | .msixMessage p r => Sys2Proof.Machine.execMsixMessage p r s
  | .getVersion r => Sys2Proof.Machine.execGetVersion r s
  | .getCapabilities r version => Sys2Proof.Machine.execGetCapabilities r version s
  | .negotiateAlgorithms r => Sys2Proof.Machine.execNegotiateAlgorithms r s
  | .getDigests r => Sys2Proof.Machine.execGetDigests r s
  | .getCertificate r slot off len => Sys2Proof.Machine.execGetCertificate r slot off len s
  | .challenge r slot nonce => Sys2Proof.Machine.execChallenge r slot nonce s
  | .getMeasurements r op signed nonce => Sys2Proof.Machine.execGetMeasurements r op signed nonce s
  | .keyExchange r rid => Sys2Proof.Machine.execKeyExchange r rid s
  | .finish r ok peer => Sys2Proof.Machine.execFinish r ok peer s
  | .spdmHeartbeat r => Sys2Proof.Machine.execSpdmHeartbeat r s
  | .keyUpdate r op => Sys2Proof.Machine.execKeyUpdate r op s
  | .endSession r => Sys2Proof.Machine.execEndSession r s
  | .bind r part addr len first env => Sys2Proof.Machine.execBind r part addr len first env s
  | .bindStatus r no => Sys2Proof.Machine.execBindStatus r no s
  | .bindComplete p pages => Sys2Proof.Machine.execBindComplete p pages s
  | .sealLeavesHashed p no => Sys2Proof.Machine.execSealLeavesHashed p no s
  | .sealSigned p no => Sys2Proof.Machine.execSealSigned p no s
  | .updateComponent m cls ident stamp size most => Sys2Proof.Machine.execUpdateComponent m cls ident stamp size most s
  | .firmwareData m d => Sys2Proof.Machine.execFirmwareData m d s
  | .firmwareDataTimeout => Sys2Proof.Machine.execFirmwareDataTimeout s
  | .supplementCheck => Sys2Proof.Machine.execSupplementCheck s
  | .activateFirmware m live => Sys2Proof.Machine.execActivateFirmware m live s
  | .cancelUpdate m => Sys2Proof.Machine.execCancelUpdate m s
  | .cancelUpdateComponent m => Sys2Proof.Machine.execCancelUpdateComponent m s
  | .watchdogExpiry => Sys2Proof.Machine.execWatchdogExpiry s
  | .pyhietBootDone => Sys2Proof.Machine.execPyhietBootDone s
  | .pyhietWake => Sys2Proof.Machine.execPyhietWake s
  | .pyhietSleep => Sys2Proof.Machine.execPyhietSleep s
  | .setEndpointId m e => Sys2Proof.Machine.execSetEndpointId m e s
  | .getEndpointId m => Sys2Proof.Machine.execGetEndpointId m s
  | .getEndpointUuid m => Sys2Proof.Machine.execGetEndpointUuid m s
  | .getMctpVersionSupport m typ => Sys2Proof.Machine.execGetMctpVersionSupport m typ s
  | .getMessageTypeSupport m => Sys2Proof.Machine.execGetMessageTypeSupport m s
  | .getVendorDefinedMessageSupport m sel => Sys2Proof.Machine.execGetVendorDefinedMessageSupport m sel s
  | .settid m tid => Sys2Proof.Machine.execSettid m tid s
  | .gettid m => Sys2Proof.Machine.execGettid m s
  | .getpldmversion m typ => Sys2Proof.Machine.execGetpldmversion m typ s
  | .getpldmtypes m => Sys2Proof.Machine.execGetpldmtypes m s
  | .getpldmcommands m typ => Sys2Proof.Machine.execGetpldmcommands m typ s
  | .getpdrrepositoryinfo m => Sys2Proof.Machine.execGetpdrrepositoryinfo m s
  | .getpdr m handle => Sys2Proof.Machine.execGetpdr m handle s
  | .getsensorreading m id => Sys2Proof.Machine.execGetsensorreading m id s
  | .getstatesensorreadings m id => Sys2Proof.Machine.execGetstatesensorreadings m id s
  | .getConditions v => Sys2Proof.Machine.execGetConditions v s
  | .reset v dom num => Sys2Proof.Machine.execReset v dom num s
  | .sidebandResetStart => Sys2Proof.Machine.execSidebandResetStart s
  | .stewardSet v port => Sys2Proof.Machine.execStewardSet v port s
  | .thermalRestart v => Sys2Proof.Machine.execThermalRestart v s
  | .pathSwitch v g path => Sys2Proof.Machine.execPathSwitch v g path s
  | .healthRead v sel part off len => Sys2Proof.Machine.execHealthRead v sel part off len s
  | .recorderRead v first count flags => Sys2Proof.Machine.execRecorderRead v first count flags s
  | .recorderClear v ses => Sys2Proof.Machine.execRecorderClear v ses s
  | .debugUnlock v ses flags => Sys2Proof.Machine.execDebugUnlock v ses flags s
  | .pyhietRestart v => Sys2Proof.Machine.execPyhietRestart v s
  | .pyhietRestartStart => Sys2Proof.Machine.execPyhietRestartStart s
  | .ageingSample r => Sys2Proof.Machine.execAgeingSample r s
  | .suppressionReport => Sys2Proof.Machine.execSuppressionReport s
  | .freezeTimeout => Sys2Proof.Machine.execFreezeTimeout s
  | .flashFlush => Sys2Proof.Machine.execFlashFlush s
  | .flashWriteDone ok status => Sys2Proof.Machine.execFlashWriteDone ok status s
  | .moduleControl t v => Sys2Proof.Machine.execModuleControl t v s
  | .recorderLimit t v => Sys2Proof.Machine.execRecorderLimit t v s
  | .thermConfig t v => Sys2Proof.Machine.execThermConfig t v s
  | .timeSource t v => Sys2Proof.Machine.execTimeSource t v s
  | .ppsSeconds t v => Sys2Proof.Machine.execPpsSeconds t v s
  | .linkSelect t v => Sys2Proof.Machine.execLinkSelect t v s
  | .registerWrite t off size v table => Sys2Proof.Machine.execRegisterWrite t off size v table s
  | .jPowerRemoval => Sys2Proof.Machine.execJPowerRemoval s
  | .jPowerReturn cv => Sys2Proof.Machine.execJPowerReturn cv s
  | .illegalInstruction u w => Sys2Proof.Machine.execIllegalInstruction u w s
  | .freeRunKernelLaunch p => Sys2Proof.Machine.execFreeRunKernelLaunch p s
  | .hostReadCompletion t tag d bad => Sys2Proof.Machine.execHostReadCompletion t tag d bad s

end Sys2Proof.Machine
end

