-- ==== Sys2Proof/Machine/Tick.lean ====
section
/-!
DEFINITION. What the passing of one Milestone tick does by itself: the master count and the copies that are still being corrected (R137, R142,
R143); a link's marker blocks and a switchover's training (R400, R480); the changes that a record of the Causeway carries (R467); the rows of a
march (R334); the use of a region by its cores (R167); merged in-band interrupts, and the interrupt of a changed condition (R597). Every other
timed event is a command (logs 1, 2).
-/

namespace Sys2Proof.Machine

/-- One tick of a correction in progress: a copy that gains counts twice, a copy that holds does not count. -/
def nudge (c : Int) : Int := c.sign

/-- An endpoint's copy over one tick (R142). -/
def EpState.tickCopy (e : EpState) : EpState := { e with delta := e.delta + nudge e.corr, corr := e.corr - nudge e.corr }

/-- A cluster's copy over one tick (R143). -/
def Cluster.tickCopy (c : Cluster) : Cluster := { c with msDelta := c.msDelta + nudge c.msCorr, msCorr := c.msCorr - nudge c.msCorr }

/-- A merged interrupt that waits is tried again (R597). -/
def State.retryIbi (s : State) (e1 : Bool) : State :=
  if hasBit s.pyh.ibiPend (if e1 then 0 else 1) then
    ({ s with pyh := { s.pyh with ibiPend := putBit s.pyh.ibiPend (if e1 then 0 else 1) false } } : State).ibi e1
  else s

/-- Interrupt 0xE2 follows a condition of R73 that has been set or cleared (R597). -/
def State.watchConditions (s : State) : State :=
  if s.conditions = s.pyh.lastCond then s else ({ s with pyh := { s.pyh with lastCond := s.conditions } } : State).ibi false

/-- The master count and every copy over one tick. -/
def State.countTick (s : State) : State :=
  { s with
    now := s.now + 1
    eps := kmapIf {} s.eps (fun _ => true) EpState.tickCopy
    clusters := kmapIf {} s.clusters (fun _ => true) Cluster.tickCopy }

/-- A region whose cluster has work is in use (R167). -/
def State.useRegions (s : State) : State :=
  forEach s.cores (fun q s =>
    let g : CoreId := ⟨q.1 % 24576, by omega⟩
    if !q.2.busy then s
    else match s.physOf (coreStack g) (coreCluster g) with
      | some p => s.modRegion (coreStack g) p fun r => { r with lastUse := s.now }
      | none => s) s

/-- A preserving march goes on to its next row, 172 ticks after the last, and what waited for the bank is granted between them (R334, R337). -/
def State.marchTick (s : State) : State :=
  forEach s.stks (fun q s =>
    let x : StackId := ⟨q.1 % 16, by omega⟩
    if q.2.marching = some true && (s.now - q.2.marchAt) % 172 = 0 then s.retryStalled (stackEp x) else s) s

/-- What a tick does in the core and fabric domains, while their rails are up. -/
def State.railTick (s : State) : State :=
  if s.pw.rails then s.creditTick.causewayTick.dueMarkers.switchTick.useRegions.marchTick else s

/-- One Milestone tick; nothing happens while VAON is down. -/
def tick (s : State) : State := if s.on then (((s.countTick.railTick.retryIbi true).retryIbi false).watchConditions) else s

end Sys2Proof.Machine
end

