-- ==== Sys2Proof/Machine/Encoding.lean ====
section
/-!
DEFINITION. The words of the four instruction formats (R248, R249) and of the copy class (R269): the word that a
major opcode, a minor opcode and the fields spell, and the fields that a word holds. The command that reports an
issue carries the fields (log 24); these functions say which word they come from.
-/

namespace Sys2Proof.Machine

/-- Bits 63 to 47: major opcode, guard and destination, above the 47 bits of a format (R248). -/
def wordTop (major : BitVec 7) (g : Guard) (dest : BitVec 6) (low : BitVec 47) : BitVec 64 :=
  major ++ g.pred ++ BitVec.ofBool g.inv ++ dest ++ low

/-- A format A word (R249). -/
def wordA (major : BitVec 7) (minor : BitVec 9) (f : FA) : BitVec 64 :=
  wordTop major f.gd f.dest (f.src1 ++ f.src2 ++ f.src3 ++ minor ++ f.typ ++ f.mods)

/-- A format B word (R249). -/
def wordB (major : BitVec 7) (minor : BitVec 9) (f : FB) : BitVec 64 :=
  wordTop major f.gd f.dest (f.src1 ++ minor ++ f.typ ++ f.rnd ++ f.imm)

/-- A format M word (R249). -/
def wordM (major : BitVec 7) (minor : BitVec 9) (f : FM) : BitVec 64 :=
  wordTop major f.gd f.dest (f.sA ++ f.sB ++ f.stile ++ minor ++ f.typ ++ f.rnd ++ f.acc ++ f.rsv)

/-- A format X word (R249). -/
def wordX (major : BitVec 7) (minor : BitVec 9) (f : FX) : BitVec 64 :=
  wordTop major f.gd f.data (f.base ++ f.index ++ minor ++ f.typ ++ f.iscale ++ BitVec.ofBool f.ien ++ f.order ++ f.off)

/-- A copy-class word (R269). -/
def wordC (minor : BitVec 9) (f : FC) : BitVec 64 :=
  wordTop 0x13 f.gd f.dst (f.src ++ f.len ++ minor ++ f.low)

/-- The major opcode of a word (R248). -/
def majorOf (w : BitVec 64) : BitVec 7 := w.extractLsb 63 57

/-- The guard of a word (R248). -/
def guardOf (w : BitVec 64) : Guard := { pred := w.extractLsb 56 54, inv := w.getLsbD 53 }

/-- The minor opcode of a format A word. -/
def minorA (w : BitVec 64) : BitVec 9 := w.extractLsb 28 20
/-- The minor opcode of a format B word. -/
def minorB (w : BitVec 64) : BitVec 9 := w.extractLsb 40 32
/-- The minor opcode of a format M word. -/
def minorM (w : BitVec 64) : BitVec 9 := w.extractLsb 31 23
/-- The minor opcode of a format X word. -/
def minorX (w : BitVec 64) : BitVec 9 := w.extractLsb 34 26

/-- The fields of a format A word. -/
def fieldsA (w : BitVec 64) : FA :=
  { gd := guardOf w, dest := w.extractLsb 52 47, src1 := w.extractLsb 46 41, src2 := w.extractLsb 40 35,
    src3 := w.extractLsb 34 29, typ := w.extractLsb 19 16, mods := w.extractLsb 15 0 }

/-- The fields of a format B word. -/
def fieldsB (w : BitVec 64) : FB :=
  { gd := guardOf w, dest := w.extractLsb 52 47, src1 := w.extractLsb 46 41, typ := w.extractLsb 31 28,
    rnd := w.extractLsb 27 25, imm := w.extractLsb 24 0 }

/-- The fields of a format M word. -/
def fieldsM (w : BitVec 64) : FM :=
  { gd := guardOf w, dest := w.extractLsb 52 47, sA := w.extractLsb 46 41, sB := w.extractLsb 40 35,
    stile := w.extractLsb 34 32, typ := w.extractLsb 22 19, rnd := w.extractLsb 18 16, acc := w.extractLsb 15 14,
    rsv := w.extractLsb 13 0 }

/-- The fields of a format X word. -/
def fieldsX (w : BitVec 64) : FX :=
  { gd := guardOf w, data := w.extractLsb 52 47, base := w.extractLsb 46 41, index := w.extractLsb 40 35,
    typ := w.extractLsb 25 22, iscale := w.extractLsb 21 20, ien := w.getLsbD 19, order := w.extractLsb 18 16,
    off := w.extractLsb 15 0 }

/-- The fields of a copy-class word. -/
def fieldsC (w : BitVec 64) : FC :=
  { gd := guardOf w, dst := w.extractLsb 52 47, src := w.extractLsb 46 41, len := w.extractLsb 40 35,
    low := w.extractLsb 25 0 }

end Sys2Proof.Machine
end

