-- ==== Sys2Proof/Machine/Words.lean ====
section
/-!
DEFINITION. The opcode tables of R255 to R273: the word of each instruction that a core issues, and the instruction that a word spells. The
command that reports an issue carries the fields (log 24); what a memory access finds in its SECDED check is no part of a word.
-/

namespace Sys2Proof.Machine

/-! ### Minor opcodes -/

/-- The comparisons stand at six minors in a row. -/
def Cmp.code : Cmp → Nat
  | .eq => 0
  | .ne => 1
  | .lt => 2
  | .le => 3
  | .gt => 4
  | .ge => 5

/-- The comparison at a place among the six. -/
def cmpAt : Nat → Option Cmp
  | 0 => some .eq
  | 1 => some .ne
  | 2 => some .lt
  | 3 => some .le
  | 4 => some .gt
  | 5 => some .ge
  | _ => none

/-- A word of a class with a register and an immediate form: the two majors. -/
def wordAB (majorA majorB : BitVec 7) (minor : BitVec 9) : FAB → BitVec 64
  | .reg f => wordA majorA minor f
  | .imm f => wordB majorB minor f

/-- The word that an instruction of a core is issued from; other commands have none. -/
def wordOf : Instr → Option (BitVec 64)
  | .intAdd _ x => some (wordAB 0x01 0x02 0x000 x)
  | .intSub _ x => some (wordAB 0x01 0x02 0x001 x)
  | .intMul _ x => some (wordAB 0x01 0x02 0x002 x)
  | .mulhi _ f => some (wordA 0x01 0x003 f)
  | .mad _ f => some (wordA 0x01 0x004 f)
  | .intMin _ x => some (wordAB 0x01 0x02 0x005 x)
  | .intMax _ x => some (wordAB 0x01 0x02 0x006 x)
  | .intAnd _ x => some (wordAB 0x01 0x02 0x008 x)
  | .intOr _ x => some (wordAB 0x01 0x02 0x009 x)
  | .intXor _ x => some (wordAB 0x01 0x02 0x00A x)
  | .intShl _ x => some (wordAB 0x01 0x02 0x00C x)
  | .intShr _ x => some (wordAB 0x01 0x02 0x00D x)
  | .popc _ f => some (wordA 0x01 0x00E f)
  | .clz _ f => some (wordA 0x01 0x00F f)
  | .intCmp _ k x => some (wordAB 0x01 0x02 (BitVec.ofNat 9 (0x10 + Cmp.code k)) x)
  | .sel _ f => some (wordA 0x01 0x018 f)
  | .intMov _ x => some (wordAB 0x01 0x02 0x020 x)
  | .movSv _ f => some (wordA 0x01 0x021 f)
  | .movVs _ f => some (wordA 0x01 0x022 f)
  | .shfl _ f => some (wordA 0x01 0x023 f)
  | .vote _ f => some (wordA 0x01 0x024 f)
  | .pand _ f => some (wordA 0x01 0x030 f)
  | .por _ f => some (wordA 0x01 0x031 f)
  | .pxor _ f => some (wordA 0x01 0x032 f)
  | .pnot _ f => some (wordA 0x01 0x033 f)
  | .uAdd _ x => some (wordAB 0x06 0x07 0x000 x)
  | .uSub _ f => some (wordA 0x06 0x001 f)
  | .uMul _ f => some (wordA 0x06 0x002 f)
  | .uAnd _ x => some (wordAB 0x06 0x07 0x008 x)
  | .uOr _ x => some (wordAB 0x06 0x07 0x009 x)
  | .uXor _ x => some (wordAB 0x06 0x07 0x00A x)
  | .uShl _ x => some (wordAB 0x06 0x07 0x00C x)
  | .uShr _ x => some (wordAB 0x06 0x07 0x00D x)
  | .lshi _ f => some (wordB 0x07 0x00E f)
  | .uCmp _ k x => some (wordAB 0x06 0x07 (BitVec.ofNat 9 (0x10 + Cmp.code k)) x)
  | .fAdd _ x => some (wordAB 0x03 0x04 0x000 x)
  | .fSub _ x => some (wordAB 0x03 0x04 0x001 x)
  | .fMul _ x => some (wordAB 0x03 0x04 0x002 x)
  | .fma _ f => some (wordA 0x03 0x003 f)
  | .fMin _ x => some (wordAB 0x03 0x04 0x004 x)
  | .fMax _ x => some (wordAB 0x03 0x04 0x005 x)
  | .div _ f => some (wordA 0x03 0x006 f)
  | .sqrt _ f => some (wordA 0x03 0x007 f)
  | .rcp _ f => some (wordA 0x03 0x008 f)
  | .rsqrt _ f => some (wordA 0x03 0x009 f)
  | .exp2 _ f => some (wordA 0x03 0x00A f)
  | .log2 _ f => some (wordA 0x03 0x00B f)
  | .fCmp _ k x => some (wordAB 0x03 0x04 (BitVec.ofNat 9 (0x10 + Cmp.code k)) x)
  | .cmpUn _ f => some (wordA 0x03 0x016 f)
  | .fMov _ f => some (wordB 0x04 0x020 f)
  | .conversion _ src f => if src.toNat ≤ 0xE then some (wordA 0x05 (src.setWidth 9) f) else none
  | .xadd _ f => some (wordA 0x09 0x000 f)
  | .xsub _ f => some (wordA 0x09 0x001 f)
  | .xneg _ f => some (wordA 0x09 0x002 f)
  | .xmov _ f => some (wordA 0x09 0x003 f)
  | .xzero _ f => some (wordA 0x09 0x004 f)
  | .xcmp _ k f => some (wordA 0x09 (BitVec.ofNat 9 (0x08 + Cmp.code k)) f)
  | .mma _ f _ => some (wordM 0x08 0x000 f)
  | .mmZero _ f => some (wordM 0x08 0x001 f)
  | .mmLd _ f _ => some (wordM 0x08 0x002 f)
  | .mmSt _ f => some (wordM 0x08 0x003 f)
  | .mmAdd _ f => some (wordM 0x08 0x004 f)
  | .ld _ f _ => some (wordX 0x10 0x000 f)
  | .st _ f _ => some (wordX 0x10 0x001 f)
  | .ldU _ f _ => some (wordX 0x10 0x002 f)
  | .stU _ f => some (wordX 0x10 0x003 f)
  | .ldc _ f => some (wordX 0x10 0x004 f)
  | .stc _ f => some (wordX 0x10 0x005 f)
  | .ldG _ f => some (wordX 0x11 0x000 f)
  | .stG _ f => some (wordX 0x11 0x001 f)
  | .atomAdd _ f => some (wordX 0x12 0x000 f)
  | .atomFadd _ f => some (wordX 0x12 0x001 f)
  | .atomMin _ f => some (wordX 0x12 0x002 f)
  | .atomMax _ f => some (wordX 0x12 0x003 f)
  | .atomMinu _ f => some (wordX 0x12 0x004 f)
  | .atomMaxu _ f => some (wordX 0x12 0x005 f)
  | .atomSwap _ f => some (wordX 0x12 0x006 f)
  | .atomCas _ f => some (wordX 0x12 0x007 f)
  | .atomXsadd _ f => some (wordX 0x12 0x008 f)
  | .copy _ f => some (wordC 0x000 f)
  | .copyMc _ f => some (wordC 0x001 f)
  | .wmAddInstr _ f => some (wordB 0x14 0x000 f)
  | .wmSet _ f => some (wordB 0x14 0x001 f)
  | .wmWait _ f => some (wordB 0x14 0x002 f)
  | .wmRead _ f => some (wordB 0x14 0x003 f)
  | .wmSignal _ f => some (wordB 0x14 0x004 f)
  | .nopI _ f => some (wordB 0x18 0x000 f)
  | .bra _ f => some (wordB 0x18 0x001 f)
  | .braAny _ f => some (wordB 0x18 0x002 f)
  | .ifI _ f => some (wordB 0x18 0x004 f)
  | .elseI _ f => some (wordB 0x18 0x005 f)
  | .endif _ f => some (wordB 0x18 0x006 f)
  | .loop _ f => some (wordB 0x18 0x008 f)
  | .breakI _ f => some (wordB 0x18 0x009 f)
  | .endloop _ f => some (wordB 0x18 0x00B f)
  | .halt _ f => some (wordB 0x18 0x010 f)
  | .barSync _ f => some (wordB 0x19 0x000 f)
  | .fenceCore _ f => some (wordB 0x19 0x001 f)
  | .fence _ f => some (wordB 0x19 0x002 f)
  | .idV _ f => some (wordB 0x1A 0x000 f)
  | .idS _ f => some (wordB 0x1A 0x001 f)
  | .flagsRd _ f => some (wordB 0x1A 0x002 f)
  | .flagsClr _ f => some (wordB 0x1A 0x003 f)
  | .outDone _ f => some (wordB 0x1A 0x004 f)
  | _ => none

/-! ### The instruction of a word -/

/-- Integer minors with both forms (R257). -/
def intBoth (u : Cv) (x : FAB) (minor : Nat) : Option Instr :=
  match minor with
  | 0x00 => some (.intAdd u x)
  | 0x01 => some (.intSub u x)
  | 0x02 => some (.intMul u x)
  | 0x05 => some (.intMin u x)
  | 0x06 => some (.intMax u x)
  | 0x08 => some (.intAnd u x)
  | 0x09 => some (.intOr u x)
  | 0x0A => some (.intXor u x)
  | 0x0C => some (.intShl u x)
  | 0x0D => some (.intShr u x)
  | 0x20 => some (.intMov u x)
  | m => if 0x10 ≤ m then (cmpAt (m - 0x10)).map fun k => .intCmp u k x else none

/-- Integer minors with a register form (R257). -/
def intReg (u : Cv) (f : FA) (minor : Nat) : Option Instr :=
  match minor with
  | 0x03 => some (.mulhi u f)
  | 0x04 => some (.mad u f)
  | 0x0E => some (.popc u f)
  | 0x0F => some (.clz u f)
  | 0x18 => some (.sel u f)
  | 0x21 => some (.movSv u f)
  | 0x22 => some (.movVs u f)
  | 0x23 => some (.shfl u f)
  | 0x24 => some (.vote u f)
  | 0x30 => some (.pand u f)
  | 0x31 => some (.por u f)
  | 0x32 => some (.pxor u f)
  | 0x33 => some (.pnot u f)
  | m => intBoth u (.reg f) m

/-- Uniform minors with both forms (R258). -/
def uniBoth (u : Cv) (x : FAB) (minor : Nat) : Option Instr :=
  match minor with
  | 0x00 => some (.uAdd u x)
  | 0x08 => some (.uAnd u x)
  | 0x09 => some (.uOr u x)
  | 0x0A => some (.uXor u x)
  | 0x0C => some (.uShl u x)
  | 0x0D => some (.uShr u x)
  | m => if 0x10 ≤ m then (cmpAt (m - 0x10)).map fun k => .uCmp u k x else none

/-- Floating-point minors with both forms (R259). -/
def floatBoth (u : Cv) (x : FAB) (minor : Nat) : Option Instr :=
  match minor with
  | 0x00 => some (.fAdd u x)
  | 0x01 => some (.fSub u x)
  | 0x02 => some (.fMul u x)
  | 0x04 => some (.fMin u x)
  | 0x05 => some (.fMax u x)
  | m => if 0x10 ≤ m then (cmpAt (m - 0x10)).map fun k => .fCmp u k x else none

/-- Floating-point minors with a register form (R259). -/
def floatReg (u : Cv) (f : FA) (minor : Nat) : Option Instr :=
  match minor with
  | 0x03 => some (.fma u f)
  | 0x06 => some (.div u f)
  | 0x07 => some (.sqrt u f)
  | 0x08 => some (.rcp u f)
  | 0x09 => some (.rsqrt u f)
  | 0x0A => some (.exp2 u f)
  | 0x0B => some (.log2 u f)
  | 0x16 => some (.cmpUn u f)
  | m => floatBoth u (.reg f) m

/-- XS256 minors (R261). -/
def xsReg (u : Cv) (f : FA) (minor : Nat) : Option Instr :=
  match minor with
  | 0x00 => some (.xadd u f)
  | 0x01 => some (.xsub u f)
  | 0x02 => some (.xneg u f)
  | 0x03 => some (.xmov u f)
  | 0x04 => some (.xzero u f)
  | m => if 0x08 ≤ m then (cmpAt (m - 0x08)).map fun k => .xcmp u k f else none

/-- Matrix minors (R262). -/
def matrixForm (u : Cv) (f : FM) (e : Ecc) (minor : Nat) : Option Instr :=
  match minor with
  | 0 => some (.mma u f e)
  | 1 => some (.mmZero u f)
  | 2 => some (.mmLd u f e)
  | 3 => some (.mmSt u f)
  | 4 => some (.mmAdd u f)
  | _ => none

/-- Local memory minors (R266). -/
def localForm (u : Cv) (f : FX) (e : Ecc) (minor : Nat) : Option Instr :=
  match minor with
  | 0 => some (.ld u f e)
  | 1 => some (.st u f e)
  | 2 => some (.ldU u f e)
  | 3 => some (.stU u f)
  | 4 => some (.ldc u f)
  | 5 => some (.stc u f)
  | _ => none

/-- Global memory minors (R267). -/
def globalForm (u : Cv) (f : FX) (minor : Nat) : Option Instr :=
  match minor with
  | 0 => some (.ldG u f)
  | 1 => some (.stG u f)
  | _ => none

/-- Atomic minors (R268). -/
def atomicForm (u : Cv) (f : FX) (minor : Nat) : Option Instr :=
  match minor with
  | 0 => some (.atomAdd u f)
  | 1 => some (.atomFadd u f)
  | 2 => some (.atomMin u f)
  | 3 => some (.atomMax u f)
  | 4 => some (.atomMinu u f)
  | 5 => some (.atomMaxu u f)
  | 6 => some (.atomSwap u f)
  | 7 => some (.atomCas u f)
  | 8 => some (.atomXsadd u f)
  | _ => none

/-- Copy minors (R269). -/
def copyForm (u : Cv) (f : FC) (minor : Nat) : Option Instr :=
  match minor with
  | 0 => some (.copy u f)
  | 1 => some (.copyMc u f)
  | _ => none

/-- Waymark minors (R270). -/
def waymarkForm (u : Cv) (f : FB) (minor : Nat) : Option Instr :=
  match minor with
  | 0 => some (.wmAddInstr u f)
  | 1 => some (.wmSet u f)
  | 2 => some (.wmWait u f)
  | 3 => some (.wmRead u f)
  | 4 => some (.wmSignal u f)
  | _ => none

/-- Control-flow minors (R271). -/
def controlForm (u : Cv) (f : FB) (minor : Nat) : Option Instr :=
  match minor with
  | 0x00 => some (.nopI u f)
  | 0x01 => some (.bra u f)
  | 0x02 => some (.braAny u f)
  | 0x04 => some (.ifI u f)
  | 0x05 => some (.elseI u f)
  | 0x06 => some (.endif u f)
  | 0x08 => some (.loop u f)
  | 0x09 => some (.breakI u f)
  | 0x0B => some (.endloop u f)
  | 0x10 => some (.halt u f)
  | _ => none

/-- Synchronisation minors (R272). -/
def syncForm (u : Cv) (f : FB) (minor : Nat) : Option Instr :=
  match minor with
  | 0 => some (.barSync u f)
  | 1 => some (.fenceCore u f)
  | 2 => some (.fence u f)
  | _ => none

/-- Period control and identity minors (R273). -/
def identityForm (u : Cv) (f : FB) (minor : Nat) : Option Instr :=
  match minor with
  | 0 => some (.idV u f)
  | 1 => some (.idS u f)
  | 2 => some (.flagsRd u f)
  | 3 => some (.flagsClr u f)
  | 4 => some (.outDone u f)
  | _ => none

/-- The instruction that a word spells for a convoy, with what its memory accesses find; none where the opcode is reserved (R251, R255). -/
def instrOfWord (u : Cv) (e : Ecc) (w : BitVec 64) : Option Instr :=
  match (majorOf w).toNat with
  | 0x01 => intReg u (fieldsA w) (minorA w).toNat
  | 0x02 => intBoth u (.imm (fieldsB w)) (minorB w).toNat
  | 0x03 => floatReg u (fieldsA w) (minorA w).toNat
  | 0x04 => if (minorB w).toNat = 0x20 then some (.fMov u (fieldsB w)) else floatBoth u (.imm (fieldsB w)) (minorB w).toNat
  | 0x05 => if (minorA w).toNat ≤ 0xE then some (.conversion u ((minorA w).setWidth 4) (fieldsA w)) else none
  | 0x06 => if (minorA w).toNat = 1 then some (.uSub u (fieldsA w)) else if (minorA w).toNat = 2 then some (.uMul u (fieldsA w))
    else uniBoth u (.reg (fieldsA w)) (minorA w).toNat
  | 0x07 => if (minorB w).toNat = 0x0E then some (.lshi u (fieldsB w)) else uniBoth u (.imm (fieldsB w)) (minorB w).toNat
  | 0x08 => matrixForm u (fieldsM w) e (minorM w).toNat
  | 0x09 => xsReg u (fieldsA w) (minorA w).toNat
  | 0x10 => localForm u (fieldsX w) e (minorX w).toNat
  | 0x11 => globalForm u (fieldsX w) (minorX w).toNat
  | 0x12 => atomicForm u (fieldsX w) (minorX w).toNat
  | 0x13 => copyForm u (fieldsC w) (minorX w).toNat
  | 0x14 => waymarkForm u (fieldsB w) (minorB w).toNat
  | 0x18 => controlForm u (fieldsB w) (minorB w).toNat
  | 0x19 => syncForm u (fieldsB w) (minorB w).toNat
  | 0x1A => identityForm u (fieldsB w) (minorB w).toNat
  | _ => none

/-- The instructions of the loaded program: one bank in scheduled mode, both in free-run (R228, R230). -/
def State.program (s : State) (g : CoreId) : List (BitVec 64) :=
  let k := s.core g
  if (s.cluster (coreStack g) (coreCluster g)).mode = 2 then k.bankA ++ k.bankB else if k.active = 0 then k.bankA else k.bankB

/-- The instruction that a convoy issues next, with what its memory accesses find; none where the word is reserved or the program has ended,
which is ILLEGAL_INSTRUCTION's case (R247, R251; log 24). -/
def State.nextIssue (s : State) (u : Cv) (e : Ecc) : Option Instr := (s.program u.g)[(s.cv u).pc]?.bind (instrOfWord u e)

end Sys2Proof.Machine
end

