-- ==== Sys2Proof/Safety.lean ====
section
/-!
DEFINITION. What a safe run is, in the terms the claims use: memories in their one canonical form, and a step that answers a next state.
-/

namespace Sys2Proof.Machine

/-- The keys of a map rise strictly. -/
def rising {α : Type} : KMap α → Bool
  | [] => true
  | [_] => true
  | a :: b :: r => a.1 < b.1 && rising (b :: r)

/-- The canonical form of a map whose unlisted keys hold d: rising keys, and no entry that holds d. -/
def canonical {α : Type} [DecidableEq α] (d : α) (m : KMap α) : Bool := rising m && m.all fun c => c.2 ≠ d

/-- The canonical form of a memory. -/
def Memory.wf (m : Mem) : Bool := canonical Mem.blank m

/-- Both byte memories of the module, HBM3 and the memory layer, are in canonical form. -/
def State.MemOk (s : State) : Prop := Memory.wf s.hbm = true ∧ Memory.wf s.ml = true

/-- The contents of HBM3, of the memory layers and of the cores stay as they are. -/
abbrev State.sameData (s t : State) : Prop := t.hbm = s.hbm ∧ t.ml = s.ml ∧ t.cores = s.cores

/-- A control packet that passes every check at its target: on a link, one whose epoch the receiver has met, and whose codewords come through
(R413, R420, R426, R452). -/
abbrev State.hears (s : State) (a : Arr) : Prop :=
  s.on = true ∧ (s.ep a.rx).isolated = false ∧ a.intact = true ∧ a.clean = true ∧ a.h.hopDst = a.rx ∧ a.h.hopSrc = a.link ∧ a.h.target = a.rx ∧
  s.tagOk a.rx a.h.part a.h.tag = true ∧ (a.turnpike = false → (s.link a.link a.rx).stale = false ∧ s.codewordsLost a.link a.rx = false)

/-- The module once a control packet has been taken: its credits and its ring space (R431, R449). -/
abbrev State.received (s : State) (a : Arr) (op : POp) : State := (s.credited a op).freeSeg a 2

/-- A data packet that passes every check at its target, of the epoch that the receiver accepts (R447, R452). -/
abbrev State.takesData (s : State) (a : Arr) (op : POp) : Prop :=
  s.on = true ∧ (s.ep a.rx).isolated = false ∧ s.failing a op = none ∧ a.h.target = a.rx ∧
  a.h.epoch = kget false (s.ep a.rx).accEpoch (epochKey a.h.origin a.h.vc)

/-- A convoy runs in a region whose clock runs, before its period's deadline, and no remote operation has still to write one of the registers
(R40, R208, R241). -/
abbrev State.canIssue (s : State) (u : Cv) (regs : List Nat) : Prop :=
  (s.cv u).run = .running ∧ s.mayIssue u = true ∧ s.busyRegs u regs = false

/-- Convoy u has gone on to its next instruction, and nothing in the module has changed but the convoy. -/
abbrev State.went (s t : State) (u : Cv) : Prop :=
  (t.cv u).pc = (s.cv u).pc + 1 ∧ (t.cv u).run = .running ∧ (t.cv u).stack = (s.cv u).stack ∧ (t.cv u).started = (s.cv u).started ∧
  t = s.modCv u fun _ => t.cv u

/-- The lanes that a guard enables. -/
abbrev State.lit (s : State) (u : Cv) (g : Guard) (l : Fin 32) : Bool := ((s.cv u).active g).getLsbD l.val

/-- Convoy u has written thread register d in each lane that guard g enables, and nothing else. -/
abbrev State.wroteV (s t : State) (u : Cv) (g : Guard) (d : BitVec 6) (f : Fin 32 → BitVec 32) : Prop :=
  s.went t u ∧ (t.cv u).s = (s.cv u).s ∧ (t.cv u).p = (s.cv u).p ∧ (t.cv u).flags = (s.cv u).flags ∧ (t.cv u).gens = (s.cv u).gens ∧
  ∀ (l : Fin 32) (r : Fin 64), (t.cv u).vGet l r.val = if r.val = d.toNat ∧ s.lit u g l = true then f l else (s.cv u).vGet l r.val

/-- Convoy u has written predicate register d in each lane that guard g enables, and nothing else; p7 keeps reading 1 everywhere (R215). -/
abbrev State.wroteP (s t : State) (u : Cv) (g : Guard) (d : BitVec 6) (f : Fin 32 → Bool) : Prop :=
  s.went t u ∧ (t.cv u).s = (s.cv u).s ∧ (t.cv u).v = (s.cv u).v ∧ (t.cv u).flags = (s.cv u).flags ∧ (t.cv u).gens = (s.cv u).gens ∧
  ∀ (l : Fin 32) (r : Fin 8), ((t.cv u).pGet r.val).getLsbD l.val =
    if r.val = d.toNat ∧ r.val ≠ 7 ∧ s.lit u g l = true then f l else ((s.cv u).pGet r.val).getLsbD l.val

/-- Convoy u has written uniform register d when guard g enables a lane, and nothing else; register 63 keeps reading 0 (R250, R252). -/
abbrev State.wroteS (s t : State) (u : Cv) (g : Guard) (d : BitVec 6) (x : BitVec 64) : Prop :=
  s.went t u ∧ (t.cv u).v = (s.cv u).v ∧ (t.cv u).p = (s.cv u).p ∧ (t.cv u).flags = (s.cv u).flags ∧ (t.cv u).gens = (s.cv u).gens ∧
  ∀ r : Fin 64, (t.cv u).sGet (BitVec.ofNat 6 r.val) =
    if r.val = d.toNat ∧ r.val ≠ 63 ∧ (s.cv u).active g ≠ 0 then x else (s.cv u).sGet (BitVec.ofNat 6 r.val)

/-- Convoy u has written, in each lane that guard g enables, the exact result op rounded once into format F at register d, with the flags of every
lane; under stochastic rounding each lane draws once (R254, R284 to R287). -/
abbrev State.wroteF (s t : State) (u : Cv) (g : Guard) (F : Fmt) (mode : Nat) (d : BitVec 6) (op : Fin 32 → Raw × BitVec 16) : Prop :=
  let c := s.cv u
  let res (l : Fin 32) : Nat × BitVec 16 := F.result mode (c.drawIf mode l).2 (op l).1
  s.went t u ∧ (t.cv u).s = c.s ∧ (t.cv u).p = c.p ∧ (mode ≠ 5 → (t.cv u).gens = c.gens) ∧
  (t.cv u).v = ((lanesOf (c.active g)).foldl (fun k l => k.fPut F l d (res l).1) c).v ∧
  (t.cv u).flags = (lanesOf (c.active g)).foldl (fun m l => m ||| (op l).2 ||| (res l).2) c.flags

/-- Convoy u has gone on to its next instruction with its registers as they were; of the module, its core alone has changed, and of the core
its accumulator tiles, flags and generators alone. -/
abbrev State.wentTiles (s t : State) (u : Cv) : Prop :=
  (t.cv u).pc = (s.cv u).pc + 1 ∧ (t.cv u).run = .running ∧ (t.cv u).v = (s.cv u).v ∧ (t.cv u).s = (s.cv u).s ∧ (t.cv u).p = (s.cv u).p ∧
  (t.cv u).stack = (s.cv u).stack ∧ (t.core u.g).wm = (s.core u.g).wm ∧ (t.core u.g).queue = (s.core u.g).queue ∧
  (t.core u.g).cv (u.h + 1) = (s.core u.g).cv (u.h + 1)

/-- Convoy u is halted by failing flags and stays where it was; no register and no memory has changed (R244, R245, R251). -/
abbrev State.haltedBy (s t : State) (u : Cv) (fl : BitVec 16) : Prop :=
  (t.cv u).run = .haltedFlag ∧ (t.cv u).flags = (s.cv u).flags ||| fl ∧ (t.cv u).pc = (s.cv u).pc ∧ (t.cv u).v = (s.cv u).v ∧
  (t.cv u).s = (s.cv u).s ∧ (t.cv u).p = (s.cv u).p ∧ (t.cv u).stack = (s.cv u).stack ∧ (t.core u.g).tiles = (s.core u.g).tiles ∧
  (t.core u.g).wm = (s.core u.g).wm ∧ t.hbm = s.hbm ∧ t.ml = s.ml

/-- Convoy u has the program counter n and its registers, flags and predicate stack as they were; no memory has changed. -/
abbrev State.jumped (s t : State) (u : Cv) (n : Nat) : Prop :=
  (t.cv u).pc = n ∧ (t.cv u).v = (s.cv u).v ∧ (t.cv u).s = (s.cv u).s ∧ (t.cv u).p = (s.cv u).p ∧ (t.cv u).flags = (s.cv u).flags ∧
  t.hbm = s.hbm ∧ t.ml = s.ml ∧ (t.core u.g).tiles = (s.core u.g).tiles

/-- A partition whose port can write to its host, with no record waiting, room in the completion ring of a descriptor, and no other descriptor
fetched. -/
abbrev State.lone (s : State) (p : PartId) (d : DescRef) : Prop :=
  s.live p = true ∧ (s.part p).compl = [] ∧ (kget {} (s.part p).crings d.cring).room = true ∧
  ((s.part p).descs.all fun x => x.d.ring = d.ring && x.d.slot = d.slot) = true

/-- A descriptor has completed: its record stands in its slot of the completion ring in host memory, at the phase of R543, and the descriptor has
left the partition. -/
abbrev State.recorded (s t : State) (p : PartId) (d : DescRef) (status detail : Nat) (value : Nat := 0) (core : Nat := 0xFFFF) : Prop :=
  let r := kget {} (s.part p).crings d.cring
  .hostWrite (s.part p).servPort (r.base + 32 * (r.write.toNat % r.entries))
    (Compl.bytes { d, last := true, status, detail, value, core, tick := s.copyNow (s.gwOf p) } (r.write.toNat / r.entries % 2 = 0)) ∈ t.out ∧
  (t.part p).descs = [] ∧ (kget {} (t.part p).crings d.cring).write = r.write + 1

/-- A request reaches the responder, which runs, serves no other transport, knows its session if it has one, and has a connection of a state. -/
abbrev State.spdmReady (s : State) (r : SpdmReq) (need : Nat) : Prop :=
  s.spdmUp r = true ∧ s.pyhDown = false ∧ r.busy = false ∧ (r.ses.all fun i => (s.spdmOf r.x).sessions.any fun y => y.id = i) = true ∧
  need ≤ (s.spdmOf r.x).state

/-- A packet of an operation waits at an endpoint to be sent to a target. -/
abbrev State.queued (s : State) (e : EpId) (op : POp) (tgt : EpId) (p : Payload) : Bool :=
  (s.ep e).outbox.any fun x => x.op = op && x.h.target = tgt && x.p = p

/-- No packet waits in an ingress buffer, in the crossing FIFO of a region or in a slice's DMA buffer. -/
abbrev State.still (s : State) : Prop :=
  (∀ e : EpId, (s.ep e).stalled = []) ∧ (s.regions.all fun k => k.2.dma.isEmpty && k.2.rx.entries.isEmpty) = true

/-- The state in which a gateway begins to copy an image: its descriptor accepted, every HBM3 stack awake, and the partition's regions called
(R168, R340). -/
abbrev State.imageReady (s : State) (p : PartId) (n : Nat) : State :=
  forEach ((s.acceptDesc p n).stacksOf p) (fun x s => s.callStack x) (s.acceptDesc p n).wakeHbm

/-- The rational number that a finite value, or a finite exact result less its excess, stands for; 0 for the others (R275). -/
def FVal.rat : FVal → Rat
  | .fin n m e => (if n then -1 else 1) * m * 2 ^ e
  | _ => 0
def Raw.rat : Raw → Rat
  | .num n m e _ => (if n then -1 else 1) * m * 2 ^ e
  | _ => 0

/-- A finite result without an excess. -/
def Raw.exact : Raw → Bool
  | .num _ _ _ s => !s
  | .zero _ => true
  | _ => false

/-- A step goes on from a state. -/
def State.Steps (s : State) : Prop := ∃ t, step s = .next t

/-- A command answers a next state, of which P holds. -/
def Does (c : Instr) (s : State) (P : State → Prop) : Prop := ∃ t, exec c s = .next t ∧ P t

end Sys2Proof.Machine
end

