-- ==== Sys2Proof/WellFormed.lean ====
section
/-!
DEFINITION. Which commands are well formed: what their surroundings can send at all. A command that is not well formed names a link or a byte
string that does not exist; no meaning depends on this check (log 63).
-/

namespace Sys2Proof

/-- A packet arrives from another endpoint (R380). -/
def Arr.wf (a : Arr) : Bool := a.rx ≠ a.link

/-- A line is 64 bytes (R341). -/
def lineWf (d : List Byte) : Bool := d.length = 64

/-- Whether a command is well formed. -/
def Instr.wf : Instr → Bool
  | .symbolErrorCheck _ n c _ => c ≤ n
  | .trainingRepeat i j | .linkQuiet i j | .packetSend i j | .windowAuditTimer i j _ | .peerLost i j | .ackTimer i j
  | .epochHoldTimeout i j _ => i ≠ j
  | .sync a _ | .syncProbe a _ | .syncEcho a _ _ | .beacon a _ | .linkMaskDecision a _ | .linkMaskAnnouncement a _ | .ack a _
  | .atomicReply a _ _ | .credit a | .hubState a _ _ | .periodNotice a _ _ _ | .periodFail a _ _ | .pageMapEntries a _ _
  | .auditReply a _ _ _ _ _ | .load a _ | .readData a _ _ | .atomic a _ _ | .copyRead a _ _ _ _ _ _ | .copyData a _ _ | .wmAdd a _ _ _
  | .drainMarker a | .windowAudit a | .switchAnnouncement a _ _ | .switchAcceptance a _ | .faultReport a _ | .stateRecord a _ _ _ => a.wf
  | .store a _ d _ => a.wf && lineWf d
  | .cxlMemWrite _ _ _ _ d => lineWf d
  | .doorbellWake _ v => v.length = 64
  | .challenge _ _ n => n.length = 32
  | .getMeasurements _ _ sg n => !sg || n.length = 32
  | .descriptorFetch _ _ l => l.all lineWf
  | .conversion _ src _ => src ≠ 15
  | .registerWrite _ off size _ _ => off + size ≤ 0x100000
  | _ => true

end Sys2Proof
end

