-- ==== Sys2Proof/Certificates/Slice0/Obligations.lean ====
section
/-!
DEFINITION. The statements about the module, in the order of OBLIGATIONS.json. Does c s P says that command c answers a next state from s, of
which P holds.
-/

open Sys2Proof Sys2Proof.Machine

/-- MOD_PWREN accepted high in Off with the input in range brings VAON up and begins a cold start if the first frame finds every diode below 70 °C and no trip is
waited for, else the module waits for cool dies. Accepted low while the module runs, it begins the orderly shutdown; the end of the shutdown writes the waiting
entries to flash (the fatal ones alone where Pyhiet is not up) and turns the module off, and where MOD_PWREN is high again the module powers up. MOD_RESET_N low
in ready, starting or failed holds the module with its reset domain cleared and the always-on domain kept; the release begins a warm start that samples the
straps. STEWARD_SEL changed after sampling moves no steward role and is warned of once. It has a clause that concludes completion (exec answers a next state) for
each of: MOD_PWREN_ON, MOD_PWREN_OFF, ORDERLY_SHUTDOWN_DONE, MOD_RESET_ASSERT, MOD_RESET_RELEASE, STEWARD_SEL_CHANGE. (R63, R64, R65, R68, R69, R71, R72, R100,
R130, R188, R633) -/
def Obligations.PowerAndResetPins : Prop :=
  (∀ (s : State) (f : List DiodeRead), s.pw.jpower = true → s.pw.phase = .off → s.pw.input = .inRange →
      Does (.modPwrenOn f) s fun t => t.on = true ∧ t.now = 0 ∧ t.pw.pwren = true ∧ t.bt.kind = .cold ∧
      t.pw.phase = (if s.pw.waitTrip then .waitCool else if (s.readFrame f).allCool = false then .waitCool else if s.pw.resetN then .starting else .held) ∧
      t.pw.rails = (s.pw.rails || ((s.readFrame f).allCool && !s.pw.waitTrip))) ∧
  (∀ (s : State), s.pw.jpower = true → s.pw.phase.runs = true →
      Does .modPwrenOff s fun t => t.pw.pwren = false ∧ t.pw.phase = .shutdown ∧ t.bt.busy = 0 ∧ t.on = s.on ∧ t.hbm = s.hbm ∧ t.ml = s.ml) ∧
  (∀ (s : State) (f : List DiodeRead), s.pw.phase = .shutdown → s.pw.pwren = false → s.pw.tripped = false →
      Does (.orderlyShutdownDone f) s fun t => t.on = false ∧ t.pw.phase = .off ∧ t.pw.rails = false ∧
      t.evr.log = appendLog s.evr.log
      ((s.evr.fatalQ ++ (if s.pyh.up then s.evr.unflushed else [])).map fun e => .entry { e with flushed := true })) ∧
  (∀ (s : State) (f : List DiodeRead), s.pw.phase = .shutdown → s.pw.pwren = true → s.pw.input = .inRange →
      Does (.orderlyShutdownDone f) s fun t => t.on = true ∧ t.now = 0 ∧ t.bt.kind = .cold ∧
      (t.pw.phase = .waitCool ∨ t.pw.phase = (if s.pw.resetN then .starting else .held))) ∧
  (∀ (s : State), s.on = true → s.pw.phase = .ready →
      Does .modResetAssert s fun t => t.pw.phase = .held ∧ t.pw.resetN = false ∧ t.parts = [] ∧ t.cores = [] ∧ t.hbm = [] ∧ t.ml = [] ∧
      t.links = [] ∧ t.on = true ∧ t.now = s.now ∧ t.tm.offset = s.tm.offset ∧ t.tm.source = s.tm.source ∧ t.pyh.attKey = 0 ∧
      t.pyh.maintEnable = false ∧ t.th.tThr = 95 ∧ t.th.capW = 7500 ∧ t.pyh.slotA = s.pyh.slotA ∧ t.evr.log = s.evr.log) ∧
  (∀ (s : State), s.on = true → (s.pw.phase = .starting ∨ s.pw.phase = .startFailed) →
      Does .modResetAssert s fun t => t.pw.phase = .held ∧ t.bt.busy = 0 ∧ t.bt.marchOwed = s.marchOpen ∧ t.parts = [] ∧ t.hbm = [] ∧ t.on = true) ∧
  (∀ (s : State), s.on = true → s.pw.phase = .held → hasBit s.bt.busy 1 = false → (∀ p : PortId, (s.port p).perstHigh = false) →
      Does .modResetRelease s fun t => t.pw.phase = .starting ∧ t.pw.resetN = true ∧ t.bt.kind = .warm ∧ t.bt.busy = 0b100 ∧
      t.pw.steward = s.pw.selPin.toFin) ∧
  (∀ (s : State) (v : BitVec 2), s.on = true → s.pw.sampled = true → v ≠ s.pw.selPin → s.pw.selWarned = false →
      Does (.stewardSelChange v) s fun t => t.pw.selPin = v ∧ t.pw.steward = s.pw.steward ∧ t.pw.selWarned = true ∧
      t.evr = s.evr.offer s.now { code := 0x1002, sev := warn }) ∧
  (∀ (s : State) (v : BitVec 2), s.on = true → s.pw.sampled = true → s.pw.selWarned = true →
      Does (.stewardSelChange v) s fun t => t.pw.selPin = v ∧ t.pw.steward = s.pw.steward ∧ t.evr = s.evr)

/-- A low input is warned of; the shutdown threshold begins the orderly shutdown of a running module; a brown-out or overvoltage stop at 36 V or more turns every
converter but the standby rail off at once, and below 36 V the standby rail too; a module so stopped with MOD_PWREN high powers up when the input is back in
range, with a start of kind "input return" if its first frame finds it cool and no trip is waited for; J-power lost leaves the log and the firmware slots; J-power
back within 36 to 60 V puts the module in Off. It has a clause that concludes completion (exec answers a next state) for each of: INPUT_LOW_WARNING,
INPUT_LOW_SHUTDOWN, INPUT_BROWNOUT_STOP, INPUT_OVERVOLTAGE_STOP, INPUT_BACK_IN_RANGE, J_POWER_REMOVAL, J_POWER_RETURN. (R62, R95, R96) -/
def Obligations.InputPower : Prop :=
  (∀ (s : State) (cv : Nat), s.on = true → s.pw.jpower = true → s.pw.input = .inRange →
      Does (.inputLowWarning cv) s fun t => t.pw.input = .low ∧ t.pw.vinCv = cv ∧ t.pw.phase = s.pw.phase ∧
      t.evr = s.evr.offer s.now { code := 0x1007, sev := warn }) ∧
  (∀ (s : State) (cv : Nat), s.pw.jpower = true → s.pw.phase.runs = true →
      Does (.inputLowShutdown cv) s fun t => t.pw.input = .stopped ∧ t.pw.vinCv = cv ∧ t.pw.phase = .shutdown ∧ t.bt.busy = 0) ∧
  (∀ (s : State) (cv : Nat), s.pw.jpower = true → s.on = true →
      Does (.inputBrownoutStop cv) s fun t => t.on = false ∧ t.pw.rails = false ∧ t.pw.input = .stopped ∧ t.pw.jpower = decide (3600 ≤ cv) ∧
      t.pw.phase = (if cv < 3600 then .noJPower else if s.pw.pwren then .inputStopped else .off) ∧ t.hbm = [] ∧ t.parts = []) ∧
  (∀ (s : State) (cv : Nat), s.pw.jpower = true → s.on = true → 3600 ≤ cv →
      Does (.inputOvervoltageStop cv) s fun t => t.on = false ∧ t.pw.rails = false ∧ t.pw.input = .stopped ∧
      t.pw.phase = (if s.pw.pwren then .inputStopped else .off) ∧ t.hbm = [] ∧ t.parts = []) ∧
  (∀ (s : State) (cv : Nat) (f : List DiodeRead), s.pw.jpower = true → s.pw.phase = .inputStopped → s.pw.pwren = true →
      Does (.inputBackInRange cv f) s fun t => t.on = true ∧ t.bt.kind = .inputReturn ∧ t.pw.input = .inRange ∧ t.pw.vinCv = cv ∧
      t.pw.phase = (if s.pw.waitTrip then .waitCool else if (s.readFrame f).allCool = false then .waitCool else if s.pw.resetN then .starting else .held)) ∧
  (∀ (s : State),
      Does .jPowerRemoval s fun t => t.pw.phase = .noJPower ∧ t.on = false ∧ t.pw.jpower = false ∧ t.pw.pwren = false ∧ t.evr.log = s.evr.log ∧
      t.pyh.slotA = s.pyh.slotA ∧ t.pyh.slotB = s.pyh.slotB ∧ t.pyh.floor = s.pyh.floor) ∧
  (∀ (s : State) (cv : Nat), s.pw.jpower = false → 3600 ≤ cv → cv ≤ 6000 →
      Does (.jPowerReturn cv) s fun t => t.pw.jpower = true ∧ t.pw.phase = .off ∧ t.on = s.on ∧
      t.pw.input = (if 5000 ≤ cv ∧ cv ≤ 5800 then .inRange else .stopped))

/-- A coolant sample keeps both readings, and an inlet outside 0 to 70 °C is faulted with one error event; a CD above 300 W loses one percent of its power cap; an
input sample is kept, and above the input cap every powered CD loses one percent of its input-derived cap; a model update keeps the sensors' readings, and gives
an estimate from the region's last estimate, its power, its surroundings, the inlet (40 °C while the sensor is faulted) and its activity; the throttle sample
derives the compute and memory caps from the governing temperatures; a cap that takes effect is the lowest of three; an HBM3 readout below 105 °C sets its cap; an
ML region 8 °C above its sensors for 1 ms becomes suspect with one error event. It has a clause that concludes completion (exec answers a next state) for each of:
COOLANT_SAMPLE, CD_POWER_SAMPLE, INPUT_POWER_SAMPLE, THERMAL_MODEL_UPDATE, THROTTLE_SAMPLE, CAP_TAKES_EFFECT, HBM_THERMAL_SAMPLE, ML_SENSORS_SUSPECT. (R91, R103,
R104, R105, R110, R114, R117, R122) -/
def Obligations.ThermalSamples : Prop :=
  (∀ (s : State) (inlet outlet : Int), s.on = true → s.th.inletPast = [] → 0 ≤ inlet → inlet ≤ 280 →
      Does (.coolantSample inlet outlet) s fun t => t.th.inlet = inlet ∧ t.th.outlet = outlet ∧ t.th.inletFault = s.th.inletFault ∧ t.evr = s.evr) ∧
  (∀ (s : State) (inlet outlet : Int), s.on = true → s.th.inletFault = false → (inlet < 0 ∨ 280 < inlet) →
      Does (.coolantSample inlet outlet) s fun t => t.th.inletFault = true ∧ t.modelInlet = 160 ∧
      t.evr = s.evr.offer s.now { code := 0x1006, sev := err }) ∧
  (∀ (s : State) (x : StackId) (mw : Nat), s.on = true → s.cdPowered x = true → (s.site (tileOfStack x)).on = false → 300000 < mw →
      Does (.cdPowerSample x mw) s fun t => (t.stack x).cdMw = mw ∧ (t.stack x).cdCap = (s.stack x).cdCap - 1 ∧
      ∀ y, y ≠ x → t.stack y = s.stack y) ∧
  (∀ (s : State) (w cv : Nat), s.on = true → s.pw.rails = false →
      Does (.inputPowerSample w cv) s fun t => t = { s with pw := { s.pw with inW := w, vinCv := cv } }) ∧
  (∀ (s : State) (w cv : Nat) (x : StackId), s.on = true → s.cdPowered x = true → min s.th.capW (150 * cv / 100) < w →
      Does (.inputPowerSample w cv) s fun t => t.pw.inW = w ∧ t.pw.vinCv = cv ∧ (t.stack x).inCap = (s.stack x).inCap - 1) ∧
  (∀ (s : State) (c : SensorId) (v : Int), s.on = true →
      Does (.thermalModelUpdate [(c, v)] ⟨[], []⟩) s fun t => t.sens c = v ∧ t.pw = s.pw ∧ t.evr = s.evr) ∧
  (∀ (s : State) (c : SensorId) (n : Nat), s.on = true →
      Does (.thermalModelUpdate [] ⟨[], [(c, n)]⟩) s fun t =>
      t.raw c = Config.thermalModel (sensKey c) (s.raw c) (s.powerAt c) (s.around c) s.modelInlet n) ∧
  (∀ (s : State) (x : StackId) (p : RegionNo), s.on = true →
      Does .throttleSample s fun t => kget 100 t.th.caps (regionKey x p) = capPercent (s.govern x p).1 s.th.tThr ∧
      kget 100 t.th.mlCaps (regionKey x p) = capPercent (s.govern x p).2 s.th.tThr) ∧
  (∀ (s : State) (x : StackId) (p : RegionNo), s.on = true →
      Does (.capTakesEffect x p) s fun t =>
      kget 100 t.th.force (regionKey x p) = min (kget 100 s.th.caps (regionKey x p)) (min (s.stack x).cdCap (s.stack x).inCap) ∧
      kget 100 t.th.mlForce (regionKey x p) = kget 100 s.th.mlCaps (regionKey x p)) ∧
  (∀ (s : State) (h : Fin 16) (v : Int), s.on = true → s.pw.rails = true → v < 105 →
      Does (.hbmThermalSample h v) s fun t => kget 25 t.th.hbmTemp h.val = v ∧
      kget 100 (t.die (dieOfHbm h)).hbmCap (h.val % 2) = capPercent (4 * v) 90 ∧ t.pw = s.pw ∧ t.hbm = s.hbm) ∧
  (∀ (s : State) (x : StackId) (p : RegionNo) (n : Nat), s.on = true → kget false s.th.suspect (regionKey x p) = false →
      kget 0 s.th.hotSince (regionKey x p) = n + 1 → n + 1000000 ≤ s.now → 32 < s.raw (.ml x p) - s.sens (.ml x p) →
      Does (.mlSensorsSuspect x p) s fun t => kget false t.th.suspect (regionKey x p) = true ∧
      t.evr = s.evr.offer s.now { code := 0x100B, sev := err, cls := 0x09, num := regionKey x p })

/-- A VCD rail fault marks the rail and isolates its CD; a diode frame keeps a reading below 110 °C that it does not discard, and declares a pair faulted, with an
error event, at its third discard in a row; a trip records, cuts the core rails, pulls THERM_TRIP_N low, loses what the rails feed and limits the restarts after
three within 24 h; once every diode has been below 70 °C for 30 s with the input in range, the restart is counted and begins a start of its own kind. It has a
clause that concludes completion (exec answers a next state) for each of: RAIL_FAULT, DIODE_FRAME, THERMAL_TRIP, THERMAL_AUTO_RESTART. (R83, R101, R109, R126,
R127, R128, R129, R131) -/
def Obligations.TripAndRestart : Prop :=
  (∀ (s : State) (n : Fin 16), s.on = true → s.railOn 0 n.val = true → s.pw.phase = .ready → s.bt.isolated = [] →
      Does (.railFault 0 n) s fun t => (0, n.val) ∈ t.pw.railFaults ∧ (t.stack n).cdLost = true) ∧
  (∀ (s : State) (r : DiodeRead), s.on = true → hasBit s.th.diodeFault r.pair.val = false → r.quarter < 440 → kget 100 s.th.diode r.pair.val < 440 →
      s.pw.phase ≠ .waitCool →
      Does (.diodeFrame [r]) s fun t => (r.discarded = false → kget 100 t.th.diode r.pair.val = r.quarter ∧ kget 0 t.th.diodeBad r.pair.val = 0) ∧
      (r.discarded = true → kget 100 t.th.diode r.pair.val = kget 100 s.th.diode r.pair.val) ∧ t.pw = s.pw ∧ t.th.frameAt = some s.now) ∧
  (∀ (s : State) (r : DiodeRead), s.on = true → hasBit s.th.diodeFault r.pair.val = false → kget 0 s.th.diodeBad r.pair.val = 2 → s.pw.phase ≠ .waitCool →
      (r.mv < 300 ∨ 900 < r.mv) →
      Does (.diodeFrame [r]) s fun t => hasBit t.th.diodeFault r.pair.val = true ∧ t.pw = s.pw ∧
      t.evr = s.evr.offer s.now { code := 0x1005, sev := err, cls := 0x0F, num := r.pair.val }) ∧
  (∀ (s : State) (c : TripSource) (l : List TripSource), s.on = true → s.pw.tripped = false → s.pw.phase ≠ .shutdown →
      Does (.thermalTrip (c :: l)) s fun t => t.pw.tripped = true ∧ t.pw.tripPin = true ∧ t.pw.rails = false ∧ t.pw.phase = .tripped ∧
      t.bt.laserLit = 0 ∧ t.hbm = [] ∧ t.parts = [] ∧ t.on = true ∧
      t.pw.limited = (3 ≤ (s.pw.restarts.filter fun k => s.now < k + 86400000000000).length : Bool)) ∧
  (∀ (s : State), s.cool30 = true → s.pending.any Instr.isPwrenOff = false → s.pw.phase = .tripped → s.pw.limited = false → s.pw.input = .inRange →
      s.tm.tcxo = true →
      Does .thermalAutoRestart s fun t => t.pw.restarts = s.pw.restarts ++ [s.now] ∧ t.bt.kind = .thermal ∧ t.pw.tripped = false ∧
      t.pw.tripPin = false ∧ t.pw.rails = true ∧ t.pw.phase = (if s.pw.resetN then .starting else .held))

/-- A stuck line makes the module ignore the I3C bus and keep its address, with one warning, until the bus resumes; ENTDAA and SETDASA to 0x3A give an address to
a module that has none; a test instruction is taken, drives pins only while MOD_RESET_N is low, and IDCODE gives 0x1D160A5F at TDO. It has a clause that concludes
completion (exec answers a next state) for each of: I3C_STUCK_LOW, I3C_BUS_RESUME, I3C_ENTDAA, I3C_SETDASA, JTAG_INSTRUCTION. (R79, R80, R84, R85) -/
def Obligations.SidebandAndTestPins : Prop :=
  (∀ (s : State), s.on = true → s.pyh.i3cIgnored = false →
      Does .i3cStuckLow s fun t => t.pyh.i3cIgnored = true ∧ t.pyh.i3cAddr = s.pyh.i3cAddr ∧ t.evr = s.evr.offer s.now { code := 0x1004, sev := warn }) ∧
  (∀ (s : State), s.on = true →
      Does .i3cBusResume s fun t => t = { s with pyh := { s.pyh with i3cIgnored := false } }) ∧
  (∀ (s : State) (a : BitVec 7), s.on = true → s.pyh.i3cIgnored = false → s.pyh.i3cAddr = none →
      Does (.i3cEntdaa a) s fun t => t = { s with pyh := { s.pyh with i3cAddr := some a } }) ∧
  (∀ (s : State) (a : BitVec 7), s.on = true → s.pyh.i3cIgnored = false → s.pyh.i3cAddr = none →
      Does (.i3cSetdasa 0x3A a) s fun t => t = { s with pyh := { s.pyh with i3cAddr := some a } }) ∧
  (∀ (s : State) (ir : JtagIr), s.on = true → (ir = .debug → s.pyh.tempDebug = true) →
      Does (.jtagInstruction ir) s fun t => t.pyh.jtag = ir ∧ t.pw = s.pw ∧ t.hbm = s.hbm ∧
      t.pyh.extest = ((ir = .extest || ir = .pinDriving) && !s.pw.resetN) ∧ (ir = .idcode → t.out = .jtag 0x1D160A5F :: s.out))

/-- PERST_N low resets the port's gateway: link, registers, decoders, keys and requests in flight are gone, and the pins stay as they are. Training begins when
PERST_N is high and its gateway is powered, power-stable and has REFCLK; without power-stable it waits, and a port without REFCLK stays idle and is warned of
once. A function-level reset clears the link, the registers and the keys, and the link trains again. D3hot and D0 are entered; a link lost clears its width, rate
and IDE; D0 or a new link reads every doorbell line of the one partition that the port serves. IDE keys that arrive in a finished session make a port that was not
insecure secure, and an integrity failure makes a secure port insecure and records an error event. It has a clause that concludes completion (exec answers a next
state) for each of: PERST_N_ASSERT, PERST_N_DEASSERT, GATEWAY_POWER_STABLE, REFCLK_APPEAR, FUNCTION_LEVEL_RESET, POWER_STATE_CHANGE, CXL_LINK_DOWN, CXL_LINK_UP,
IDE_KEY_PROGRAM, IDE_INTEGRITY_FAILURE. (R53, R56, R57, R70, R510, R511, R512, R537, R586, R587) -/
def Obligations.PortPinsAndLinks : Prop :=
  (∀ (s : State) (t : PortId), s.on = true →
      Does (.perstNAssert t) s fun r => (r.port t).perstHigh = false ∧ (r.port t).linkUp = false ∧ (r.port t).training = false ∧ (r.port t).bars = [] ∧
      (r.port t).cfg = [] ∧ (r.port t).decoders = [] ∧ (r.port t).ide = 0 ∧ (r.port t).ideKeys = [] ∧ (r.port t).pendingReads = [] ∧
      (r.port t).doe = {} ∧ (r.port t).d3 = false ∧ (r.port t).refclk = (s.port t).refclk ∧ (r.port t).powerStable = (s.port t).powerStable) ∧
  (∀ (s : State) (t : PortId), s.on = false →
      Does (.perstNAssert t) s fun r => r = s.modPort t fun q => { q with perstHigh := false }) ∧
  (∀ (s : State) (t : PortId), s.pw.resetN = true → s.gatewayPowered t = true → (s.port t).isolated = false → (s.port t).linkUp = false →
      (s.port t).powerStable = true →
      Does (.perstNDeassert t true) s fun r => (r.port t).perstHigh = true ∧ (r.port t).training = true ∧ (r.port t).refclk = true ∧
      (∀ u, u ≠ t → r.port u = s.port u) ∧ r.evr = s.evr ∧ s.sameData r) ∧
  (∀ (s : State) (t : PortId), s.on = true → s.pw.resetN = true → (s.port t).isolated = false → (s.port t).linkUp = false → (s.port t).clkWarned = false →
      Does (.perstNDeassert t false) s fun r => (r.port t).perstHigh = true ∧ (r.port t).idleNoClk = true ∧ (r.port t).clkWarned = true ∧
      (r.port t).training = false ∧ s.sameData r ∧ r.evr = s.evr.offer s.now { code := 0x1001, sev := warn, cls := 0x06, num := 24 + t.val }) ∧
  (∀ (s : State) (t : PortId), s.on = true → s.pw.resetN = true → (s.port t).isolated = false → (s.port t).linkUp = false → (s.port t).powerStable = false →
      Does (.perstNDeassert t true) s fun r => (r.port t).perstHigh = true ∧ (r.port t).trainPending = true ∧ (r.port t).training = (s.port t).training ∧
      s.sameData r ∧ r.evr = s.evr) ∧
  (∀ (s : State) (t : PortId), s.pw.pwren = true → s.pw.resetN = true → s.gatewayPowered t = true → (s.port t).isolated = false → (s.port t).linkUp = false →
      (s.port t).perstHigh = true → (s.port t).refclk = true →
      Does (.gatewayPowerStable t) s fun r => (r.port t).powerStable = true ∧ (r.port t).training = true ∧ (r.port t).trainPending = false ∧ s.sameData r) ∧
  (∀ (s : State) (t : PortId), s.pw.resetN = true → s.gatewayPowered t = true → (s.port t).isolated = false → (s.port t).linkUp = false →
      (s.port t).perstHigh = true → (s.port t).powerStable = true →
      Does (.refclkAppear t) s fun r => (r.port t).refclk = true ∧ (r.port t).training = true ∧ (r.port t).idleNoClk = false ∧ s.sameData r) ∧
  (∀ (s : State) (t : PortId), s.on = true → (s.port t).linkUp = true →
      Does (.functionLevelReset t) s fun r => (r.port t).linkUp = false ∧ (r.port t).perstHigh = (s.port t).perstHigh ∧ (r.port t).bars = [] ∧
      (r.port t).cfg = [] ∧ (r.port t).decoders = [] ∧ (r.port t).ide = 0 ∧ (r.port t).ideKeys = [] ∧ (r.port t).doe = {}) ∧
  (∀ (s : State) (t : PortId), s.pw.resetN = true → s.gatewayPowered t = true → (s.port t).isolated = false → (s.port t).linkUp = true →
      (s.port t).perstHigh = true → (s.port t).powerStable = true → (s.port t).refclk = true → s.servedBy t = [] → (s.port t).pendingReads = [] → s.ops = [] →
      s.ptmOn t = false →
      Does (.functionLevelReset t) s fun r => (r.port t).linkUp = false ∧ (r.port t).training = true ∧ (r.port t).bars = [] ∧
      (r.port t).decoders = [] ∧ (r.port t).ideKeys = []) ∧
  (∀ (s : State) (t : PortId), s.on = true → (s.port t).linkUp = true → (s.port t).d3 = false →
      Does (.powerStateChange t true) s fun r => (r.port t).d3 = true) ∧
  (∀ (s : State) (t : PortId), s.on = true → (s.port t).linkUp = true → (s.port t).d3 = true → s.servedBy t = [] →
      Does (.powerStateChange t false) s fun r => r = s.modPort t fun q => { q with d3 := false }) ∧
  (∀ (s : State) (t : PortId) (p : PartId), s.on = true → (s.port t).linkUp = true → (s.port t).d3 = true → s.servedBy t = [p] →
      Does (.powerStateChange t false) s fun r => (r.port t).d3 = false ∧ (r.part p).resync = true ∧ (r.part p).lostLines = 0xFF ∧
      (r.part p).wakeAt = some s.now ∧ (r.part p).rings = (s.part p).rings ∧ s.sameData r ∧ (∀ l : Fin 8, .lineRead t p l ∈ r.out)) ∧
  (∀ (s : State) (t : PortId), (s.port t).linkUp = true →
      Does (.cxlLinkDown t) s fun r => (r.port t).linkUp = false ∧ (r.port t).cxlWidth = 0 ∧ (r.port t).cxlRate = 0 ∧ (r.port t).ide = 0) ∧
  (∀ (s : State) (t : PortId) (width rate : Nat), s.on = true → (s.port t).training = true → (s.port t).linkUp = false → s.servedBy t = [] →
      Does (.cxlLinkUp t width rate) s fun r =>
      r = s.modPort t fun q => { q with linkUp := true, training := false, cxlWidth := width, cxlRate := rate, ide := 0 }) ∧
  (∀ (s : State) (t : PortId) (width rate : Nat) (p : PartId), s.on = true → (s.port t).training = true → (s.port t).linkUp = false → s.servedBy t = [p] →
      Does (.cxlLinkUp t width rate) s fun r => (r.port t).linkUp = true ∧ (r.part p).resync = true ∧ (r.part p).wakeAt = some s.now ∧
      ∀ l : Fin 8, .lineRead t p l ∈ r.out) ∧
  (∀ (s : State) (t : PortId) (keys : List Byte), s.on = true → (s.port t).linkUp = true → (s.port t).doe.sessions.any (·.finished) = true →
      (s.port t).ide ≠ 2 →
      Does (.ideKeyProgram t keys) s fun r => r = s.modPort t fun q => { q with ide := 1, ideKeys := keys }) ∧
  (∀ (s : State) (t : PortId), s.on = true → (s.port t).linkUp = true → (s.port t).ide = 1 → s.servedBy t = [] → s.ptmOn t = false →
      Does (.ideIntegrityFailure t) s fun r => (r.port t).ide = 2 ∧ (r.port t).linkUp = true ∧ s.sameData r ∧
      r.evr = s.evr.offer s.now { code := 0xC006, sev := err, cls := 0x06, num := 24 + t.val })

/-- A configuration read answers the dword and changes nothing else; a write to a BAR keeps the bits its size allows; a decoder is committed with one interleave
way and refused with more; a CXL.mem access that its decoders and its partition allow joins the operations of its gateway; a read that has taken 100 µs answers
poisoned data, whose bytes the spec leaves open. It has a clause that concludes completion (exec answers a next state) for each of: CONFIG_REQUEST,
HDM_DECODER_COMMIT, CXL_MEM_READ, CXL_MEM_WRITE, CXL_MEM_READ_TIMEOUT, CDAT_READ. (R507, R508, R509, R516, R517, R519) -/
def Obligations.HostAccess : Prop :=
  (∀ (s : State) (t : PortId) (v : BitVec 32), s.on = true → (s.port t).linkUp = true →
      Does (.configRequest t { dword := 0, write := false, value := v }) s fun r => r = s.emit (.cfg t (some 0xD1601DB0))) ∧
  (∀ (s : State) (t : PortId) (v : BitVec 32), s.on = true → (s.port t).linkUp = true →
      Does (.configRequest t { dword := 4, write := true, value := v }) s fun r => r.cfgRead t 4 = (v &&& 0xFFF00000) ||| 0x4 ∧
      (∀ u, u ≠ t → r.port u = s.port u) ∧ s.sameData r ∧ r.parts = s.parts) ∧
  (∀ (s : State) (t : PortId) (n : Fin 4) (base size skip : BitVec 64), s.on = true → (s.port t).linkUp = true →
      Does (.hdmDecoderCommit t n base size skip 1) s fun r =>
      kget {} (r.port t).decoders n.val = { committed := true, base, size, skip } ∧ s.sameData r ∧ r.parts = s.parts) ∧
  (∀ (s : State) (t : PortId) (n : Fin 4) (base size skip : BitVec 64) (ways : Nat), s.on = true → (s.port t).linkUp = true → ways ≠ 1 →
      Does (.hdmDecoderCommit t n base size skip ways) s fun r => (kget {} (r.port t).decoders n.val).committed = false ∧
      (kget {} (r.port t).decoders n.val).error = true ∧ s.sameData r ∧ r.parts = s.parts) ∧
  (∀ (s : State) (t : PortId) (tag dpa : Nat) (hpa : BitVec 64) (p : PartId), s.on = true → s.hostUp t = true →
      (dpaOf ((List.range 4).map fun n => kget {} (s.port t).decoders n) 0 hpa.toNat = some dpa) → dpa < 2 ^ 45 → dpa / 2 ^ 41 = p.val →
      (s.part p).block = .committed → (s.part p).servPort = t →
      Does (.cxlMemRead t tag hpa) s fun r => r = (s.addOp
      { kind := .load, issuer := .mem t tag, snd := gwEp t, part := p, addr := BitVec.ofNat 48 (dpa % 2 ^ 41 / 64 * 64), payload := .none }).pump) ∧
  (∀ (s : State) (t : PortId) (tag dpa : Nat) (hpa be : BitVec 64) (d : List Byte) (p : PartId), s.on = true → s.hostUp t = true →
      (dpaOf ((List.range 4).map fun n => kget {} (s.port t).decoders n) 0 hpa.toNat = some dpa) → dpa < 2 ^ 45 → dpa / 2 ^ 41 = p.val →
      (s.part p).block = .committed → (s.part p).servPort = t →
      Does (.cxlMemWrite t tag hpa be d) s fun r => r = (s.addOp
      { kind := .store, issuer := .mem t tag, snd := gwEp t, part := p, addr := BitVec.ofNat 48 (dpa % 2 ^ 41 / 64 * 64), payload := .store be (slice d 0 64) }).pump) ∧
  (∀ (s : State) (t : PortId) (tag : Nat) (hpa : BitVec 64), s.on = true → s.hostUp t = true →
      (dpaOf ((List.range 4).map fun n => kget {} (s.port t).decoders n) 0 hpa.toNat = none) →
      Does (.cxlMemRead t tag hpa) s fun r => r = s) ∧
  (∀ (s : State) (t : PortId) (tag f : Nat) (o : RemOp), s.ops = [o] → o.issuer = .mem t tag → o.kind = .load → o.first = some f →
      f + 100000 ≤ s.copyNow (gwEp t) →
      Does (.cxlMemReadTimeout t tag) s fun r => Output.memData t tag (s.freeBytes 64) true ∈ r.out ∧ r.free = s.free + 64 ∧ r.hbm = s.hbm ∧ r.ml = s.ml) ∧
  (∀ (s : State) (t : PortId), s.on = true → s.hostUp t = true →
      Does (.cdatRead t) s fun r => r = s.emit (.cdat t (Config.standardBytes 2 [0, 2 ^ 45, 1000, 800, 100, 100])))

/-- A compute die whose FIFOs are calibrated returns to service with its endpoint unless its tile is isolated; a port die returns with its UCIe modules, which
must all match their entries and train; an open site is isolated no more and its rail fault is cleared; a die that was isolated twice within an hour stays out.
When an endpoint's controller fails, a valid standby takes over at once with an error event, and without one the endpoint is isolated as a loss of its die. It has
a clause that concludes completion (exec answers a next state) for each of: DIE_RETURN_TO_SERVICE, CONTROLLER_FAIL. (R191, R192, R470, R471, R496, R498) -/
def Obligations.DieReturnAndTakeover : Prop :=
  (∀ (s : State) (x : StackId) (r : StepResult), s.on = true → (0x01, x.val) ∈ s.bt.isolated → (0x01, x.val) ∉ s.bt.stayOut →
      (0x03, x.val / 4) ∉ s.bt.isolated → r.checks = [] →
      Does (.dieReturnToService ⟨.cd x, r⟩) s fun u => (0x01, x.val) ∉ u.bt.isolated ∧ (u.stack x).cdLost = false ∧
      (u.ep (stackEp x)).isolated = false ∧ (0, x.val) ∉ u.pw.railFaults ∧ u.hbm = s.hbm) ∧
  (∀ (s : State) (k : Fin 8) (r : StepResult), s.on = true → (0x04, 16 + k.val) ∈ s.bt.isolated → (0x04, 16 + k.val) ∉ s.bt.stayOut →
      s.partnerUp r (.mp k) = true → r.checks = [] →
      Does (.dieReturnToService ⟨.mp k, r⟩) s fun u => (0x04, 16 + k.val) ∉ u.bt.isolated ∧ (u.die k).lost = false ∧ (u.ep (dieEp k)).isolated = false ∧
      (∀ m ∈ modulesOf (.mp k), (u.ucieMod m).up = true) ∧ s.sameData u) ∧
  (∀ (s : State) (t : TileId) (r : StepResult), s.on = true → (0x0C, t.val) ∈ s.bt.isolated → (0x0C, t.val) ∉ s.bt.stayOut → r.checks = [] →
      Does (.dieReturnToService ⟨.site t, r⟩) s fun u => (0x0C, t.val) ∉ u.bt.isolated ∧ (8, t.val) ∉ u.pw.railFaults ∧ s.sameData u) ∧
  (∀ (s : State) (d : DieId) (r : StepResult), s.on = true → dieClass d ∈ s.bt.stayOut →
      Does (.dieReturnToService ⟨d, r⟩) s fun u => u = s) ∧
  (∀ (s : State) (e : EpId), s.on = true → (s.ep e).isolated = false → (s.ep e).standbyOk = true →
      Does (.controllerFail e) s fun r => (r.ep e).ctlB = !(s.ep e).ctlB ∧ (r.ep e).ctlDead = putBit (s.ep e).ctlDead (b2n (s.ep e).ctlB) true ∧
      (r.ep e).standbyOk = false ∧ (r.ep e).isolated = false ∧ (r.ep e).delta = (s.ep e).delta ∧ s.sameData r ∧
      r.evr = s.evr.offer s.now { code := 0x9002, sev := err, cls := 0x08, num := e.val, detail := BitVec.ofNat 96 (b2n (s.ep e).ctlB) }) ∧
  (∀ (s : State) (e : EpId), s.on = true → (s.ep e).isolated = false → (s.ep e).standbyOk = false →
      Does (.controllerFail e) s fun r => (r.ep e).isolated = true ∧ dieClass (dieOfEp e) ∈ r.bt.isolated)

/-- An edge of PPS_IN after a good interval counts toward the three that qualify it, and one after a shorter interval disqualifies a qualified input with a
warning, as does 3 s without an edge. On the selected port a PTM dialogue that is not answered within 2 µs is no sample and counts as failed; an accepted sample
within 10 µs steers by at most 20 ppm in all and leaves the offset and the master count as they are (how far it steers is a free value, log 50); a sample further
off sets the offset afresh, with a warning. After 100 ms of failed dialogues the lock holds over with a warning. It has a clause that concludes completion (exec
answers a next state) for each of: PPS_EDGE, PPS_TIMEOUT, PTM_DIALOGUE, LOCK_SOURCE_LOST. (R77, R78, R148, R149, R150, R151) -/
def Obligations.ReferenceSamples : Prop :=
  (∀ (s : State) (l : Nat) (rate : Int), s.on = true → s.tm.source ≠ 5 → s.tm.ppsLast = some l → 500000000 ≤ s.now - l → s.now - l ≤ 3000000000 →
      Does (.ppsEdge rate) s fun t =>
      t = { s with tm := { s.tm with ppsGood := s.tm.ppsGood + 1, ppsLast := some s.now, ppsOk := s.tm.ppsOk || 3 ≤ s.tm.ppsGood + 1 } }) ∧
  (∀ (s : State) (l : Nat) (rate : Int), s.on = true → s.tm.source ≠ 5 → s.tm.ppsOk = true → s.tm.ppsLast = some l → s.now < l + 500000000 →
      Does (.ppsEdge rate) s fun t => t.tm.ppsOk = false ∧ t.tm.ppsGood = 0 ∧ t.tm.ppsLast = some s.now ∧ t.tm.lock = s.tm.lock ∧
      t.evr = s.evr.offer s.now { code := 0x1003, sev := warn } ∧ s.sameData t) ∧
  (∀ (s : State) (l : Nat), s.on = true → s.tm.ppsOk = true → s.tm.source ≠ 5 → s.tm.ppsLast = some l → l + 3000000000 ≤ s.now →
      Does .ppsTimeout s fun t => t.tm.ppsOk = false ∧ t.tm.ppsGood = 0 ∧ t.evr = s.evr.offer s.now { code := 0x1003, sev := warn } ∧ s.sameData t) ∧
  (∀ (s : State) (t : PortId) (d : Ptm), s.on = true → s.tm.source.toNat = t.val + 1 → (s.port t).linkUp = true → s.tm.ptmAt + 10000000 ≤ s.now →
      s.tm.tcxo = true → (d.answered = false ∨ 2000 < d.roundTripNs) →
      Does (.ptmDialogue t d) s fun r =>
      r = { s with tm := { s.tm with ptmAt := s.now, ptmValid := false, ptmFail := some (s.tm.ptmFail.getD s.now) } }) ∧
  (∀ (s : State) (t : PortId) (d : Ptm), s.on = true → s.tm.source.toNat = t.val + 1 → (s.port t).linkUp = true → s.tm.ptmAt + 10000000 ≤ s.now →
      s.tm.tcxo = true → d.answered = true → d.roundTripNs ≤ 2000 → d.rateMilliPpm.natAbs ≤ 20000 → s.tm.locked1 = true →
      (d.refNs - (s.now + s.tm.offset)).natAbs ≤ 10000 →
      Does (.ptmDialogue t d) s fun r => r.tm.phaseErr = d.refNs - (s.now + s.tm.offset) ∧ r.tm.steer.natAbs ≤ 20000 ∧ r.tm.offset = s.tm.offset ∧
      r.tm.ptmValid = true ∧ r.now = s.now ∧ r.free = s.free + 1 ∧ (s.tm.lock = .locked → r.tm.lock = .locked) ∧ r.evr = s.evr ∧ s.sameData r) ∧
  (∀ (s : State) (t : PortId) (d : Ptm), s.on = true → s.tm.source.toNat = t.val + 1 → (s.port t).linkUp = true → s.tm.ptmAt + 10000000 ≤ s.now →
      s.tm.tcxo = true → d.answered = true → d.roundTripNs ≤ 2000 → d.rateMilliPpm.natAbs ≤ 20000 → s.tm.locked1 = true →
      10000 < (d.refNs - (s.now + s.tm.offset)).natAbs →
      Does (.ptmDialogue t d) s fun r => r.tm.offset = d.refNs - s.now ∧ r.tm.lock = .acquire ∧ r.tm.inBand = 0 ∧ r.now = s.now ∧ s.sameData r ∧
      r.evr = s.evr.offer s.now { code := 0x2006, sev := warn, detail := BitVec.ofInt 96 (d.refNs - (s.now + s.tm.offset)) }) ∧
  (∀ (s : State) (f : Nat), s.on = true → (s.tm.lock = .locked ∨ s.tm.lock = .acquire) → s.tm.ptmFail = some f → f + 100000000 ≤ s.now →
      Does .lockSourceLost s fun t => t.tm = { s.tm with lock := .holdover, inBand := 0 } ∧ s.sameData t ∧
      t.evr = s.evr.offer s.now { code := 0x2005, sev := warn })

/-- Hub 28 takes its own count, once in 1,000 ticks, and sends it to the 31 other endpoints. A sync reaches a hub, port die or gateway endpoint whose delay is
known as count plus delay: the first one loads its copy; a copy more than 8 ticks behind jumps at once with an error event; one that is ahead by one tick holds
for a tick without an event. Without a delay the endpoint sends a probe, which is answered with both ticks, and half the round trip becomes the delay. After 100
µs without a sync the endpoint warns once. It has a clause that concludes completion (exec answers a next state) for each of: SYNC_SEND, SYNC, SYNC_PROBE,
SYNC_ECHO, SYNC_HOLDOVER_WARNING. (R137, R141, R142, R145, R146) -/
def Obligations.SyncCopies : Prop :=
  (∀ (s : State), s.on = true → (s.ep 28).isolated = false → (s.ep 28).lastSync + 1000 ≤ s.now → (s.ep 28).holdWarned = false → s.copyNow 28 = s.now →
      0 ≤ (s.ep 28).delta →
      Does .syncSend s fun t => (t.ep 28).synced = true ∧ (t.ep 28).delta = 0 ∧ (t.ep 28).corr = 0 ∧ (t.ep 28).lastSync = s.now ∧
      (t.ep 28).outbox.length = (s.ep 28).outbox.length + 31 ∧ s.sameData t ∧ (∀ e, e ≠ 28 → t.ep e = s.ep e)) ∧
  (∀ (s : State) (a : Arr) (count d : Nat), s.hears a → a.turnpike = true → (s.ep a.rx).delay = some d → (s.ep a.rx).synced = false →
      (s.ep a.rx).holdWarned = false → 16 ≤ a.rx.val →
      Does (.sync a count) s fun t => (t.ep a.rx).synced = true ∧ (t.ep a.rx).delta = (s.ep a.rx).delta + ((count + d : Nat) - (s.copyNow a.rx : Int)) ∧
      (t.ep a.rx).corr = 0 ∧ (t.ep a.rx).lastSync = s.now ∧ t.now = s.now ∧ s.sameData t ∧ t.evr = s.evr) ∧
  (∀ (s : State) (a : Arr) (count d : Nat), s.hears a → a.turnpike = true → (s.ep a.rx).delay = some d → (s.ep a.rx).synced = true →
      (s.ep a.rx).holdWarned = false → 16 ≤ a.rx.val → s.copyNow a.rx + 8 < count + d →
      Does (.sync a count) s fun t => (t.ep a.rx).delta = (s.ep a.rx).delta + ((count + d : Nat) - (s.copyNow a.rx : Int)) ∧ (t.ep a.rx).corr = 0 ∧
      t.evr = s.evr.offer s.now
      { code := 0x2002, sev := err, cls := 0x08, num := a.rx.val, detail := BitVec.ofInt 96 ((count + d : Nat) - (s.copyNow a.rx : Int)) } ∧ s.sameData t) ∧
  (∀ (s : State) (a : Arr) (count d : Nat), s.hears a → a.turnpike = true → (s.ep a.rx).delay = some d → (s.ep a.rx).synced = true →
      (s.ep a.rx).holdWarned = false → 16 ≤ a.rx.val → s.copyNow a.rx = count + d + 1 →
      Does (.sync a count) s fun t => (t.ep a.rx).delta = (s.ep a.rx).delta ∧ (t.ep a.rx).corr = -1 ∧ t.evr = s.evr ∧ s.sameData t) ∧
  (∀ (s : State) (a : Arr) (count : Nat), s.hears a → a.turnpike = true → (s.ep a.rx).delay = none →
      Does (.sync a count) s fun t => t = (s.received a .sync).sendCtl a.rx 28 .syncProbe (.probe (s.copyNow a.rx))) ∧
  (∀ (s : State) (a : Arr) (k : Nat), s.hears a → a.turnpike = true →
      Does (.syncProbe a k) s fun t => t = (s.received a .syncProbe).sendCtl a.rx a.h.origin .syncEcho (.echo k (s.copyNow a.rx))) ∧
  (∀ (s : State) (a : Arr) (t1 t2 : Nat), s.hears a →
      Does (.syncEcho a t1 t2) s fun t => (t.ep a.rx).delay = some ((s.copyNow a.rx - t1) / 2) ∧ (t.ep a.rx).delta = (s.ep a.rx).delta ∧
      t.now = s.now ∧ s.sameData t) ∧
  (∀ (s : State) (e : EpId), s.on = true → (s.ep e).synced = true → (s.ep e).holdWarned = false → (s.ep e).lastSync + 100000 ≤ s.now →
      Does (.syncHoldoverWarning e) s fun t => t.ep e = { s.ep e with holdWarned := true } ∧ s.sameData t ∧ (∀ d, d ≠ e → t.ep d = s.ep d) ∧
      t.evr = s.evr.offer s.now { code := 0x2003, sev := warn, cls := 0x08, num := e.val })

/-- A droop stretches a mapped region's cycle until the next margin sample, which keeps the margin with the clock it was measured at; a margin below 4 % at 0.90 V
off the mesh lowers the highest frequency by 50 MHz with a warning. A failed oscillator moves its region to the mesh with an error event; a failed mesh without
users is recorded; an open site whose clock is lost is isolated. Without the TCXO every die outside the always-on domain is lost while time runs on; its return is
noted, and the relock of the master PLL begins the start. It has a clause that concludes completion (exec answers a next state) for each of: DROOP_STRETCH,
REPLICA_MARGIN_SAMPLE, FIXED_CLOCK_LOSS, REGION_OSCILLATOR_FAILURE, MESH_CLOCK_FAILURE, TCXO_LOSS, TCXO_RETURN, MASTER_PLL_RELOCK. (R155, R156, R157, R162, R163,
R164, R166, R172) -/
def Obligations.ClockMonitors : Prop :=
  (∀ (s : State) (x : StackId) (p : RegionNo), s.running x p = true → s.meshNow x p = false →
      Does (.droopStretch x p) s fun t => t.region x p = { s.region x p with stretching := true } ∧ t.evr = s.evr ∧ s.sameData t) ∧
  (∀ (s : State) (x : StackId) (p : RegionNo) (m f : Int) (l : List Int), s.running x p = true → l.foldl min f = m → (4000 ≤ m ∨ (s.region x p).vcd ≠ 900) →
      Does (.replicaMarginSample x p f l) s fun t =>
      t.region x p = { s.region x p with margin := m, marginAt := ((s.region x p).mhz, (s.region x p).vcd), stretching := false } ∧ t.evr = s.evr ∧
      s.sameData t) ∧
  (∀ (s : State) (x : StackId) (p : RegionNo) (m f : Int) (l : List Int), s.running x p = true → l.foldl min f = m → s.meshNow x p = false → m < 4000 →
      (s.region x p).vcd = 900 → 1550 ≤ (s.region x p).maxMhz →
      Does (.replicaMarginSample x p f l) s fun t => (t.region x p).maxMhz = (s.region x p).maxMhz - 50 ∧ (t.region x p).margin = m ∧
      s.sameData t ∧ t.evr = s.evr.offer s.now { code := 0x2008, sev := warn, cls := 0x09, num := regionKey x p }) ∧
  (∀ (s : State) (t : TileId), s.on = true → s.pw.rails = true → s.pw.phase = .ready → s.ops = [] →
      Does (.fixedClockLoss (.site t)) s fun r => (r.site t).isolated = true ∧ (0x0C, t.val) ∈ r.bt.isolated ∧ s.sameData r) ∧
  (∀ (s : State) (x : StackId) (p : RegionNo), s.running x p = true → s.meshNow x p = false → s.partOfStack x = none → (s.stack x).meshLost = false →
      Does (.regionOscillatorFailure x p) s fun t => (t.region x p).onMesh = true ∧ (t.region x p).mhz = 1200 ∧ (t.region x p).vcd = 850 ∧ s.sameData t ∧
      t.evr = s.evr.offer s.now { code := 0x200A, sev := err, cls := 0x09, num := regionKey x p }) ∧
  (∀ (s : State) (x : StackId), s.on = true → s.pw.rails = true → (∀ p : RegionNo, s.meshNow x p = false) →
      Does (.meshClockFailure x) s fun t => t.regions = s.regions ∧ (t.stack x).meshLost = true ∧ s.sameData t ∧
      t.evr = s.evr.offer s.now { code := 0x200B, sev := err, cls := 0x01, num := x.val }) ∧
  (∀ (s : State), s.on = true → s.tm.tcxo = true → s.pw.phase = .ready →
      Does .tcxoLoss s fun t => t.tm.tcxo = false ∧ t.tm.lock = .holdover ∧ t.pw.phase = .tcxoLost ∧ t.pw.rails = false ∧ t.hbm = [] ∧ t.ml = [] ∧
      t.cores = [] ∧ t.parts = [] ∧ t.now = s.now ∧ t.on = true ∧ t.bt.laserLit = 0) ∧
  (∀ (s : State), s.on = true → s.tm.tcxo = false → s.tm.tcxoStay = false →
      Does .tcxoReturn s fun t => t = { s with tm := { s.tm with tcxo := true } }) ∧
  (∀ (s : State), s.pw.phase = .tcxoLost → s.tm.tcxo = true → s.tm.tcxoStay = false →
      Does .masterPllRelock s fun t => t.bt.kind = .refReturn ∧ t.pw.rails = true ∧ t.pw.phase = (if s.pw.resetN then .starting else .held) ∧ t.now = s.now)

/-- A mapped region without work, traffic or clear for 10 µs, of a stack in no partition, stops its clock; after 1 ms it ramps down; an arrival during the ramp is
remembered; the ramp ends with the region off or, where an arrival came, awake and under a clear. A region whose clock is stopped wakes at once; one whose
vertical links fail stays off, with an error event. It has a clause that concludes completion (exec answers a next state) for each of: REGION_CLOCK_STOP,
REGION_POWER_OFF, REGION_WAKE, POWER_OFF_RAMP_DONE. (R167, R169, R170, R494) -/
def Obligations.RegionSleep : Prop :=
  (∀ (s : State) (x : StackId) (p : RegionNo), s.running x p = true → (∀ c, s.logOf x p = some c → s.clusterBusy x c = false) → s.trafficFor x p = false →
      s.partOfStack x = none → (s.region x p).clearing = false → (s.region x p).lastUse + 10000 ≤ s.now →
      Does (.regionClockStop x p) s fun t => (t.region x p).depth = .clockStopped ∧ (t.region x p).mhz = 0 ∧ (t.region x p).stopAt = s.now ∧
      t.cores = s.cores ∧ t.ml = s.ml) ∧
  (∀ (s : State) (x : StackId) (p : RegionNo), s.on = true → (s.region x p).depth = .clockStopped → (s.region x p).stopAt + 1000000 ≤ s.now →
      s.partOfStack x = none → (s.region x p).arrived = false → s.trafficFor x p = false →
      Does (.regionPowerOff x p) s fun t => (t.region x p).depth = .ramping ∧ (t.region x p).arrived = false ∧ s.sameData t) ∧
  (∀ (s : State) (x : StackId) (p : RegionNo), (s.region x p).arrived = true ∨ s.trafficFor x p = true →
      Does (.regionPowerOff x p) s fun t => t = s) ∧
  (∀ (s : State) (x : StackId) (p : RegionNo) (c : WakeCheck), s.mayWake x p = true → (s.region x p).depth = .ramping →
      Does (.regionWake x p c) s fun t => t.region x p = { s.region x p with arrived := true } ∧ s.sameData t) ∧
  (∀ (s : State) (x : StackId) (p : RegionNo) (c : WakeCheck), s.mayWake x p = true → (s.region x p).depth = .clockStopped → (s.ep (stackEp x)).stalled = [] →
      (s.region x p).rx.entries = [] → (s.region x p).dma = [] →
      Does (.regionWake x p c) s fun t => (t.region x p).depth = .awake ∧ (t.region x p).lastUse = s.now) ∧
  (∀ (s : State) (x : StackId) (p : RegionNo) (c : WakeCheck), s.mayWake x p = true → (s.region x p).depth = .poweredOff → (s.region x p).wakeFailed = false →
      c.prbsErrors ≠ 0 → s.partOfStack x = none →
      Does (.regionWake x p c) s fun t => (t.region x p).depth = .poweredOff ∧ (t.region x p).wakeFailed = true ∧ s.sameData t ∧
      t.evr = s.evr.offer s.now { code := 0xA001, sev := err, cls := 0x09, num := regionKey x p }) ∧
  (∀ (s : State) (x : StackId) (p : RegionNo) (c : WakeCheck), (s.region x p).depth = .ramping → (s.region x p).arrived = false → s.logOf x p = none →
      Does (.powerOffRampDone x p c) s fun t => (t.region x p).depth = .poweredOff ∧ s.sameData t) ∧
  (∀ (s : State) (x : StackId) (p : RegionNo) (c : WakeCheck), (s.region x p).depth = .ramping → (s.region x p).arrived = true →
      (s.region x p).wakeFailed = false → s.logOf x p = none → c.prbsErrors = 0 →
      Does (.powerOffRampDone x p c) s fun t => (t.region x p).depth = .awake ∧ (t.region x p).clearing = true ∧ (t.region x p).arrived = false)

/-- A step that may repeat and whose first attempt leaves failed elements keeps that attempt and repeats; the end of step 1 begins step 2; step 3 fails the start
without a good identity; step 4 lights the lasers; the end of step 11 makes the module ready with every endpoint synchronised. An endpoint in service queues a
beacon for each of its 31 peers; a beacon ends the lost state of its sender and counts from now; an endpoint not heard for 3,000 ticks is held lost, and its
acknowledgements are forgotten, while the other 30 stay as they were. It has a clause that concludes completion (exec answers a next state) for each of:
STARTUP_STEP_END, BEACON_SEND, BEACON, PEER_LOST. (R173, R175, R199, R386, R421) -/
def Obligations.StartupAndBeacons : Prop :=
  (∀ (s : State) (k : Fin 12) (r : StepResult), s.pw.phase = .starting → hasBit s.bt.busy k.val = true → hasBit s.bt.repeated k.val = false →
      s.stepFailed r k.val = true → k ∈ ([5, 6, 8, 9, 10] : List (Fin 12)) →
      Does (.startupStepEnd k r) s fun t =>
      t = { s with bt := { s.bt with repeated := putBit s.bt.repeated k.val true, firstTry := s.bt.firstTry ++ [(k.val, r)] } }) ∧
  (∀ (s : State) (r : StepResult), s.pw.phase = .starting → hasBit s.bt.busy 1 = true → s.bt.firstTry = [] → r.tiles = [] →
      Does (.startupStepEnd 1 r) s fun t => hasBit t.bt.ended 1 = true ∧ hasBit t.bt.busy 1 = false ∧
      (hasBit s.bt.ended 2 = false → hasBit t.bt.busy 2 = true) ∧ t.pw.phase = .starting ∧ s.sameData t) ∧
  (∀ (s : State) (r : StepResult), s.pw.phase = .starting → hasBit s.bt.busy 3 = true → s.bt.firstTry = [] → r.tiles = [] → r.identityOk = false →
      Does (.startupStepEnd 3 r) s fun t => t.pw.phase = .startFailed ∧ t.pw.failed = true ∧ t.bt.failStep = 3 ∧ t.bt.busy = 0 ∧ s.sameData t) ∧
  (∀ (s : State) (r : StepResult), s.pw.phase = .starting → hasBit s.bt.busy 4 = true → s.bt.firstTry = [] → r.tiles = [] →
      Does (.startupStepEnd 4 r) s fun t => (∀ q : TileId, hasBit t.bt.laserLit q.val = !s.pw.railFaults.contains (4, q.val)) ∧ hasBit t.bt.ended 4 = true ∧ hasBit t.bt.busy 4 = false ∧ t.pw = s.pw ∧ s.sameData t) ∧
  (∀ (s : State) (r : StepResult), s.pw.phase = .starting → hasBit s.bt.busy 11 = true → s.bt.firstTry = [] → r.tiles = [] →
      Does (.startupStepEnd 11 r) s fun t => t.pw.phase = .ready ∧ t.pw.failed = false ∧ t.bt.busy = 0 ∧ t.groups = 0 ∧ t.holder = 0 ∧
      (∀ e : EpId, (t.ep e).synced = true ∧ (t.ep e).delta = 0 ∧ (t.ep e).lastSync = s.now) ∧ t.cores = s.cores) ∧
  (∀ (s : State) (e : EpId), s.on = true → s.pw.phase = .ready → (s.ep e).inService = true → (s.ep e).isolated = false →
      Does (.beaconSend e) s fun t => (t.ep e).outbox.length = (s.ep e).outbox.length + 31 ∧ s.sameData t ∧ (∀ d, d ≠ e → t.ep d = s.ep d)) ∧
  (∀ (s : State) (a : Arr) (k : BitVec 8), s.hears a →
      Does (.beacon a k) s fun t => hasBit (t.ep a.rx).lost a.h.origin.val = false ∧ kget 0 (t.ep a.rx).lastBeacon a.h.origin.val = s.now ∧
      (t.ep a.rx).delta = (s.ep a.rx).delta ∧ s.sameData t) ∧
  (∀ (s : State) (e o : EpId), s.on = true → s.pw.phase = .ready → e ≠ o → (s.ep e).isolated = false → hasBit (s.ep e).lost o.val = false →
      kget 0 (s.ep e).lastBeacon o.val + 3000 ≤ s.now → s.ops = [] →
      Does (.peerLost e o) s fun t => hasBit (t.ep e).lost o.val = true ∧ kget {} (t.ep e).acks o.val = ({} : AckState) ∧
      (∀ d, d ≠ e → d ≠ o → hasBit (t.ep e).lost d.val = hasBit (s.ep e).lost d.val) ∧ s.sameData t)

/-- A page command from another port is ignored with a warning, once a second. The steward's command for no pages ends with status 5; one that passes the checks
of the loader is in progress and offered as a batch of its records; the loader accepts the first batch for a tick 2,000 ticks later; PAGE_MAP_ENTRIES keeps its
records at a hub; at the update tick every replica that is not in reset holds the batch's record. It has a clause that concludes completion (exec answers a next
state) for each of: PAGE_ASSIGN, PAGE_RELEASE, PAGE_MAP_BATCH_ACCEPT, PAGE_MAP_ENTRIES, PAGE_MAP_UPDATE_TICK. (R356, R428, R520, R526, R643) -/
def Obligations.PageCommands : Prop :=
  (∀ (s : State) (t : PortId) (p : PartId) (first count : BitVec 21), s.barUp t = true → t ≠ s.pw.steward → (s.port t).refuseTick = none →
      Does (.pageAssign t p first count) s fun r => r.parts = s.parts ∧ r.pm = s.pm ∧ (r.port t).refuseTick = some s.now ∧ s.sameData r ∧
      r.evr = s.evr.offer s.now { code := 0xE003, sev := warn, cls := 0x06, num := 24 + t.val, detail := writeDetail t (blockOff p 0x58) }) ∧
  (∀ (s : State) (t : PortId) (p : PartId) (first : BitVec 21), s.barUp t = true → t = s.pw.steward → (s.part p).block = .configuring →
      (s.part p).abandoning = false → (s.part p).pageSt ≠ 1 →
      Does (.pageAssign t p first 0) s fun r => (r.part p).pageSt = 5 ∧ (r.part p).pageApplied = 0 ∧ r.pm = s.pm ∧ s.sameData r) ∧
  (∀ (s : State) (t : PortId) (p : PartId) (first count : BitVec 21) (recs : List (Nat × BitVec 64)), s.barUp t = true → t = s.pw.steward →
      (s.part p).block = .configuring ∨ (s.part p).block = .committed → (s.part p).abandoning = false → (s.part p).pageSt ≠ 1 → s.loaderDown = false →
      0 < count.toNat ∧ count.toNat ≤ 2 ^ 20 ∧ first.toNat + count.toNat ≤ 2 ^ 21 → s.pageCheck p false first.toNat count.toNat = .ok recs →
      0 < recs.length ∧ recs.length ≤ 4096 →
      Does (.pageAssign t p first count) s fun r => (r.part p).pageSt = 1 ∧ r.pm.accepted = s.pm.accepted ∧ s.sameData r ∧
      r.pm.waiting = s.pm.waiting ++ [{ src := .page p false true, flip := false, recs }]) ∧
  (∀ (s : State) (t : PortId) (p : PartId) (first count : BitVec 21) (recs : List (Nat × BitVec 64)), s.barUp t = true → t = s.pw.steward →
      (s.part p).block = .configuring ∨ (s.part p).block = .committed → (s.part p).abandoning = false → (s.part p).pageSt ≠ 1 → s.loaderDown = false →
      0 < count.toNat ∧ count.toNat ≤ 2 ^ 20 ∧ first.toNat + count.toNat ≤ 2 ^ 21 → s.pageCheck p true first.toNat count.toNat = .ok recs →
      0 < recs.length ∧ recs.length ≤ 4096 →
      Does (.pageRelease t p first count) s fun r => (r.part p).pageSt = 1 ∧ r.pm.accepted = s.pm.accepted ∧ s.sameData r ∧
      r.pm.waiting = s.pm.waiting ++ [{ src := .page p true true, flip := false, recs }]) ∧
  (∀ (s : State) (b : Batch) (l : List Batch) (p : PartId) (last : Bool), s.on = true → s.loaderDown = false → s.pm.lastAccept = none → s.pm.waiting = b :: l →
      b.src = .auto p last →
      Does .pageMapBatchAccept s fun t => t.pm.waiting = l ∧ t.pm.accepted = s.pm.accepted ++ [{ b with u := some (s.now + 2000) }] ∧
      t.pm.lastAccept = some s.now ∧ t.pm.rep0 = s.pm.rep0 ∧ s.sameData t) ∧
  (∀ (s : State) (a : Arr) (u : Nat) (recs : List (Nat × BitVec 64)), s.hears a →
      Does (.pageMapEntries a u recs) s fun t => (t.ep a.rx).mapRecs = (s.ep a.rx).mapRecs ++ recs.map (fun r => (u, r.1, r.2)) ∧ t.pm = s.pm ∧
      s.sameData t) ∧
  (∀ (s : State) (n u : Nat) (e : BitVec 64) (p : PartId) (l : List Batch) (k : TileId),
      s.pm.accepted = { src := .auto p false, flip := false, recs := [(n, e)], u := some u } :: l → u ≤ s.now → hasBit s.pm.repDown k.val = false →
      Does .pageMapUpdateTick s fun t => kget 0 (t.pm.rep k) n = e ∧ t.pm.accepted = l ∧ s.sameData t ∧ t.parts = s.parts)

/-- At the end of its quarantine a frame reads as zeros and is free, and no other byte changes; an HBM3 stack that no partition needs and that has had no access
for 1 ms enters self-refresh; a rebuilt frame table follows the loader's replica and the quarantine; a reset tile's replica becomes the copy of tile 0's. It has a
clause that concludes completion (exec answers a next state) for each of: QUARANTINE_END, HBM_SELF_REFRESH_ENTRY, FRAME_TABLE_REBUILT, PAGE_MAP_COPY_DONE. (R190,
R340, R348, R358) -/
def Obligations.FramesAndReplicas : Prop :=
  (∀ (s : State) (f key : Nat), ((s.pm.quar.any fun q => q.1 = f && q.2.1 ≤ s.now) = true) →
      Does (.quarantineEnd f) s fun t => t.pm.frame f = .free ∧ t.ml = s.ml ∧ t.parts = s.parts ∧
      memGet t.hbm key = if keyInFrame (layoutClass (kget 0 s.pm.layouts (f / 16))) f key then 0 else memGet s.hbm key) ∧
  (∀ (s : State) (h : Fin 16), s.on = true → ((s.parts.any fun c => c.2.kernel.isSome || (c.2.bundle.isSome && c.2.work ≠ .stopped)) = false) →
      kget 0 (s.die (dieOfHbm h)).lastAccess (h.val % 2) + 1000000 ≤ s.now →
      Does (.hbmSelfRefreshEntry h) s fun t => hasBit (t.die (dieOfHbm h)).selfRef (h.val % 2) = true ∧ s.sameData t ∧ t.pm = s.pm) ∧
  (∀ (s : State), s.pm.rebuilding = true → hasBit s.pm.repDown 0 = false → s.pyh.bindWait = [] →
      Does .frameTableRebuilt s fun t => t = { s with pm := { s.pm.rebuild (s.pm.rep (s.servTile 28)) with rebuilding := false } }) ∧
  (∀ (s : State) (t : TileId), s.on = true → t ≠ 0 → hasBit s.pm.copying t.val = true → hasBit s.pm.repDown 0 = false →
      Does (.pageMapCopyDone t) s fun r => r.pm.rep t = s.pm.rep 0 ∧ hasBit r.pm.copying t.val = false ∧ hasBit r.pm.repDown t.val = false ∧
      r.pm.rep 0 = s.pm.rep 0 ∧ s.sameData r)

/-- A commit whose first failing check is st leaves the block configuring with that status; one that passes locks the block, with the rings of its table and an
idle partition; once its regions are awake and cleared it ends with status done and the first heartbeat; a due heartbeat is written with the next sequence; a
resync reads all eight lines again. It has a clause that concludes completion (exec answers a next state) for each of: COMMIT, COMMIT_DONE, HEARTBEAT_WRITE,
DOORBELL_RESYNC. (R201, R524, R525, R530, R640, R641) -/
def Obligations.PartitionCommit : Prop :=
  (∀ (s : State) (t : PortId) (p : PartId) (table : List Byte) (st : BitVec 8), s.barUp t = true → t = s.pw.steward → (s.part p).block = .configuring →
      (s.part p).abandoning = false → s.stewardMoves = false → s.commitCheck p table (s.takenBefore p) = some st →
      Does (.commit t p table) s fun r => r = s.modPart p fun b => { b with commitSt := st }) ∧
  (∀ (s : State) (t : PortId) (p : PartId) (table : List Byte) (rs : KMap Ring × KMap CRing), s.barUp t = true → t = s.pw.steward →
      (s.part p).block = .configuring → (s.part p).abandoning = false → s.stewardMoves = false → s.commitCheck p table (s.takenBefore p) = none →
      ringTable table = some rs → s.still →
      Does (.commit t p table) s fun r => (r.part p).block = .committed ∧ (r.part p).commitSt = 1 ∧ (r.part p).work = .idle ∧ (r.part p).cause = 0 ∧
      (r.part p).rings = rs.1 ∧ (r.part p).crings = rs.2 ∧ (r.part p).lostLines = 0xFF ∧ (r.part p).shape = (s.part p).shape ∧ r.hbm = s.hbm) ∧
  (∀ (s : State) (p : PartId) (r1 r2 : StepResult), (s.part p).block = .committed → (s.part p).commitSt = 1 → s.hostUp (s.part p).servPort = true →
      s.allAwake p = true → (∀ x ∈ s.stacksOf p, ∀ q : RegionNo, (s.region x q).wakeFailed = false) →
      Does (.commitDone ⟨p, r1, r2⟩) s fun r => (r.part p).commitSt = 2 ∧ (r.part p).hbSeq = (s.part p).hbSeq + 1 ∧ (r.part p).block = .committed ∧ r.hbm = s.hbm ∧
      r.ml = s.ml) ∧
  (∀ (s : State) (p : PartId), s.on = true → (s.part p).block = .committed → (s.part p).commitSt = 2 → (s.part p).hbNext ≤ s.copyNow (s.gwOf p) →
      s.hostUp (s.part p).servPort = true →
      Does (.heartbeatWrite p) s fun r => (r.part p).hbSeq = (s.part p).hbSeq + 1 ∧ (r.part p).hbNext = s.copyNow (s.gwOf p) + 100000 ∧
      (r.part p).work = (s.part p).work ∧ s.sameData r ∧ r.out = .hostWrite (s.part p).servPort (s.part p).heartbeat.toNat
      (s.beatBytes p ((s.part p).hbSeq + 1) (workCode (s.part p).work) (s.causeOf p)) :: s.out) ∧
  (∀ (s : State) (t : PortId) (p : PartId), s.barUp t = true → t = (s.part p).servPort → (s.part p).block = .committed →
      Does (.doorbellResync t p) s fun r => (r.part p).lostLines = 0xFF ∧ (r.part p).wakeAt = some s.now ∧ (r.part p).rings = (s.part p).rings ∧
      s.sameData r ∧ (∀ l : Fin 8, Output.lineRead t p l ∈ r.out))

/-- An abandoned block without pages is free at once, and one with a page command in progress waits for it; a teardown with a page command in progress waits for
it, and else stops the partition and drops its bundle, kernel and seals; its end frees the block; a restart of a stopped partition drops its work and takes its
stacks into reset; its end leaves the partition idle, or stopped with cause 8 where a stack of it is left out or away; a restart of a block that is not committed
changes no partition and is recorded. It has a clause that concludes completion (exec answers a next state) for each of: ABANDON, TEARDOWN, TEARDOWN_DONE,
PARTITION_RESTART, PARTITION_RESTART_DONE. (R200, R520, R522, R527, R641, R646) -/
def Obligations.PartitionEnds : Prop :=
  (∀ (s : State) (t : PortId) (p : PartId), s.barUp t = true → t = s.pw.steward → (s.part p).block = .configuring → (s.part p).abandoning = false →
      (s.part p).pageSt ≠ 1 → s.pagesOf p = [] →
      Does (.abandon t p) s fun r => r.part p = {} ∧ (∀ q, q ≠ p → r.part q = s.part q) ∧ s.sameData r ∧ r.pm = s.pm) ∧
  (∀ (s : State) (t : PortId) (p : PartId), s.barUp t = true → t = s.pw.steward → (s.part p).block = .configuring → (s.part p).abandoning = false →
      (s.part p).pageSt = 1 →
      Does (.abandon t p) s fun r => r = s.modPart p fun b => { b with abandoning := true }) ∧
  (∀ (s : State) (t : PortId) (p : PartId), s.barUp t = true → t = s.pw.steward → (s.part p).block = .committed → (s.part p).tearStep = 0 →
      (s.part p).pageSt = 1 →
      Does (.teardown t p) s fun r => r = s.modPart p fun b => { b with tearStep := 1 }) ∧
  (∀ (s : State) (t : PortId) (p : PartId), s.barUp t = true → t = s.pw.steward → (s.part p).block = .committed → (s.part p).tearStep = 0 →
      (s.part p).pageSt ≠ 1 →
      Does (.teardown t p) s fun r => (r.part p).block = .tearing ∧ (r.part p).work = .stopped ∧ (r.part p).bundle = none ∧ (r.part p).kernel = none ∧
      (r.part p).sealing = []) ∧
  (∀ (s : State) (p : PartId), (s.part p).block = .tearing → (s.part p).tearStep = 4 →
      Does (.teardownDone p) s fun r => r.part p = {} ∧ (∀ q, q ≠ p → r.part q = s.part q) ∧ s.sameData r ∧ r.pm = s.pm) ∧
  (∀ (s : State) (t : PortId) (p : PartId), s.barUp t = true → (t = s.pw.steward ∨ t = (s.part p).servPort) → (s.part p).block = .committed →
      (s.part p).work = .stopped → s.tearsNow p = false →
      Does (.partitionRestart t p) s fun r => (r.part p).work = .resetting ∧ (r.part p).bundle = none ∧ (r.part p).kernel = none ∧
      (r.part p).descs = [] ∧ (r.part p).runs = [] ∧ (r.part p).block = .committed ∧ (∀ x ∈ s.stacksOf p, (r.stack x).cdLost = true)) ∧
  (∀ (s : State) (t : PortId) (p : PartId), s.barUp t = true → t = s.pw.steward → (s.part p).block ≠ .committed →
      Does (.partitionRestart t p) s fun r => r.parts = s.parts ∧ r.stks = s.stks ∧ s.sameData r ∧
      r.evr = s.evr.offer s.now { code := 0xE005, sev := warn, cls := 0x06, num := 24 + t.val, detail := writeDetail t (blockOff p 0x08) }) ∧
  (∀ (s : State) (p : PartId) (r1 r2 : StepResult), (s.part p).block = .committed → (s.part p).work = .resetting →
      (((s.stacksOf p).any fun x => (s.ep (stackEp x)).inService && !(s.ep (stackEp x)).synced) = false) →
      Does (.partitionRestartDone p ⟨r1, r2⟩) s fun r => (r.part p).block = .committed ∧ r.hbm = s.hbm ∧ r.ml = s.ml ∧
      if ∃ x ∈ s.stacksOf p, ((r.stack x).oos || (r.stack x).cdLost || (r.stack x).mlLost) = true
      then (r.part p).work = .stopped ∧ (r.part p).cause = 8 else (r.part p).work = .idle ∧ (r.part p).cause = 0)

/-- In each lane that the guard enables the destination takes the result of the register and of the immediate form: sum, difference, product and multiply-add
modulo 2^32, or clamped to the type under Saturate; the high half of the product; the lesser and the greater value; the bitwise result; the shift by the low five
bits of the count; the number of ones or of leading zeros; the source that the predicate selects; the value moved from a register, an immediate or a uniform
register; or the value of the lane that the count names. Every other lane and register, the flags and the rest of the module stay as they are, and the convoy goes
on. It has a clause that concludes completion (exec answers a next state) for each of: INT_ADD, INT_SUB, INT_MUL, MULHI, MAD, INT_MIN, INT_MAX, INT_AND, INT_OR,
INT_XOR, INT_SHL, INT_SHR, POPC, CLZ, SEL, INT_MOV, MOV_SV, SHFL. (R251, R252, R256, R257, R278) -/
def Obligations.IntegerInstructions : Prop :=
  (∀ (s : State) (u : Cv) (f : FA), okInt f (mdU2 ||| mdUns ||| mdSat) = true → f.mods.getLsbD 7 = false → s.canIssue u (intRegs f) →
      Does (.intAdd u (.reg f)) s fun t => s.wroteV t u f.gd f.dest fun l =>
      (s.cv u).vGet l f.src1.toNat + (s.cv u).src2 f l) ∧
  (∀ (s : State) (u : Cv) (f : FA), okInt f (mdU2 ||| mdUns ||| mdSat) = true → f.mods.getLsbD 7 = true → f.mods.getLsbD 8 = false → s.canIssue u (intRegs f) →
      Does (.intAdd u (.reg f)) s fun t => s.wroteV t u f.gd f.dest fun l =>
      BitVec.ofInt 32 (max (-2147483648) (min (((s.cv u).vGet l f.src1.toNat).toInt + ((s.cv u).src2 f l).toInt) 2147483647))) ∧
  (∀ (s : State) (u : Cv) (f : FA), okInt f (mdU2 ||| mdUns ||| mdSat) = true → f.mods.getLsbD 7 = true → f.mods.getLsbD 8 = true → s.canIssue u (intRegs f) →
      Does (.intAdd u (.reg f)) s fun t => s.wroteV t u f.gd f.dest fun l =>
      BitVec.ofInt 32 (max 0 (min ((((s.cv u).vGet l f.src1.toNat).toNat : Int) + ((s.cv u).src2 f l).toNat) 4294967295))) ∧
  (∀ (s : State) (u : Cv) (f : FB), okIntImm f false = true → s.canIssue u [f.dest.toNat, f.src1.toNat] →
      Does (.intAdd u (.imm f)) s fun t => s.wroteV t u f.gd f.dest fun l =>
      (s.cv u).vGet l f.src1.toNat + f.imm.signExtend 32) ∧
  (∀ (s : State) (u : Cv) (f : FA), okInt f (mdU2 ||| mdUns ||| mdSat) = true → f.mods.getLsbD 7 = false → s.canIssue u (intRegs f) →
      Does (.intSub u (.reg f)) s fun t => s.wroteV t u f.gd f.dest fun l =>
      (s.cv u).vGet l f.src1.toNat - (s.cv u).src2 f l) ∧
  (∀ (s : State) (u : Cv) (f : FA), okInt f (mdU2 ||| mdUns ||| mdSat) = true → f.mods.getLsbD 7 = true → f.mods.getLsbD 8 = false → s.canIssue u (intRegs f) →
      Does (.intSub u (.reg f)) s fun t => s.wroteV t u f.gd f.dest fun l =>
      BitVec.ofInt 32 (max (-2147483648) (min (((s.cv u).vGet l f.src1.toNat).toInt - ((s.cv u).src2 f l).toInt) 2147483647))) ∧
  (∀ (s : State) (u : Cv) (f : FA), okInt f (mdU2 ||| mdUns ||| mdSat) = true → f.mods.getLsbD 7 = true → f.mods.getLsbD 8 = true → s.canIssue u (intRegs f) →
      Does (.intSub u (.reg f)) s fun t => s.wroteV t u f.gd f.dest fun l =>
      BitVec.ofInt 32 (max 0 (min ((((s.cv u).vGet l f.src1.toNat).toNat : Int) - ((s.cv u).src2 f l).toNat) 4294967295))) ∧
  (∀ (s : State) (u : Cv) (f : FB), okIntImm f false = true → s.canIssue u [f.dest.toNat, f.src1.toNat] →
      Does (.intSub u (.imm f)) s fun t => s.wroteV t u f.gd f.dest fun l =>
      (s.cv u).vGet l f.src1.toNat - f.imm.signExtend 32) ∧
  (∀ (s : State) (u : Cv) (f : FA), okInt f (mdU2 ||| mdUns) = true → s.canIssue u (intRegs f) →
      Does (.intMul u (.reg f)) s fun t => s.wroteV t u f.gd f.dest fun l =>
      (s.cv u).vGet l f.src1.toNat * (s.cv u).src2 f l) ∧
  (∀ (s : State) (u : Cv) (f : FB), okIntImm f false = true → s.canIssue u [f.dest.toNat, f.src1.toNat] →
      Does (.intMul u (.imm f)) s fun t => s.wroteV t u f.gd f.dest fun l =>
      (s.cv u).vGet l f.src1.toNat * f.imm.signExtend 32) ∧
  (∀ (s : State) (u : Cv) (f : FA), okInt f (mdU2 ||| mdUns) = true → f.mods.getLsbD 8 = false → s.canIssue u (intRegs f) →
      Does (.mulhi u f) s fun t => s.wroteV t u f.gd f.dest fun l =>
      BitVec.ofInt 32 (((s.cv u).vGet l f.src1.toNat).toInt * ((s.cv u).src2 f l).toInt / 4294967296)) ∧
  (∀ (s : State) (u : Cv) (f : FA), okInt f (mdU2 ||| mdUns) = true → f.mods.getLsbD 8 = true → s.canIssue u (intRegs f) →
      Does (.mulhi u f) s fun t => s.wroteV t u f.gd f.dest fun l =>
      BitVec.ofNat 32 (((s.cv u).vGet l f.src1.toNat).toNat * ((s.cv u).src2 f l).toNat / 4294967296)) ∧
  (∀ (s : State) (u : Cv) (f : FA), okInt f (mdU2 ||| mdUns ||| mdSat) true = true → f.mods.getLsbD 7 = false → s.canIssue u (f.src3.toNat :: intRegs f) →
      Does (.mad u f) s fun t => s.wroteV t u f.gd f.dest fun l =>
      (s.cv u).vGet l f.src1.toNat * (s.cv u).src2 f l + (s.cv u).vGet l f.src3.toNat) ∧
  (∀ (s : State) (u : Cv) (f : FA), okInt f (mdU2 ||| mdUns ||| mdSat) true = true → f.mods.getLsbD 7 = true → f.mods.getLsbD 8 = false →
      s.canIssue u (f.src3.toNat :: intRegs f) →
      Does (.mad u f) s fun t => s.wroteV t u f.gd f.dest fun l => BitVec.ofInt 32 (max (-2147483648)
      (min (((s.cv u).vGet l f.src1.toNat).toInt * ((s.cv u).src2 f l).toInt + ((s.cv u).vGet l f.src3.toNat).toInt) 2147483647))) ∧
  (∀ (s : State) (u : Cv) (f : FA), okInt f (mdU2 ||| mdUns ||| mdSat) true = true → f.mods.getLsbD 7 = true → f.mods.getLsbD 8 = true →
      s.canIssue u (f.src3.toNat :: intRegs f) →
      Does (.mad u f) s fun t => s.wroteV t u f.gd f.dest fun l =>
      BitVec.ofNat 32 (min (((s.cv u).vGet l f.src1.toNat).toNat * ((s.cv u).src2 f l).toNat + ((s.cv u).vGet l f.src3.toNat).toNat) 4294967295)) ∧
  (∀ (s : State) (u : Cv) (f : FA), okInt f (mdU2 ||| mdUns) = true → f.mods.getLsbD 8 = false → s.canIssue u (intRegs f) →
      Does (.intMin u (.reg f)) s fun t => s.wroteV t u f.gd f.dest fun l =>
      if ((s.cv u).src2 f l).toInt < ((s.cv u).vGet l f.src1.toNat).toInt then (s.cv u).src2 f l else (s.cv u).vGet l f.src1.toNat) ∧
  (∀ (s : State) (u : Cv) (f : FA), okInt f (mdU2 ||| mdUns) = true → f.mods.getLsbD 8 = true → s.canIssue u (intRegs f) →
      Does (.intMin u (.reg f)) s fun t => s.wroteV t u f.gd f.dest fun l =>
      if ((s.cv u).src2 f l).toNat < ((s.cv u).vGet l f.src1.toNat).toNat then (s.cv u).src2 f l else (s.cv u).vGet l f.src1.toNat) ∧
  (∀ (s : State) (u : Cv) (f : FB), okIntImm f false = true → s.canIssue u [f.dest.toNat, f.src1.toNat] →
      Does (.intMin u (.imm f)) s fun t => s.wroteV t u f.gd f.dest fun l =>
      if (f.imm.signExtend 32).toInt < ((s.cv u).vGet l f.src1.toNat).toInt then f.imm.signExtend 32 else (s.cv u).vGet l f.src1.toNat) ∧
  (∀ (s : State) (u : Cv) (f : FA), okInt f (mdU2 ||| mdUns) = true → f.mods.getLsbD 8 = false → s.canIssue u (intRegs f) →
      Does (.intMax u (.reg f)) s fun t => s.wroteV t u f.gd f.dest fun l =>
      if ((s.cv u).vGet l f.src1.toNat).toInt < ((s.cv u).src2 f l).toInt then (s.cv u).src2 f l else (s.cv u).vGet l f.src1.toNat) ∧
  (∀ (s : State) (u : Cv) (f : FA), okInt f (mdU2 ||| mdUns) = true → f.mods.getLsbD 8 = true → s.canIssue u (intRegs f) →
      Does (.intMax u (.reg f)) s fun t => s.wroteV t u f.gd f.dest fun l =>
      if ((s.cv u).vGet l f.src1.toNat).toNat < ((s.cv u).src2 f l).toNat then (s.cv u).src2 f l else (s.cv u).vGet l f.src1.toNat) ∧
  (∀ (s : State) (u : Cv) (f : FB), okIntImm f false = true → s.canIssue u [f.dest.toNat, f.src1.toNat] →
      Does (.intMax u (.imm f)) s fun t => s.wroteV t u f.gd f.dest fun l =>
      if ((s.cv u).vGet l f.src1.toNat).toInt < (f.imm.signExtend 32).toInt then f.imm.signExtend 32 else (s.cv u).vGet l f.src1.toNat) ∧
  (∀ (s : State) (u : Cv) (f : FA), okInt f mdU2 = true → s.canIssue u (intRegs f) →
      Does (.intAnd u (.reg f)) s fun t => s.wroteV t u f.gd f.dest fun l =>
      (s.cv u).vGet l f.src1.toNat &&& (s.cv u).src2 f l) ∧
  (∀ (s : State) (u : Cv) (f : FB), okIntImm f false = true → s.canIssue u [f.dest.toNat, f.src1.toNat] →
      Does (.intAnd u (.imm f)) s fun t => s.wroteV t u f.gd f.dest fun l =>
      (s.cv u).vGet l f.src1.toNat &&& f.imm.signExtend 32) ∧
  (∀ (s : State) (u : Cv) (f : FA), okInt f mdU2 = true → s.canIssue u (intRegs f) →
      Does (.intOr u (.reg f)) s fun t => s.wroteV t u f.gd f.dest fun l =>
      (s.cv u).vGet l f.src1.toNat ||| (s.cv u).src2 f l) ∧
  (∀ (s : State) (u : Cv) (f : FB), okIntImm f false = true → s.canIssue u [f.dest.toNat, f.src1.toNat] →
      Does (.intOr u (.imm f)) s fun t => s.wroteV t u f.gd f.dest fun l =>
      (s.cv u).vGet l f.src1.toNat ||| f.imm.signExtend 32) ∧
  (∀ (s : State) (u : Cv) (f : FA), okInt f mdU2 = true → s.canIssue u (intRegs f) →
      Does (.intXor u (.reg f)) s fun t => s.wroteV t u f.gd f.dest fun l =>
      (s.cv u).vGet l f.src1.toNat ^^^ (s.cv u).src2 f l) ∧
  (∀ (s : State) (u : Cv) (f : FB), okIntImm f false = true → s.canIssue u [f.dest.toNat, f.src1.toNat] →
      Does (.intXor u (.imm f)) s fun t => s.wroteV t u f.gd f.dest fun l =>
      (s.cv u).vGet l f.src1.toNat ^^^ f.imm.signExtend 32) ∧
  (∀ (s : State) (u : Cv) (f : FA), okInt f mdU2 = true → s.canIssue u (intRegs f) →
      Does (.intShl u (.reg f)) s fun t => s.wroteV t u f.gd f.dest fun l =>
      (s.cv u).vGet l f.src1.toNat <<< (((s.cv u).src2 f l).toNat % 32)) ∧
  (∀ (s : State) (u : Cv) (f : FB), okIntImm f true = true → s.canIssue u [f.dest.toNat, f.src1.toNat] →
      Does (.intShl u (.imm f)) s fun t => s.wroteV t u f.gd f.dest fun l =>
      (s.cv u).vGet l f.src1.toNat <<< f.imm.toNat) ∧
  (∀ (s : State) (u : Cv) (f : FA), okInt f (mdU2 ||| mdUns) = true → f.mods.getLsbD 8 = false → s.canIssue u (intRegs f) →
      Does (.intShr u (.reg f)) s fun t => s.wroteV t u f.gd f.dest fun l =>
      ((s.cv u).vGet l f.src1.toNat).sshiftRight (((s.cv u).src2 f l).toNat % 32)) ∧
  (∀ (s : State) (u : Cv) (f : FA), okInt f (mdU2 ||| mdUns) = true → f.mods.getLsbD 8 = true → s.canIssue u (intRegs f) →
      Does (.intShr u (.reg f)) s fun t => s.wroteV t u f.gd f.dest fun l =>
      (s.cv u).vGet l f.src1.toNat >>> (((s.cv u).src2 f l).toNat % 32)) ∧
  (∀ (s : State) (u : Cv) (f : FB), okIntImm f true = true → s.canIssue u [f.dest.toNat, f.src1.toNat] →
      Does (.intShr u (.imm f)) s fun t => s.wroteV t u f.gd f.dest fun l =>
      ((s.cv u).vGet l f.src1.toNat).sshiftRight f.imm.toNat) ∧
  (∀ (s : State) (u : Cv) (f : FA), (okInt f 0 && f.src2 = 0) = true → s.canIssue u ([f.dest.toNat, f.src1.toNat]) →
      Does (.popc u f) s fun t => s.wroteV t u f.gd f.dest fun l =>
      BitVec.ofNat 32 ((List.range 32).filter fun i => ((s.cv u).vGet l f.src1.toNat).getLsbD i).length) ∧
  (∀ (s : State) (u : Cv) (f : FA), (okInt f 0 && f.src2 = 0) = true → s.canIssue u [f.dest.toNat, f.src1.toNat] →
      Does (.clz u f) s fun t => s.wroteV t u f.gd f.dest fun l =>
      if (s.cv u).vGet l f.src1.toNat = 0 then 32 else BitVec.ofNat 32 (31 - Nat.log2 ((s.cv u).vGet l f.src1.toNat).toNat)) ∧
  (∀ (s : State) (u : Cv) (f : FA), (okInt f mdU2 true && okP f.src3) = true → s.canIssue u (intRegs f) →
      Does (.sel u f) s fun t => s.wroteV t u f.gd f.dest fun l =>
      if ((s.cv u).pGet f.src3.toNat).getLsbD l.val then (s.cv u).vGet l f.src1.toNat else (s.cv u).src2 f l) ∧
  (∀ (s : State) (u : Cv) (f : FA), (okInt f 0 && f.src2 = 0) = true → s.canIssue u ([f.dest.toNat, f.src1.toNat]) →
      Does (.intMov u (.reg f)) s fun t => s.wroteV t u f.gd f.dest fun l =>
      (s.cv u).vGet l f.src1.toNat) ∧
  (∀ (s : State) (u : Cv) (f : FB), (okIntImm f false && f.src1 = 0) = true → s.canIssue u [f.dest.toNat] →
      Does (.intMov u (.imm f)) s fun t => s.wroteV t u f.gd f.dest fun _ => f.imm.signExtend 32) ∧
  (∀ (s : State) (u : Cv) (f : FA), (okInt f 0 && f.src2 = 0 && okS f.src1) = true → s.canIssue u [f.dest.toNat] →
      Does (.movSv u f) s fun t => s.wroteV t u f.gd f.dest fun _ => ((s.cv u).sGet f.src1).setWidth 32) ∧
  (∀ (s : State) (u : Cv) (f : FA), okInt f mdU2 = true → s.canIssue u (intRegs f) →
      Does (.shfl u f) s fun t => s.wroteV t u f.gd f.dest fun l =>
      (s.cv u).vGet ⟨((s.cv u).src2 f l).toNat % 32, by omega⟩ f.src1.toNat)

/-- A comparison or a predicate operation writes the enabled lanes of its predicate register, which p7 ignores; MOV.VS and VOTE write their uniform register once
when a lane is enabled; nothing else changes. It has a clause that concludes completion (exec answers a next state) for each of: INT_CMP, PAND, POR, PXOR, PNOT,
MOV_VS, VOTE. (R215, R250, R252, R257) -/
def Obligations.PredicatesAndLanes : Prop :=
  (∀ (s : State) (u : Cv) (k : Cmp) (f : FA), (okInt f (mdU2 ||| mdUns) && okP f.dest) = true → f.mods.getLsbD 8 = false → s.canIssue u ((intRegs f).drop 1) →
      Does (.intCmp u k (.reg f)) s fun t => s.wroteP t u f.gd f.dest fun l =>
      cmpInt k ((s.cv u).vGet l f.src1.toNat).toInt ((s.cv u).src2 f l).toInt) ∧
  (∀ (s : State) (u : Cv) (k : Cmp) (f : FA), (okInt f (mdU2 ||| mdUns) && okP f.dest) = true → f.mods.getLsbD 8 = true → s.canIssue u ((intRegs f).drop 1) →
      Does (.intCmp u k (.reg f)) s fun t => s.wroteP t u f.gd f.dest fun l =>
      cmpInt k ((s.cv u).vGet l f.src1.toNat).toNat ((s.cv u).src2 f l).toNat) ∧
  (∀ (s : State) (u : Cv) (k : Cmp) (f : FB), (okIntImm f false && okP f.dest) = true → s.canIssue u [f.src1.toNat] →
      Does (.intCmp u k (.imm f)) s fun t => s.wroteP t u f.gd f.dest fun l =>
      cmpInt k ((s.cv u).vGet l f.src1.toNat).toInt f.imm.toInt) ∧
  (∀ (s : State) (u : Cv) (f : FA), (okInt f 0 && okP f.dest && okP f.src1 && okP f.src2) = true → s.canIssue u [] →
      Does (.pand u f) s fun t => s.wroteP t u f.gd f.dest fun l =>
      ((s.cv u).pGet f.src1.toNat).getLsbD l.val && ((s.cv u).pGet f.src2.toNat).getLsbD l.val) ∧
  (∀ (s : State) (u : Cv) (f : FA), (okInt f 0 && okP f.dest && okP f.src1 && okP f.src2) = true → s.canIssue u [] →
      Does (.por u f) s fun t => s.wroteP t u f.gd f.dest fun l =>
      ((s.cv u).pGet f.src1.toNat).getLsbD l.val || ((s.cv u).pGet f.src2.toNat).getLsbD l.val) ∧
  (∀ (s : State) (u : Cv) (f : FA), (okInt f 0 && okP f.dest && okP f.src1 && okP f.src2) = true → s.canIssue u [] →
      Does (.pxor u f) s fun t => s.wroteP t u f.gd f.dest fun l =>
      ((s.cv u).pGet f.src1.toNat).getLsbD l.val != ((s.cv u).pGet f.src2.toNat).getLsbD l.val) ∧
  (∀ (s : State) (u : Cv) (f : FA), (okInt f 0 && okP f.dest && okP f.src1 && okP f.src2) = true → f.src2 = 0 → s.canIssue u [] →
      Does (.pnot u f) s fun t => s.wroteP t u f.gd f.dest fun l => !((s.cv u).pGet f.src1.toNat).getLsbD l.val) ∧
  (∀ (s : State) (u : Cv) (f : FA) (l : Fin 32), (okInt f mdLane && f.src2 = 0 && okS f.dest) = true → f.mods.toNat / 1024 % 32 = l.val →
      s.canIssue u [f.src1.toNat] →
      Does (.movVs u f) s fun t => s.wroteS t u f.gd f.dest (((s.cv u).vGet l f.src1.toNat).setWidth 64)) ∧
  (∀ (s : State) (u : Cv) (f : FA), (okInt f 0 && f.src2 = 0 && okP f.src1 && okS f.dest) = true → s.canIssue u [] →
      Does (.vote u f) s fun t => s.wroteS t u f.gd f.dest (((s.cv u).active f.gd &&& (s.cv u).pGet f.src1.toNat).setWidth 64))

/-- A uniform instruction whose guard enables a lane writes its 64-bit result once into its uniform register, or each enabled lane of a predicate for a
comparison; with no lane enabled it writes nothing; register 63 takes no value; nothing else changes. It has a clause that concludes completion (exec answers a
next state) for each of: U_ADD, U_SUB, U_MUL, U_AND, U_OR, U_XOR, U_SHL, U_SHR, LSHI, U_CMP. (R250, R252, R258) -/
def Obligations.UniformOperations : Prop :=
  (∀ (s : State) (u : Cv) (f : FA), (okUni f && okS f.dest) = true → s.canIssue u [] →
      Does (.uAdd u (.reg f)) s fun t => s.wroteS t u f.gd f.dest ((s.cv u).sGet f.src1 + (s.cv u).sGet f.src2)) ∧
  (∀ (s : State) (u : Cv) (f : FB), (okUniImm f && okS f.dest) = true → s.canIssue u [] →
      Does (.uAdd u (.imm f)) s fun t => s.wroteS t u f.gd f.dest ((s.cv u).sGet f.src1 + f.imm.signExtend 64)) ∧
  (∀ (s : State) (u : Cv) (f : FA), (okUni f && okS f.dest) = true → s.canIssue u [] →
      Does (.uSub u f) s fun t => s.wroteS t u f.gd f.dest ((s.cv u).sGet f.src1 - (s.cv u).sGet f.src2)) ∧
  (∀ (s : State) (u : Cv) (f : FA), (okUni f && okS f.dest) = true → s.canIssue u [] →
      Does (.uMul u f) s fun t => s.wroteS t u f.gd f.dest ((s.cv u).sGet f.src1 * (s.cv u).sGet f.src2)) ∧
  (∀ (s : State) (u : Cv) (f : FA), (okUni f && okS f.dest) = true → s.canIssue u [] →
      Does (.uAnd u (.reg f)) s fun t => s.wroteS t u f.gd f.dest ((s.cv u).sGet f.src1 &&& (s.cv u).sGet f.src2)) ∧
  (∀ (s : State) (u : Cv) (f : FB), (okUniImm f && okS f.dest) = true → s.canIssue u [] →
      Does (.uAnd u (.imm f)) s fun t => s.wroteS t u f.gd f.dest ((s.cv u).sGet f.src1 &&& f.imm.setWidth 64)) ∧
  (∀ (s : State) (u : Cv) (f : FA), (okUni f && okS f.dest) = true → s.canIssue u [] →
      Does (.uOr u (.reg f)) s fun t => s.wroteS t u f.gd f.dest ((s.cv u).sGet f.src1 ||| (s.cv u).sGet f.src2)) ∧
  (∀ (s : State) (u : Cv) (f : FB), (okUniImm f && okS f.dest) = true → s.canIssue u [] →
      Does (.uOr u (.imm f)) s fun t => s.wroteS t u f.gd f.dest ((s.cv u).sGet f.src1 ||| f.imm.setWidth 64)) ∧
  (∀ (s : State) (u : Cv) (f : FA), (okUni f && okS f.dest) = true → s.canIssue u [] →
      Does (.uXor u (.reg f)) s fun t => s.wroteS t u f.gd f.dest ((s.cv u).sGet f.src1 ^^^ (s.cv u).sGet f.src2)) ∧
  (∀ (s : State) (u : Cv) (f : FB), (okUniImm f && okS f.dest) = true → s.canIssue u [] →
      Does (.uXor u (.imm f)) s fun t => s.wroteS t u f.gd f.dest ((s.cv u).sGet f.src1 ^^^ f.imm.setWidth 64)) ∧
  (∀ (s : State) (u : Cv) (f : FA), (okUni f && okS f.dest) = true → s.canIssue u [] →
      Does (.uShl u (.reg f)) s fun t => s.wroteS t u f.gd f.dest ((s.cv u).sGet f.src1 <<< (((s.cv u).sGet f.src2).toNat % 64))) ∧
  (∀ (s : State) (u : Cv) (f : FB), (okUniImm f && okS f.dest) = true → s.canIssue u [] →
      Does (.uShl u (.imm f)) s fun t => s.wroteS t u f.gd f.dest ((s.cv u).sGet f.src1 <<< (f.imm.toNat % 64))) ∧
  (∀ (s : State) (u : Cv) (f : FA), (okUni f && okS f.dest) = true → s.canIssue u [] →
      Does (.uShr u (.reg f)) s fun t => s.wroteS t u f.gd f.dest ((s.cv u).sGet f.src1 >>> (((s.cv u).sGet f.src2).toNat % 64))) ∧
  (∀ (s : State) (u : Cv) (f : FB), (okUniImm f && okS f.dest) = true → s.canIssue u [] →
      Does (.uShr u (.imm f)) s fun t => s.wroteS t u f.gd f.dest ((s.cv u).sGet f.src1 >>> (f.imm.toNat % 64))) ∧
  (∀ (s : State) (u : Cv) (f : FB), (okUniImm f && okS f.dest) = true → s.canIssue u [] →
      Does (.lshi u f) s fun t => s.wroteS t u f.gd f.dest ((s.cv u).sGet f.src1 <<< 25 ||| f.imm.setWidth 64)) ∧
  (∀ (s : State) (u : Cv) (k : Cmp) (f : FA), (okUni f && okP f.dest) = true → s.canIssue u [] →
      Does (.uCmp u k (.reg f)) s fun t => s.wroteP t u f.gd f.dest fun _ => cmpInt k ((s.cv u).sGet f.src1).toInt ((s.cv u).sGet f.src2).toInt) ∧
  (∀ (s : State) (u : Cv) (k : Cmp) (f : FB), (okUniImm f && okP f.dest) = true → s.canIssue u [] →
      Does (.uCmp u k (.imm f)) s fun t => s.wroteP t u f.gd f.dest fun _ => cmpInt k ((s.cv u).sGet f.src1).toInt f.imm.toInt)

/-- For a well-formed word of a convoy that can issue, in every vector type, rounding mode and form: the destination of each enabled lane takes the exact result
of the operation on the lane's sources, rounded once into the type; a NaN source gives the canonical NaN, with NV where it signals; the flags of all lanes join
the sticky flags; nothing else changes. Under stochastic rounding each lane draws once, in lane order. The exact result is that of the model's addRaw, mulRaw,
fmaRaw, divRaw, sqrtRaw, rsqrtRaw, exp2Raw and log2Raw, of which ExactResults says what they are; how many bits it carries for EXP2 and LOG2 is the model's choice
(log 27). It has a clause that concludes completion (exec answers a next state) for each of: F_ADD, F_SUB, F_MUL, DIV, FMA, SQRT, RCP, RSQRT, EXP2, LOG2. (R254,
R256, R259, R277, R286) -/
def Obligations.FloatArithmetic : Prop :=
  (∀ (s : State) (u : Cv) (f : FA) (F : Fmt), vecFmt f.typ = some F → (okFp F f mdFp true && f.src3 = 0 && okF F f.dest) = true →
      s.canIssue u (fpRegs F f true) →
      Does (.fAdd u (.reg f)) s fun t => s.wroteF t u f.gd F f.rnd.toNat f.dest fun l =>
      nanGuard [((s.cv u).fSrc1 F f l), ((s.cv u).fSrc2 F f l)] (addRaw f.rnd.toNat ((s.cv u).fSrc1 F f l) ((s.cv u).fSrc2 F f l))) ∧
  (∀ (s : State) (u : Cv) (f : FB) (F : Fmt), vecFmt f.typ = some F → (okFpImm F f true && okF F f.dest) = true →
      s.canIssue u (vRange f.dest (fWidth F) ++ vRange f.src1 (fWidth F)) →
      Does (.fAdd u (.imm f)) s fun t => s.wroteF t u f.gd F f.rnd.toNat f.dest fun l =>
      nanGuard [(F.decode ((s.cv u).fGet F l f.src1)), (F.decode (fImm F f.imm))] (addRaw f.rnd.toNat (F.decode ((s.cv u).fGet F l f.src1)) (F.decode (fImm F f.imm)))) ∧
  (∀ (s : State) (u : Cv) (f : FA) (F : Fmt), vecFmt f.typ = some F → (okFp F f mdFp true && f.src3 = 0 && okF F f.dest) = true →
      s.canIssue u (fpRegs F f true) →
      Does (.fSub u (.reg f)) s fun t => s.wroteF t u f.gd F f.rnd.toNat f.dest fun l =>
      nanGuard [((s.cv u).fSrc1 F f l), ((s.cv u).fSrc2 F f l)] (addRaw f.rnd.toNat ((s.cv u).fSrc1 F f l) ((s.cv u).fSrc2 F f l).negate)) ∧
  (∀ (s : State) (u : Cv) (f : FB) (F : Fmt), vecFmt f.typ = some F → (okFpImm F f true && okF F f.dest) = true →
      s.canIssue u (vRange f.dest (fWidth F) ++ vRange f.src1 (fWidth F)) →
      Does (.fSub u (.imm f)) s fun t => s.wroteF t u f.gd F f.rnd.toNat f.dest fun l =>
      nanGuard [(F.decode ((s.cv u).fGet F l f.src1)), (F.decode (fImm F f.imm))] (addRaw f.rnd.toNat (F.decode ((s.cv u).fGet F l f.src1)) (F.decode (fImm F f.imm)).negate)) ∧
  (∀ (s : State) (u : Cv) (f : FA) (F : Fmt), vecFmt f.typ = some F → (okFp F f mdFp true && f.src3 = 0 && okF F f.dest) = true →
      s.canIssue u (fpRegs F f true) →
      Does (.fMul u (.reg f)) s fun t => s.wroteF t u f.gd F f.rnd.toNat f.dest fun l =>
      nanGuard [((s.cv u).fSrc1 F f l), ((s.cv u).fSrc2 F f l)] (mulRaw ((s.cv u).fSrc1 F f l) ((s.cv u).fSrc2 F f l))) ∧
  (∀ (s : State) (u : Cv) (f : FB) (F : Fmt), vecFmt f.typ = some F → (okFpImm F f true && okF F f.dest) = true →
      s.canIssue u (vRange f.dest (fWidth F) ++ vRange f.src1 (fWidth F)) →
      Does (.fMul u (.imm f)) s fun t => s.wroteF t u f.gd F f.rnd.toNat f.dest fun l =>
      nanGuard [(F.decode ((s.cv u).fGet F l f.src1)), (F.decode (fImm F f.imm))] (mulRaw (F.decode ((s.cv u).fGet F l f.src1)) (F.decode (fImm F f.imm)))) ∧
  (∀ (s : State) (u : Cv) (f : FA) (F : Fmt), vecFmt f.typ = some F → (okFp F f mdFp true && f.src3 = 0 && okF F f.dest) = true →
      s.canIssue u (fpRegs F f true) →
      Does (.div u f) s fun t => s.wroteF t u f.gd F f.rnd.toNat f.dest fun l =>
      nanGuard [((s.cv u).fSrc1 F f l), ((s.cv u).fSrc2 F f l)] (divRaw ((s.cv u).fSrc1 F f l) ((s.cv u).fSrc2 F f l))) ∧
  (∀ (s : State) (u : Cv) (f : FA) (F : Fmt), vecFmt f.typ = some F → (okFp F f (mdFp ||| mdNeg3) true && okF F f.src3 && okF F f.dest) = true →
      s.canIssue u (fpRegs F f true true) → f.mods.getLsbD 5 = false →
      Does (.fma u f) s fun t => s.wroteF t u f.gd F f.rnd.toNat f.dest fun l =>
      fmaRaw f.rnd.toNat ((s.cv u).fSrc1 F f l) ((s.cv u).fSrc2 F f l) (F.decode ((s.cv u).fGet F l f.src3))) ∧
  (∀ (s : State) (u : Cv) (f : FA) (F : Fmt), vecFmt f.typ = some F → (okFp F f (mdFp ||| mdNeg3) true && okF F f.src3 && okF F f.dest) = true →
      s.canIssue u (fpRegs F f true true) → f.mods.getLsbD 5 = true →
      Does (.fma u f) s fun t => s.wroteF t u f.gd F f.rnd.toNat f.dest fun l =>
      fmaRaw f.rnd.toNat ((s.cv u).fSrc1 F f l) ((s.cv u).fSrc2 F f l) (F.decode ((s.cv u).fGet F l f.src3)).negate) ∧
  (∀ (s : State) (u : Cv) (f : FA) (F : Fmt), vecFmt f.typ = some F → (okFp F f mdFp1 true && f.src2 = 0 && f.src3 = 0 && okF F f.dest) = true →
      s.canIssue u (vRange f.dest (fWidth F) ++ vRange f.src1 (fWidth F)) →
      Does (.sqrt u f) s fun t => s.wroteF t u f.gd F f.rnd.toNat f.dest fun l =>
      nanGuard [((s.cv u).fSrc1 F f l)] (sqrtRaw ((s.cv u).fSrc1 F f l))) ∧
  (∀ (s : State) (u : Cv) (f : FA) (F : Fmt), vecFmt f.typ = some F → (okFp F f mdFp1 true && f.src2 = 0 && f.src3 = 0 && okF F f.dest) = true →
      s.canIssue u (vRange f.dest (fWidth F) ++ vRange f.src1 (fWidth F)) →
      Does (.rcp u f) s fun t => s.wroteF t u f.gd F f.rnd.toNat f.dest fun l =>
      nanGuard [((s.cv u).fSrc1 F f l)] (divRaw (.fin false 1 0) ((s.cv u).fSrc1 F f l))) ∧
  (∀ (s : State) (u : Cv) (f : FA) (F : Fmt), vecFmt f.typ = some F → (okFp F f mdFp1 true && f.src2 = 0 && f.src3 = 0 && okF F f.dest) = true →
      s.canIssue u (vRange f.dest (fWidth F) ++ vRange f.src1 (fWidth F)) →
      Does (.rsqrt u f) s fun t => s.wroteF t u f.gd F f.rnd.toNat f.dest fun l =>
      nanGuard [((s.cv u).fSrc1 F f l)] (rsqrtRaw ((s.cv u).fSrc1 F f l))) ∧
  (∀ (s : State) (u : Cv) (f : FA) (F : Fmt), vecFmt f.typ = some F → (okFp F f mdFp1 true && f.src2 = 0 && f.src3 = 0 && okF F f.dest) = true →
      s.canIssue u (vRange f.dest (fWidth F) ++ vRange f.src1 (fWidth F)) →
      Does (.exp2 u f) s fun t => s.wroteF t u f.gd F f.rnd.toNat f.dest fun l =>
      nanGuard [((s.cv u).fSrc1 F f l)] (exp2Raw ((s.cv u).fSrc1 F f l))) ∧
  (∀ (s : State) (u : Cv) (f : FA) (F : Fmt), vecFmt f.typ = some F → (okFp F f mdFp1 true && f.src2 = 0 && f.src3 = 0 && okF F f.dest) = true →
      s.canIssue u (vRange f.dest (fWidth F) ++ vRange f.src1 (fWidth F)) →
      Does (.log2 u f) s fun t => s.wroteF t u f.gd F f.rnd.toNat f.dest fun l =>
      nanGuard [((s.cv u).fSrc1 F f l)] (log2Raw ((s.cv u).fSrc1 F f l)))

/-- Sums, products and fused products of finite values are exact. A quotient, a square root and a reciprocal root are known to a unit in a last place at least 191
bits below the first for a quotient, and the excess is marked where they are not exact. EXP2 of an integer and LOG2 of a power of two are exact. Rounding to a
quantum gives a neighbour, marks a result inexact where bits are lost, goes toward zero, down, up or to the nearest by its mode, ties to even or away, and under
stochastic rounding up where the draw lies below D. A rounded magnitude that the type holds decodes to itself. Other values of EXP2 and LOG2, of which the model
carries some 300 bits (log 27), are not spoken of. (R275, R284, R285, R289) -/
def Obligations.ExactResults : Prop :=
  (∀ (k : Nat) (n n2 : Bool) (m m2 : Nat) (e e2 : Int),
      (addRaw k (.fin n m e) (.fin n2 m2 e2)).1.rat = (FVal.fin n m e).rat + (FVal.fin n2 m2 e2).rat ∧ (addRaw k (.fin n m e) (.fin n2 m2 e2)).1.exact = true ∧ (addRaw k (.fin n m e) (.fin n2 m2 e2)).2 = 0) ∧
  (∀ (n n2 : Bool) (m m2 : Nat) (e e2 : Int),
      (mulRaw (.fin n m e) (.fin n2 m2 e2)).1.rat = (FVal.fin n m e).rat * (FVal.fin n2 m2 e2).rat ∧ (mulRaw (.fin n m e) (.fin n2 m2 e2)).1.exact = true ∧ (mulRaw (.fin n m e) (.fin n2 m2 e2)).2 = 0) ∧
  (∀ (k : Nat) (n n2 n3 : Bool) (m m2 m3 : Nat) (e e2 e3 : Int),
      (fmaRaw k (.fin n m e) (.fin n2 m2 e2) (.fin n3 m3 e3)).1.rat = (FVal.fin n m e).rat * (FVal.fin n2 m2 e2).rat + (FVal.fin n3 m3 e3).rat ∧
      (fmaRaw k (.fin n m e) (.fin n2 m2 e2) (.fin n3 m3 e3)).1.exact = true ∧ (fmaRaw k (.fin n m e) (.fin n2 m2 e2) (.fin n3 m3 e3)).2 = 0) ∧
  (∀ (n n2 : Bool) (m m2 : Nat) (e e2 : Int), m ≠ 0 → m2 ≠ 0 →
      ∃ (q : Nat) (d : Int) (st : Bool), divRaw (.fin n m e) (.fin n2 m2 e2) = (.num (n != n2) q d st, 0) ∧ 2 ^ 191 ≤ q ∧
      (q : Rat) * 2 ^ d * (m2 * 2 ^ e2) ≤ m * 2 ^ e ∧ (m : Rat) * 2 ^ e < (q + 1) * 2 ^ d * (m2 * 2 ^ e2) ∧ (st = false ↔ (q : Rat) * 2 ^ d * (m2 * 2 ^ e2) = m * 2 ^ e)) ∧
  (∀ (m : Nat) (e : Int), 0 < m →
      ∃ (r : Nat) (d : Int) (st : Bool), sqrtRaw (.fin false m e) = (.num false r d st, 0) ∧ ((r : Rat) * 2 ^ d) ^ 2 ≤ m * 2 ^ e ∧ (m : Rat) * 2 ^ e < ((r + 1) * 2 ^ d) ^ 2 ∧
      (st = false ↔ ((r : Rat) * 2 ^ d) ^ 2 = m * 2 ^ e)) ∧
  (∀ (m : Nat) (e : Int), 0 < m →
      ∃ (r : Nat) (d : Int) (st : Bool), rsqrtRaw (.fin false m e) = (.num false r d st, 0) ∧ ((r : Rat) * 2 ^ d) ^ 2 * (m * 2 ^ e) ≤ 1 ∧ 1 < ((r + 1 : Rat) * 2 ^ d) ^ 2 * (m * 2 ^ e) ∧
      (st = false ↔ ((r : Rat) * 2 ^ d) ^ 2 * (m * 2 ^ e) = 1)) ∧
  (∀ (n : Bool) (m : Nat) (e z : Int), m < 2 ^ 64 → z.natAbs < 2 ^ 14 → (FVal.fin n m e).rat = z →
      (exp2Raw (.fin n m e)).1.rat = 2 ^ z ∧ (exp2Raw (.fin n m e)).1.exact = true ∧ (exp2Raw (.fin n m e)).2 = 0) ∧
  (∀ (k : Nat) (e : Int),
      (log2Raw (.fin false (2 ^ k) e)).1.rat = k + e ∧ (log2Raw (.fin false (2 ^ k) e)).1.exact = true ∧ (log2Raw (.fin false (2 ^ k) e)).2 = 0) ∧
  (∀ (k r : Nat) (n : Bool) (m : Nat) (e : Int) (h : Nat) (x : Int), x = (roundAt k r n m e (e + h) false).1 * 2 ^ h - (m : Int) →
      (x.natAbs < 2 ^ h ∧ ((roundAt k r n m e (e + h) false).2 = false ↔ x = 0) ∧ (m % 2 ^ h = 0 → x = 0) ∧ (k = 1 → x ≤ 0) ∧ (k = 2 → if n then 0 ≤ x else x ≤ 0) ∧ (k = 3 → if n then x ≤ 0 else 0 ≤ x) ∧
      (k = 0 ∨ k = 4 → 2 * x.natAbs ≤ 2 ^ h) ∧ (k = 0 → 2 * x.natAbs = 2 ^ h → (roundAt k r n m e (e + h) false).1 % 2 = 0) ∧ (k = 4 → 2 * x.natAbs = 2 ^ h → 0 < x) ∧
      (k = 5 → (0 < x ↔ r < 2 ^ 32 * (m % 2 ^ h) / 2 ^ h)))) ∧
  (∀ (F : Fmt) (n : Bool) (g : Nat) (q : Int), (F = fp64 ∨ F = fp32 ∨ F = bf16 ∨ F = fp16) → F.qmin ≤ q → g < 2 ^ (F.mant + 1) → (q = F.qmin ∨ 2 ^ F.mant ≤ g) →
      F.enc g q ≤ F.maxEnc →
      (F.decode (F.signed n (F.enc g q))).rat = (if n then -1 else 1) * g * 2 ^ q)

/-- FMIN and FMAX take the lesser and the greater source, -0 below +0, and the other source where one is a NaN; a comparison writes its predicate, false for a NaN
but for UNORD, and sets NV for a signalling NaN, or for any NaN in the ordering ones; FMOV writes its immediate; nothing else changes. It has a clause that
concludes completion (exec answers a next state) for each of: F_MIN, F_MAX, F_CMP, CMP_UN, F_MOV. (R291, R292) -/
def Obligations.FloatSelection : Prop :=
  (∀ (s : State) (u : Cv) (f : FA) (F : Fmt), vecFmt f.typ = some F → (okFp F f mdFp false && f.src3 = 0 && okF F f.dest) = true →
      s.canIssue u (fpRegs F f true) →
      Does (.fMin u (.reg f)) s fun t => s.wroteF t u f.gd F 0 f.dest fun l =>
      minMaxRaw false ((s.cv u).fSrc1 F f l) ((s.cv u).fSrc2 F f l)) ∧
  (∀ (s : State) (u : Cv) (f : FB) (F : Fmt), vecFmt f.typ = some F → (okFpImm F f false && okF F f.dest) = true →
      s.canIssue u (vRange f.dest (fWidth F) ++ vRange f.src1 (fWidth F)) →
      Does (.fMin u (.imm f)) s fun t => s.wroteF t u f.gd F 0 f.dest fun l =>
      minMaxRaw false (F.decode ((s.cv u).fGet F l f.src1)) (F.decode (fImm F f.imm))) ∧
  (∀ (s : State) (u : Cv) (f : FA) (F : Fmt), vecFmt f.typ = some F → (okFp F f mdFp false && f.src3 = 0 && okF F f.dest) = true →
      s.canIssue u (fpRegs F f true) →
      Does (.fMax u (.reg f)) s fun t => s.wroteF t u f.gd F 0 f.dest fun l =>
      minMaxRaw true ((s.cv u).fSrc1 F f l) ((s.cv u).fSrc2 F f l)) ∧
  (∀ (s : State) (u : Cv) (f : FB) (F : Fmt), vecFmt f.typ = some F → (okFpImm F f false && okF F f.dest) = true →
      s.canIssue u (vRange f.dest (fWidth F) ++ vRange f.src1 (fWidth F)) →
      Does (.fMax u (.imm f)) s fun t => s.wroteF t u f.gd F 0 f.dest fun l =>
      minMaxRaw true (F.decode ((s.cv u).fGet F l f.src1)) (F.decode (fImm F f.imm))) ∧
  (∀ (s : State) (u : Cv) (f : FA) (F : Fmt) (k : Cmp), vecFmt f.typ = some F → (okFp F f mdFp false && f.src3 = 0 && okP f.dest) = true →
      s.canIssue u (fpRegs F f false) →
      Does (.fCmp u k (.reg f)) s fun t => (t.cv u).flags = (s.cv u).flags ||| (lanesOf ((s.cv u).active f.gd)).foldl (fun m l =>
      m ||| (cmpFp (some k) ((s.cv u).fSrc1 F f l) ((s.cv u).fSrc2 F f l)).2) 0 ∧
      (s.modCv u fun c => { c with flags := (t.cv u).flags }).wroteP t u f.gd f.dest fun l =>
      (cmpFp (some k) ((s.cv u).fSrc1 F f l) ((s.cv u).fSrc2 F f l)).1) ∧
  (∀ (s : State) (u : Cv) (f : FB) (F : Fmt) (k : Cmp), vecFmt f.typ = some F → (okFpImm F f false && okP f.dest) = true →
      s.canIssue u (vRange f.src1 (fWidth F)) →
      Does (.fCmp u k (.imm f)) s fun t => (t.cv u).flags = (s.cv u).flags ||| (lanesOf ((s.cv u).active f.gd)).foldl (fun m l =>
      m ||| (cmpFp (some k) (F.decode ((s.cv u).fGet F l f.src1)) (F.decode (fImm F f.imm))).2) 0 ∧
      (s.modCv u fun c => { c with flags := (t.cv u).flags }).wroteP t u f.gd f.dest fun l =>
      (cmpFp (some k) (F.decode ((s.cv u).fGet F l f.src1)) (F.decode (fImm F f.imm))).1) ∧
  (∀ (s : State) (u : Cv) (f : FA) (F : Fmt), vecFmt f.typ = some F → (okFp F f mdFp false && f.src3 = 0 && okP f.dest) = true →
      s.canIssue u (fpRegs F f false) →
      Does (.cmpUn u f) s fun t => (t.cv u).flags = (s.cv u).flags ||| (lanesOf ((s.cv u).active f.gd)).foldl (fun m l =>
      m ||| (cmpFp none ((s.cv u).fSrc1 F f l) ((s.cv u).fSrc2 F f l)).2) 0 ∧
      (s.modCv u fun c => { c with flags := (t.cv u).flags }).wroteP t u f.gd f.dest fun l =>
      (cmpFp none ((s.cv u).fSrc1 F f l) ((s.cv u).fSrc2 F f l)).1) ∧
  (∀ (s : State) (u : Cv) (f : FB) (F : Fmt), vecFmt f.typ = some F → (okFpImm F f false && f.src1 = 0 && okF F f.dest) = true →
      s.canIssue u (vRange f.dest (fWidth F)) →
      Does (.fMov u f) s fun t => s.went t u ∧ (t.cv u).s = (s.cv u).s ∧ (t.cv u).p = (s.cv u).p ∧ (t.cv u).flags = (s.cv u).flags ∧
      (t.cv u).v = ((lanesOf ((s.cv u).active f.gd)).foldl (fun k l => k.fPut F l f.dest (fImm F f.imm)) (s.cv u)).v) ∧
  (∀ (x y : FVal) (mx : Bool),
      (minMaxRaw mx x y).2 = if x = .nan true ∨ y = .nan true then 0x1 else 0) ∧
  (∀ (a b mx : Bool),
      (minMaxRaw mx (.nan a) (.nan b)).1 = .nan) ∧
  (∀ (a mx n : Bool) (m : Nat) (e : Int),
      (minMaxRaw mx (.nan a) (.fin n m e)).1 = (FVal.fin n m e).raw ∧ (minMaxRaw mx (.fin n m e) (.nan a)).1 = (FVal.fin n m e).raw ∧
      (minMaxRaw mx (.nan a) (.inf n)).1 = .inf n ∧ (minMaxRaw mx (.inf n) (.nan a)).1 = .inf n) ∧
  (∀ (n n' : Bool) (m m' : Nat) (e e' e0 : Int), e0 ≤ e → e0 ≤ e' → scaled n m e e0 < scaled n' m' e' e0 →
      (minMaxRaw false (.fin n m e) (.fin n' m' e')).1 = (FVal.fin n m e).raw ∧ (minMaxRaw true (.fin n m e) (.fin n' m' e')).1 = (FVal.fin n' m' e').raw ∧
      (minMaxRaw false (.fin n' m' e') (.fin n m e)).1 = (FVal.fin n m e).raw ∧ (minMaxRaw true (.fin n' m' e') (.fin n m e)).1 = (FVal.fin n' m' e').raw) ∧
  (∀ (n : Bool) (m : Nat) (e : Int),
      (minMaxRaw false (.inf true) (.fin n m e)).1 = .inf true ∧ (minMaxRaw false (.fin n m e) (.inf true)).1 = .inf true ∧
      (minMaxRaw true (.inf false) (.fin n m e)).1 = .inf false ∧ (minMaxRaw true (.fin n m e) (.inf false)).1 = .inf false ∧
      (minMaxRaw true (.inf true) (.fin n m e)).1 = (FVal.fin n m e).raw ∧ (minMaxRaw false (.inf false) (.fin n m e)).1 = (FVal.fin n m e).raw) ∧
  (∀ (e e' : Int),
      (minMaxRaw false (.fin true 0 e) (.fin false 0 e')).1 = .zero true ∧ (minMaxRaw false (.fin false 0 e) (.fin true 0 e')).1 = .zero true ∧
      (minMaxRaw true (.fin true 0 e) (.fin false 0 e')).1 = .zero false ∧ (minMaxRaw true (.fin false 0 e) (.fin true 0 e')).1 = .zero false) ∧
  (∀ (x y : FVal) (k : Cmp), (x.isNan = true ∨ y.isNan = true) →
      (cmpFp (some k) x y).1 = false ∧
      (cmpFp (some k) x y).2 = if (k ≠ .eq ∧ k ≠ .ne) ∨ x = .nan true ∨ y = .nan true then 0x1 else 0) ∧
  (∀ (n n' : Bool) (m m' : Nat) (e e' e0 : Int) (k : Cmp), e0 ≤ e → e0 ≤ e' →
      cmpFp (some k) (.fin n m e) (.fin n' m' e') = (cmpInt k (scaled n m e e0) (scaled n' m' e' e0), 0)) ∧
  (∀ (x y : FVal),
      cmpFp none x y = (x.isNan || y.isNan, if x = .nan true ∨ y = .nan true then 0x1 else 0))

/-- In each enabled lane the octet takes the exact result, of which the low 256 bits are stored; while every result lies in the signed 256-bit range no flag is
set and nothing else changes; a result that leaves the range sets XO, which halts the convoy where it stands; XMOV and XZERO store a value; XCMP writes its
predicate from the signed values. It has a clause that concludes completion (exec answers a next state) for each of: XADD, XSUB, XNEG, XMOV, XZERO, XCMP. (R305) -/
def Obligations.ExactSums : Prop :=
  (∀ (s : State) (u : Cv) (f : FA), (okXs f && okOctet f.dest) = true → s.canIssue u (vRange f.dest 8 ++ vRange f.src1 8 ++ vRange f.src2 8) →
      (∀ l : Fin 32, s.lit u f.gd l = true → -(2 : Int) ^ 255 ≤ ((s.cv u).v256 l f.src1.toNat).toInt + ((s.cv u).v256 l f.src2.toNat).toInt ∧ ((s.cv u).v256 l f.src1.toNat).toInt + ((s.cv u).v256 l f.src2.toNat).toInt < (2 : Int) ^ 255) →
      Does (.xadd u f) s fun t => s.went t u ∧ (t.cv u).s = (s.cv u).s ∧ (t.cv u).p = (s.cv u).p ∧ (t.cv u).flags = (s.cv u).flags ∧
      (t.cv u).v = ((lanesOf ((s.cv u).active f.gd)).foldl (fun k l => k.v256Put l f.dest.toNat (BitVec.ofInt 256 (((s.cv u).v256 l f.src1.toNat).toInt + ((s.cv u).v256 l f.src2.toNat).toInt))) (s.cv u)).v) ∧
  (∀ (s : State) (u : Cv) (f : FA), (okXs f && okOctet f.dest) = true → s.canIssue u (vRange f.dest 8 ++ vRange f.src1 8 ++ vRange f.src2 8) →
      (∀ l : Fin 32, s.lit u f.gd l = true → -(2 : Int) ^ 255 ≤ ((s.cv u).v256 l f.src1.toNat).toInt - ((s.cv u).v256 l f.src2.toNat).toInt ∧ ((s.cv u).v256 l f.src1.toNat).toInt - ((s.cv u).v256 l f.src2.toNat).toInt < (2 : Int) ^ 255) →
      Does (.xsub u f) s fun t => s.went t u ∧ (t.cv u).s = (s.cv u).s ∧ (t.cv u).p = (s.cv u).p ∧ (t.cv u).flags = (s.cv u).flags ∧
      (t.cv u).v = ((lanesOf ((s.cv u).active f.gd)).foldl (fun k l => k.v256Put l f.dest.toNat (BitVec.ofInt 256 (((s.cv u).v256 l f.src1.toNat).toInt - ((s.cv u).v256 l f.src2.toNat).toInt))) (s.cv u)).v) ∧
  (∀ (s : State) (u : Cv) (f : FA), (okXs f && okOctet f.dest && f.src2 = 0) = true → s.canIssue u (vRange f.dest 8 ++ vRange f.src1 8 ++ vRange f.src2 8) →
      (∀ l : Fin 32, s.lit u f.gd l = true → -(2 : Int) ^ 255 ≤ -((s.cv u).v256 l f.src1.toNat).toInt ∧ -((s.cv u).v256 l f.src1.toNat).toInt < (2 : Int) ^ 255) →
      Does (.xneg u f) s fun t => s.went t u ∧ (t.cv u).s = (s.cv u).s ∧ (t.cv u).p = (s.cv u).p ∧ (t.cv u).flags = (s.cv u).flags ∧
      (t.cv u).v = ((lanesOf ((s.cv u).active f.gd)).foldl (fun k l => k.v256Put l f.dest.toNat (BitVec.ofInt 256 (-((s.cv u).v256 l f.src1.toNat).toInt))) (s.cv u)).v) ∧
  (∀ (s : State) (u : Cv) (f : FA), (okXs f && okOctet f.dest && f.src2 = 0) = true → s.canIssue u (vRange f.dest 8 ++ vRange f.src1 8 ++ vRange f.src2 8) →
      Does (.xmov u f) s fun t => s.went t u ∧ (t.cv u).s = (s.cv u).s ∧ (t.cv u).p = (s.cv u).p ∧ (t.cv u).flags = (s.cv u).flags ∧
      (t.cv u).v = ((lanesOf ((s.cv u).active f.gd)).foldl (fun k l => k.v256Put l f.dest.toNat (BitVec.ofInt 256 (((s.cv u).v256 l f.src1.toNat).toInt))) (s.cv u)).v) ∧
  (∀ (s : State) (u : Cv) (f : FA), (okXs f && okOctet f.dest && f.src1 = 0 && f.src2 = 0) = true →
      s.canIssue u (vRange f.dest 8 ++ vRange f.src1 8 ++ vRange f.src2 8) →
      Does (.xzero u f) s fun t => s.went t u ∧ (t.cv u).s = (s.cv u).s ∧ (t.cv u).p = (s.cv u).p ∧ (t.cv u).flags = (s.cv u).flags ∧
      (t.cv u).v = ((lanesOf ((s.cv u).active f.gd)).foldl (fun k l => k.v256Put l f.dest.toNat (BitVec.ofInt 256 (0))) (s.cv u)).v) ∧
  (∀ (s : State) (u : Cv) (f : FA) (l : Fin 32), (okXs f && okOctet f.dest) = true → s.canIssue u (vRange f.dest 8 ++ vRange f.src1 8 ++ vRange f.src2 8) →
      s.lit u f.gd l = true →
      ((s.cv u).v256 l f.src1.toNat).toInt + ((s.cv u).v256 l f.src2.toNat).toInt < -(2 : Int) ^ 255 ∨ (2 : Int) ^ 255 ≤ ((s.cv u).v256 l f.src1.toNat).toInt + ((s.cv u).v256 l f.src2.toNat).toInt →
      Does (.xadd u f) s fun t => (t.cv u).run = .haltedFlag ∧ (t.cv u).flags = (s.cv u).flags ||| 0x40 ∧ (t.cv u).pc = (s.cv u).pc ∧
      (t.cv u).s = (s.cv u).s ∧ (t.cv u).p = (s.cv u).p ∧ t.ml = s.ml ∧ t.hbm = s.hbm ∧
      (t.cv u).v = ((lanesOf ((s.cv u).active f.gd)).foldl (fun k j => k.v256Put j f.dest.toNat (BitVec.ofInt 256 (((s.cv u).v256 j f.src1.toNat).toInt + ((s.cv u).v256 j f.src2.toNat).toInt))) (s.cv u)).v) ∧
  (∀ (s : State) (u : Cv) (f : FA) (l : Fin 32), (okXs f && okOctet f.dest) = true → s.canIssue u (vRange f.dest 8 ++ vRange f.src1 8 ++ vRange f.src2 8) →
      s.lit u f.gd l = true →
      ((s.cv u).v256 l f.src1.toNat).toInt - ((s.cv u).v256 l f.src2.toNat).toInt < -(2 : Int) ^ 255 ∨ (2 : Int) ^ 255 ≤ ((s.cv u).v256 l f.src1.toNat).toInt - ((s.cv u).v256 l f.src2.toNat).toInt →
      Does (.xsub u f) s fun t => (t.cv u).run = .haltedFlag ∧ (t.cv u).flags = (s.cv u).flags ||| 0x40 ∧ (t.cv u).pc = (s.cv u).pc ∧
      (t.cv u).s = (s.cv u).s ∧ (t.cv u).p = (s.cv u).p ∧ t.ml = s.ml ∧ t.hbm = s.hbm ∧
      (t.cv u).v = ((lanesOf ((s.cv u).active f.gd)).foldl (fun k j => k.v256Put j f.dest.toNat (BitVec.ofInt 256 (((s.cv u).v256 j f.src1.toNat).toInt - ((s.cv u).v256 j f.src2.toNat).toInt))) (s.cv u)).v) ∧
  (∀ (s : State) (u : Cv) (f : FA) (l : Fin 32), (okXs f && okOctet f.dest && f.src2 = 0) = true →
      s.canIssue u (vRange f.dest 8 ++ vRange f.src1 8 ++ vRange f.src2 8) → s.lit u f.gd l = true →
      (-((s.cv u).v256 l f.src1.toNat).toInt < -(2 : Int) ^ 255 ∨ (2 : Int) ^ 255 ≤ -((s.cv u).v256 l f.src1.toNat).toInt) →
      Does (.xneg u f) s fun t => (t.cv u).run = .haltedFlag ∧ (t.cv u).flags = (s.cv u).flags ||| 0x40 ∧ (t.cv u).pc = (s.cv u).pc ∧
      (t.cv u).s = (s.cv u).s ∧ (t.cv u).p = (s.cv u).p ∧ t.ml = s.ml ∧ t.hbm = s.hbm ∧
      (t.cv u).v = ((lanesOf ((s.cv u).active f.gd)).foldl (fun k j => k.v256Put j f.dest.toNat (BitVec.ofInt 256 (-((s.cv u).v256 j f.src1.toNat).toInt))) (s.cv u)).v) ∧
  (∀ (s : State) (u : Cv) (k : Cmp) (f : FA), (okXs f && okP f.dest) = true → s.canIssue u (vRange f.src1 8 ++ vRange f.src2 8) →
      Does (.xcmp u k f) s fun t => s.wroteP t u f.gd f.dest fun l => cmpInt k ((s.cv u).v256 l f.src1.toNat).toInt ((s.cv u).v256 l f.src2.toNat).toInt)

/-- A source that is no exact sum converts into each floating-point and integer type with one rounding of each enabled lane, integers clamped, and into an MX type
with the shared scale of the block and each element rounded against it, outside stochastic rounding; FP32 to INT32 and INT32 to floating point are stated for
themselves; an exact sum takes an FP32 value at the window of its index while no lane overflows, and FP32 takes an exact sum rounded once; a block of zeros in
MXFP8 E4M3 takes scale 0x7F. The other registers that a clause names stay as they were. It has a clause that concludes completion (exec answers a next state) for
each of: CONVERSION. (R260, R282, R293, R302, R303, R304, R306) -/
def Obligations.Conversions : Prop :=
  (∀ (s : State) (u : Cv) (f : FA), (f.gd.ok && okMods f.mods mdRnd && f.src2 = 0 && f.src3 = 0 && f.rnd.toNat < 5) = true → f.typ = 0xC →
      s.canIssue u (vRange f.dest 1 ++ vRange f.src1 1) →
      Does (.conversion u 1 f) s fun t => s.went t u ∧ (t.cv u).s = (s.cv u).s ∧ (t.cv u).p = (s.cv u).p ∧ ∀ (l : Fin 32) (r : Fin 64),
      (t.cv u).vGet l r.val = if r.val = f.dest.toNat ∧ s.lit u f.gd l = true then BitVec.ofInt 32
      (toInt (-2147483648) 2147483647 f.rnd.toNat 0 (fp32.decode ((s.cv u).vGet l f.src1.toNat).toNat)).1 else (s.cv u).vGet l r.val) ∧
  (∀ (s : State) (u : Cv) (f : FA) (F : Fmt), (f.gd.ok && okMods f.mods mdRnd && f.src2 = 0 && f.src3 = 0 && f.rnd.toNat < 5 && okF F f.dest) = true →
      vecFmt f.typ = some F → s.canIssue u (vRange f.dest (fWidth F) ++ vRange f.src1 1) →
      Does (.conversion u 0xC f) s fun t => s.went t u ∧ (t.cv u).s = (s.cv u).s ∧ (t.cv u).p = (s.cv u).p ∧ (t.cv u).v =
      ((lanesOf ((s.cv u).active f.gd)).foldl (fun k l => k.fPut F l f.dest (toFp F f.rnd.toNat 0 (FVal.ofInt ((s.cv u).vGet l f.src1.toNat).toInt)).1) (s.cv u)).v) ∧
  (∀ (s : State) (u : Cv) (f : FA) (src : BitVec 4) (G : Fmt),
      (f.gd.ok && okMods f.mods mdRnd && f.src2 = 0 && okPair2 src f.typ && okSrc3 src f.typ f.src3 && f.rnd.toNat < 5 && okTypeReg src f.src1 && okTypeReg f.typ f.dest && src != 0xD) = true →
      isMx f.typ = false → eltFmt f.typ = some G → s.canIssue u (vRange f.dest (typeRegs f.typ) ++ vRange f.src1 (typeRegs src)) →
      Does (.conversion u src f) s fun t => s.went t u ∧ (t.cv u).s = (s.cv u).s ∧ (t.cv u).p = (s.cv u).p ∧ (t.cv u).v =
      ((lanesOf ((s.cv u).active f.gd)).foldl (fun k l => k.fPut G l f.dest
      (toFp G f.rnd.toNat 0 ((s.cv u).convSrc src f.src1 (((s.cv u).sGet f.src3).toNat % 256) 0 l)).1) (s.cv u)).v) ∧
  (∀ (s : State) (u : Cv) (f : FA) (src : BitVec 4) (lo hi : Int) (n : Nat),
      (f.gd.ok && okMods f.mods mdRnd && f.src2 = 0 && okPair2 src f.typ && okSrc3 src f.typ f.src3 && f.rnd.toNat < 5 && okTypeReg src f.src1 && okTypeReg f.typ f.dest && src != 0xD) = true →
      intRange f.typ = some (lo, hi, n) → s.canIssue u (vRange f.dest (typeRegs f.typ) ++ vRange f.src1 (typeRegs src)) →
      Does (.conversion u src f) s fun t => s.went t u ∧ (t.cv u).s = (s.cv u).s ∧ (t.cv u).p = (s.cv u).p ∧ (t.cv u).v =
      ((lanesOf ((s.cv u).active f.gd)).foldl (fun k l => k.vPut l f.dest.toNat (BitVec.ofNat 32
      ((toInt lo hi f.rnd.toNat 0 ((s.cv u).convSrc src f.src1 (((s.cv u).sGet f.src3).toNat % 256) 0 l)).1 % 2 ^ n).toNat)) (s.cv u)).v) ∧
  (∀ (s : State) (u : Cv) (f : FA) (src : BitVec 4) (F : Fmt) (e : Int),
      (f.gd.ok && okMods f.mods mdRnd && f.src2 = 0 && okPair2 src f.typ && okSrc3 src f.typ f.src3 && f.rnd.toNat < 5 && okTypeReg src f.src1 && okTypeReg f.typ f.dest && src != 0xD) = true →
      isMx f.typ = true → eltFmt f.typ = some F → (s.cv u).active f.gd ≠ 0 →
      mxExp F ((lanesOf ((s.cv u).active f.gd)).map ((s.cv u).convSrc src f.src1 (((s.cv u).sGet f.src3).toNat % 256) 0)) = some (some e) →
      s.canIssue u (vRange f.dest (typeRegs f.typ) ++ vRange f.src1 (typeRegs src)) →
      Does (.conversion u src f) s fun t => (t.cv u).pc = (s.cv u).pc + 1 ∧ (t.cv u).run = .running ∧ (t.cv u).sGet f.src3 = BitVec.ofInt 64 (e + 127) ∧
      ∀ l : Fin 32, s.lit u f.gd l = true → (t.cv u).vGet l f.dest.toNat =
      BitVec.ofNat 32 (mxElt F e f.rnd.toNat 0 ((s.cv u).convSrc src f.src1 (((s.cv u).sGet f.src3).toNat % 256) 0 l)).1) ∧
  (∀ (s : State) (u : Cv) (f : FA) (w : BitVec 64), (f.gd.ok && f.mods = 0 && f.src2 = 0 && okOctet f.dest) = true → f.typ = 0xD →
      s.window u f.src3.toNat = some w → s.canIssue u (vRange f.dest 8 ++ vRange f.src1 1) →
      (∀ l : Fin 32, s.lit u f.gd l = true → (toXs w (fp32.decode ((s.cv u).vGet l f.src1.toNat).toNat)).2 &&& 0x40 = 0) →
      Does (.conversion u 1 f) s fun t => s.went t u ∧ (t.cv u).s = (s.cv u).s ∧ (t.cv u).p = (s.cv u).p ∧ (t.cv u).v =
      ((lanesOf ((s.cv u).active f.gd)).foldl (fun k l => k.v256Put l f.dest.toNat (toXs w (fp32.decode ((s.cv u).vGet l f.src1.toNat).toNat)).1) (s.cv u)).v) ∧
  (∀ (s : State) (u : Cv) (f : FA) (w : BitVec 64), (f.gd.ok && okMods f.mods mdRnd && f.src2 = 0 && f.rnd.toNat < 5 && okOctet f.src1) = true → f.typ = 1 →
      s.window u f.src3.toNat = some w → s.canIssue u (vRange f.dest 1 ++ vRange f.src1 8) →
      Does (.conversion u 0xD f) s fun t => s.went t u ∧ (t.cv u).s = (s.cv u).s ∧ (t.cv u).p = (s.cv u).p ∧ (t.cv u).v =
      ((lanesOf ((s.cv u).active f.gd)).foldl (fun k l => k.fPut fp32 l f.dest
      (toFp fp32 f.rnd.toNat 0 (.fin (((s.cv u).v256 l f.src1.toNat).toInt < 0) ((s.cv u).v256 l f.src1.toNat).toInt.natAbs (winBase w))).1) (s.cv u)).v) ∧
  (∀ (s : State) (u : Cv) (f : FA), (f.gd.ok && okMods f.mods mdRnd && f.src2 = 0 && f.rnd.toNat < 5 && f.src3.toNat < 32) = true → f.typ = 6 →
      s.canIssue u (vRange f.dest 1 ++ vRange f.src1 1) → (s.cv u).active f.gd ≠ 0 →
      (∀ l : Fin 32, s.lit u f.gd l = true → (s.cv u).vGet l f.src1.toNat = 0) →
      Does (.conversion u 1 f) s fun t => (t.cv u).pc = (s.cv u).pc + 1 ∧ (t.cv u).run = .running ∧ (t.cv u).sGet f.src3 = 0x7F ∧
      (t.cv u).flags = (s.cv u).flags ∧ (t.cv u).p = (s.cv u).p ∧ s.hbm = t.hbm ∧ s.ml = t.ml ∧ ∀ l : Fin 32, s.lit u f.gd l = true → (t.cv u).vGet l f.dest.toNat = 0)

/-- MM.ZERO clears its tile; MM.LD fills it from 1,024 readable bytes and MM.ST of INT32 writes its 1,024 bytes and no other; MM.ADD of INT32 adds a tile; an MMA
of an integer type adds to each element the exact sum of its products, from zero where it does not accumulate; an MMA of any type leaves every other tile and all
of memory as they are. It has a clause that concludes completion (exec answers a next state) for each of: MM_ZERO, MM_LD, MM_ST, MM_ADD, MMA. (R205, R262, R263,
R295, R298, R299) -/
def Obligations.MatrixUnit : Prop :=
  (∀ (s : State) (u : Cv) (f : FM), (okMat s u f && tileType f.typ && f.sA = 0 && f.sB = 0 && f.stile = 0 && f.acc = 0 && f.rnd = 0) = true → s.canIssue u [] →
      (s.cv u).active f.gd ≠ 0 →
      Does (.mmZero u f) s fun t => s.wentTiles t u ∧ t.ml = s.ml ∧ (∀ i : Fin 256, (t.core u.g).tGet f.dest.toNat i.val = 0) ∧ ∀ (n : Fin 8) (i : Fin 256), n.val ≠ f.dest.toNat → (t.core u.g).tGet n.val i.val = (s.core u.g).tGet n.val i.val) ∧
  (∀ (s : State) (u : Cv) (f : FM) (k : Nat), (okMat s u f && tileType f.typ && okS f.sA && f.sB = 0 && f.stile = 0 && f.acc = 0 && f.rnd = 0) = true →
      s.canIssue u [] → s.acquiring u = false → (s.cv u).active f.gd ≠ 0 → operandKey u.g ((s.cv u).sGet f.sA) 1024 = some k → s.cvAccess u k = .ok →
      s.cvAccess u (k + 1023) = .ok → s.mlHasBad k 1024 = false →
      Does (.mmLd u f {}) s fun t => s.wentTiles t u ∧ t.ml = s.ml ∧ (∀ i : Fin 256, (t.core u.g).tGet f.dest.toNat i.val = BitVec.ofNat 32 (s.mlNum (k + 4 * i.val) 4)) ∧ ∀ (n : Fin 8) (i : Fin 256), n.val ≠ f.dest.toNat → (t.core u.g).tGet n.val i.val = (s.core u.g).tGet n.val i.val) ∧
  (∀ (s : State) (u : Cv) (f : FM) (k a : Nat), (okMat s u f && okS f.sA && f.sB = 0 && f.stile = 0 && f.acc = 0 && f.rnd = 0) = true → f.typ = 0xC →
      s.canIssue u [] → s.acquiring u = false → (s.cv u).active f.gd ≠ 0 → operandKey u.g ((s.cv u).sGet f.sA) 1024 = some k → s.cvAccess u k = .ok →
      s.cvAccess u (k + 1023) = .ok →
      Does (.mmSt u f) s fun t => s.wentTiles t u ∧ t.hbm = s.hbm ∧ (∀ (n : Fin 8) (i : Fin 256), (t.core u.g).tGet n.val i.val = (s.core u.g).tGet n.val i.val) ∧
      (∀ i : Fin 256, t.mlNum (k + 4 * i.val) 4 = ((s.core u.g).tGet f.dest.toNat i.val).toNat) ∧ (a < k ∨ k + 1024 ≤ a → memGet t.ml a = memGet s.ml a)) ∧
  (∀ (s : State) (u : Cv) (f : FM), (okMat s u f && f.sA = 0 && f.sB = 0 && f.acc = 0 && f.rnd = 0 && mayName s u f (f.stile.setWidth 6)) = true → f.typ = 0xC →
      s.canIssue u [] → (s.cv u).active f.gd ≠ 0 → f.stile.toNat ≠ f.dest.toNat →
      Does (.mmAdd u f) s fun t => s.wentTiles t u ∧ t.ml = s.ml ∧ (t.cv u).flags = (s.cv u).flags ∧
      (∀ i : Fin 256, (t.core u.g).tGet f.dest.toNat i.val = (s.core u.g).tGet f.dest.toNat i.val + (s.core u.g).tGet f.stile.toNat i.val) ∧ ∀ (n : Fin 8) (i : Fin 256), n.val ≠ f.dest.toNat → (t.core u.g).tGet n.val i.val = (s.core u.g).tGet n.val i.val) ∧
  (∀ (s : State) (u : Cv) (f : FM) (sh : MmaShape) (ka kb : Nat) (lo hi : Int) (n : Nat), mmaShape f.typ = some sh →
      (okMat s u f && okS f.sA && okS f.sB && f.stile = 0 && f.acc.toNat < 2 && (if (intRange f.typ).isSome then f.rnd = 0 else okRnd f.rnd)) = true →
      s.canIssue u [] → s.acquiring u = false → (s.cv u).active f.gd ≠ 0 → operandKey u.g ((s.cv u).sGet f.sA) (sh.data + sh.scales) = some ka →
      operandKey u.g ((s.cv u).sGet f.sB) (sh.data + sh.scales) = some kb → s.cvAccess u ka = .ok → s.cvAccess u (ka + (sh.data + sh.scales - 1)) = .ok →
      s.cvAccess u kb = .ok → s.cvAccess u (kb + (sh.data + sh.scales - 1)) = .ok → s.mlHasBad ka (sh.data + sh.scales) = false →
      s.mlHasBad kb (sh.data + sh.scales) = false → intRange f.typ = some (lo, hi, n) →
      Does (.mma u f {}) s fun t => s.wentTiles t u ∧ t.ml = s.ml ∧ (t.cv u).flags = (s.cv u).flags ∧ (∀ (n : Fin 8) (i : Fin 256), n.val ≠ f.dest.toNat → (t.core u.g).tGet n.val i.val = (s.core u.g).tGet n.val i.val) ∧ ∀ i : Fin 256,
      (t.core u.g).tGet f.dest.toNat i.val = (if f.acc = 0 then 0 else (s.core u.g).tGet f.dest.toNat i.val) + BitVec.ofInt 32
      ((List.range sh.k).foldl (fun z j => z + intVal lo n ((s.operand ka sh).raw sh (i.val / 16) j) * intVal lo n ((s.operand kb sh).raw sh (i.val % 16) j)) 0)) ∧
  (∀ (s : State) (u : Cv) (f : FM) (sh : MmaShape) (ka kb : Nat), mmaShape f.typ = some sh →
      (okMat s u f && okS f.sA && okS f.sB && f.stile = 0 && f.acc.toNat < 2 && (if (intRange f.typ).isSome then f.rnd = 0 else okRnd f.rnd)) = true →
      s.canIssue u [] → s.acquiring u = false → (s.cv u).active f.gd ≠ 0 → operandKey u.g ((s.cv u).sGet f.sA) (sh.data + sh.scales) = some ka →
      operandKey u.g ((s.cv u).sGet f.sB) (sh.data + sh.scales) = some kb → s.cvAccess u ka = .ok → s.cvAccess u (ka + (sh.data + sh.scales - 1)) = .ok →
      s.cvAccess u kb = .ok → s.cvAccess u (kb + (sh.data + sh.scales - 1)) = .ok → s.mlHasBad ka (sh.data + sh.scales) = false →
      s.mlHasBad kb (sh.data + sh.scales) = false →
      Does (.mma u f {}) s fun t => s.wentTiles t u ∧ t.hbm = s.hbm ∧ t.ml = s.ml ∧ (∀ (n : Fin 8) (i : Fin 256), n.val ≠ f.dest.toNat → (t.core u.g).tGet n.val i.val = (s.core u.g).tGet n.val i.val))

/-- A load of a 4-byte type gives each enabled lane the four bytes at its element address; a store writes them in rising lane order, so the highest lane stays,
and no byte outside them changes; the uniform forms move 8 bytes once; an access that must wait leaves the convoy at its instruction with the tick from which it
waits; an address outside the map sets AF, which halts the convoy. It has a clause that concludes completion (exec answers a next state) for each of: LD, ST,
LD_U, ST_U. (R220, R264, R265, R266, R323) -/
def Obligations.LocalLoadsAndStores : Prop :=
  (∀ (s : State) (u : Cv) (f : FX) (K : Fin 32 → Nat), (okX f && f.order = 0) = true → f.typ = 0xC →
      s.canIssue u (vRange f.data 1 ++ (if f.ien then [f.index.toNat] else [])) → s.acquiring u = false →
      (∀ l : Fin 32, s.lit u f.gd l = true → localKey u.g (eltAddr (s.cv u) f l) = some (K l) ∧ aligned (s.cv u) f l = true ∧ s.cvAccess u (K l) = .ok) →
      (∀ l : Fin 32, s.lit u f.gd l = true → s.mlHasBad (K l) 4 = false) →
      Does (.ld u f {}) s fun t => s.wroteV t u f.gd f.data fun l => BitVec.ofNat 32 (s.mlNum (K l) 4)) ∧
  (∀ (s : State) (u : Cv) (f : FX) (K : Fin 32 → Nat) (a : Nat), (okX f && f.order = 0) = true → f.typ = 0xC →
      s.canIssue u (vRange f.data 1 ++ (if f.ien then [f.index.toNat] else [])) → s.acquiring u = false →
      (∀ l : Fin 32, s.lit u f.gd l = true → localKey u.g (eltAddr (s.cv u) f l) = some (K l) ∧ aligned (s.cv u) f l = true ∧ s.cvAccess u (K l) = .ok) →
      (∀ l : Fin 32, s.lit u f.gd l = true → a < K l ∨ K l + 4 ≤ a) → (∀ l : Fin 32, s.lit u f.gd l = true → s.mlHasBad (K l) 4 = false) →
      Does (.st u f {}) s fun t => s.wentTiles t u ∧ (t.core u.g).tiles = (s.core u.g).tiles ∧ t.hbm = s.hbm ∧ memGet t.ml a = memGet s.ml a ∧
      t.ml = (lanesOf ((s.cv u).active f.gd)).foldl (fun m l => memWrite m (K l) (leBytes 4 ((s.cv u).vGet l f.data.toNat).toNat)) s.ml) ∧
  (∀ (s : State) (u : Cv) (f : FX) (k : Nat), okXs1 f = true → s.canIssue u [] → s.acquiring u = false → (s.cv u).active f.gd ≠ 0 →
      rangeKey u.g (uniAddr (s.cv u) f) 8 8 = some k → s.cvAccess u k = .ok → s.mlHasBad k 8 = false →
      Does (.ldU u f {}) s fun t => s.wroteS t u f.gd f.data (BitVec.ofNat 64 (s.mlNum k 8))) ∧
  (∀ (s : State) (u : Cv) (f : FX) (k a : Nat), okXs1 f = true → s.canIssue u [] → s.acquiring u = false → (s.cv u).active f.gd ≠ 0 →
      rangeKey u.g (uniAddr (s.cv u) f) 8 8 = some k → s.cvAccess u k = .ok →
      Does (.stU u f) s fun t => s.wentTiles t u ∧ (t.core u.g).tiles = (s.core u.g).tiles ∧ t.hbm = s.hbm ∧ t.mlNum k 8 = ((s.cv u).sGet f.data).toNat ∧
      (a < k ∨ k + 8 ≤ a → memGet t.ml a = memGet s.ml a)) ∧
  (∀ (s : State) (u : Cv) (f : FX) (k : Nat), okXs1 f = true → s.canIssue u [] → s.acquiring u = false → (s.cv u).active f.gd ≠ 0 →
      rangeKey u.g (uniAddr (s.cv u) f) 8 8 = some k → s.cvAccess u k = .stall →
      Does (.ldU u f {}) s fun t => t = s.modCv u fun c => { c with stall := some ((c.stall.map (·.1)).getD s.now, k) }) ∧
  (∀ (s : State) (u : Cv) (f : FX), okXs1 f = true → s.canIssue u [] → s.acquiring u = false → (s.cv u).active f.gd ≠ 0 →
      rangeKey u.g (uniAddr (s.cv u) f) 8 8 = none →
      Does (.ldU u f {}) s fun t => s.haltedBy t u 0x200)

/-- LDC reads the register at its offset; STC sets the participants of a barrier that no convoy has arrived at, and begins the handover of a slice to another
owner; a handover that completes with no other waiting names the new owner and counts; a clear that completes opens its region; an access that an ML reset has
stalled for 2 µs sets AF, which halts the convoy. It has a clause that concludes completion (exec answers a next state) for each of: LDC, STC, HANDOVER_DONE,
CLEAR_DONE, SLICE_ACCESS_TIMEOUT. (R196, R232, R234, R266, R324, R326, R331) -/
def Obligations.ControlSpace : Prop :=
  (∀ (s : State) (u : Cv) (f : FX), okXs1 f = true → s.canIssue u [] → s.acquiring u = false → okCtl (uniAddr (s.cv u) f) = true →
      Does (.ldc u f) s fun t => s.wroteS t u f.gd f.data (s.ctlRead (coreStack u.g) (coreCluster u.g) (uniAddr (s.cv u) f).toNat)) ∧
  (∀ (s : State) (u : Cv) (f : FX) (n : Fin 4), okXs1 f = true → s.canIssue u [] → s.acquiring u = false → (s.cv u).active f.gd ≠ 0 →
      (uniAddr (s.cv u) f).toNat = 0x20 + 8 * n.val → ((s.cv u).sGet f.data).toNat ≤ 32 →
      (kget {} (s.cluster (coreStack u.g) (coreCluster u.g)).barriers n.val).arrived = 0 →
      Does (.stc u f) s fun t => (t.cv u).pc = (s.cv u).pc + 1 ∧ (t.cv u).s = (s.cv u).s ∧ (t.cv u).v = (s.cv u).v ∧ t.hbm = s.hbm ∧ t.ml = s.ml ∧
      kget {} (t.cluster (coreStack u.g) (coreCluster u.g)).barriers n.val =
      { kget {} (s.cluster (coreStack u.g) (coreCluster u.g)).barriers n.val with participants := ((s.cv u).sGet f.data).setWidth 6 }) ∧
  (∀ (s : State) (u : Cv) (f : FX) (n : Fin 16), okXs1 f = true → s.canIssue u [] → s.acquiring u = false → (s.cv u).active f.gd ≠ 0 →
      (uniAddr (s.cv u) f).toNat = 0x40 + 8 * n.val → (kget {} (s.cluster (coreStack u.g) (coreCluster u.g)).owners n.val).target = none →
      ((s.cv u).sGet f.data).setWidth 2 ≠ (kget {} (s.cluster (coreStack u.g) (coreCluster u.g)).owners n.val).owner →
      Does (.stc u f) s fun t => (t.cv u).pc = (s.cv u).pc + 1 ∧ t.hbm = s.hbm ∧ t.ml = s.ml ∧ kget {} (t.cluster (coreStack u.g) (coreCluster u.g)).owners n.val =
      { kget {} (s.cluster (coreStack u.g) (coreCluster u.g)).owners n.val with target := some (((s.cv u).sGet f.data).setWidth 2), grace := none }) ∧
  (∀ (s : State) (x : StackId) (c : ClusterNo) (n : Fin 16) (w : BitVec 2), (kget {} (s.cluster x c).owners n.val).target = some w →
      (kget {} (s.cluster x c).owners n.val).nextTarget = [] → (s.ep (stackEp x)).stalled = [] →
      ((s.regions.all fun k => k.2.dma.isEmpty && k.2.rx.entries.isEmpty) = true) →
      Does (.handoverDone x c n) s fun t => kget {} (t.cluster x c).owners n.val =
      { kget {} (s.cluster x c).owners n.val with owner := w, handovers := (kget {} (s.cluster x c).owners n.val).handovers + 1, target := none, grace := some s.now } ∧ t.hbm = s.hbm ∧ t.ml = s.ml) ∧
  (∀ (s : State) (x : StackId) (p : RegionNo), (s.ep (stackEp x)).stalled = [] → ((s.regions.all fun k => k.2.dma.isEmpty && k.2.rx.entries.isEmpty) = true) →
      Does (.clearDone x p) s fun t => t.region x p = { s.region x p with clearing := false } ∧ s.sameData t) ∧
  (∀ (s : State) (u : Cv) (n k : Nat), (s.stack (coreStack u.g)).mlLost = true → (s.cv u).run = .running → (s.cv u).stall = some (n, k) → n + 2000 ≤ s.now →
      Does (.sliceAccessTimeout u) s fun t => s.haltedBy t u 0x200)

/-- A load forms one operation for each line that its enabled lanes touch, a store one for each line with the bytes enabled that its lanes write (bits that a
packed element shares with lanes that are off are free, log 34), and WM.SIGNAL one WM_ADD to the core named; the convoy goes on, its registers and all of memory
stay as they are, and misaligned elements set AF. It has a clause that concludes completion (exec answers a next state) for each of: LD_G, ST_G, WM_SIGNAL. (R220,
R223, R265, R267, R270, R428) -/
def Obligations.GlobalLoadsAndStores : Prop :=
  (∀ (s : State) (u : Cv) (f : FX) (o : RemOp) (L : List RemOp), okXg f = true → s.canIssue u (gRegs f (eltRegs f.typ)) → s.acquiring u = false →
      (s.cv u).active f.gd ≠ 0 → (((lanesOf ((s.cv u).active f.gd)).any fun l => !aligned (s.cv u) f l) = false) → s.opBase u .load f = some o →
      (L = (linesOf (laneShares (s.cv u) f)).map fun n => { o with addr := addr48 (64 * n), dests := ((laneShares (s.cv u) f).filter (·.1 = n)).map (·.2) }) →
      s.outstanding u + L.length ≤ 32 →
      Does (.ldG u f) s fun t => t = ((L.foldl (fun s o => s.addOp o) s).advance u).pump ∧ t.nextOp = s.nextOp + L.length ∧ (t.cv u).pc = (s.cv u).pc + 1 ∧ (t.cv u).v = (s.cv u).v ∧ (t.cv u).s = (s.cv u).s ∧ (t.cv u).p = (s.cv u).p ∧
      t.hbm = s.hbm ∧ t.ml = s.ml) ∧
  (∀ (s : State) (u : Cv) (f : FX) (o : RemOp) (L : List RemOp), okXg f = true → s.canIssue u (gRegs f (eltRegs f.typ)) → s.acquiring u = false →
      (s.cv u).active f.gd ≠ 0 → (((lanesOf ((s.cv u).active f.gd)).any fun l => !aligned (s.cv u) f l) = false) → isPacked f.typ = false →
      s.opBase u .store f = some o →
      (L = (linesOf (laneShares (s.cv u) f)).map fun n => { o with addr := addr48 (64 * n), payload := .store (enablesOf (((laneShares (s.cv u) f).filter (·.1 = n)).map (·.2))) ((((laneShares (s.cv u) f).filter (·.1 = n)).map (·.2)).foldl (fun b d => putLine b d ((s.cv u).eltGet f.typ d.lane f.data)) (List.replicate 64 0)) }) →
      s.outstanding u + L.length ≤ 32 →
      Does (.stG u f) s fun t => t = ((L.foldl (fun s o => s.addOp o) s).advance u).pump ∧ t.nextOp = s.nextOp + L.length ∧ t.free = s.free ∧ (t.cv u).pc = (s.cv u).pc + 1 ∧ (t.cv u).v = (s.cv u).v ∧ (t.cv u).s = (s.cv u).s ∧ (t.cv u).p = (s.cv u).p ∧
      t.hbm = s.hbm ∧ t.ml = s.ml) ∧
  (∀ (s : State) (u : Cv) (f : FX) (o : RemOp), okXg f = true → s.canIssue u (gRegs f (eltRegs f.typ)) → s.acquiring u = false → (s.cv u).active f.gd ≠ 0 →
      (((lanesOf ((s.cv u).active f.gd)).any fun l => !aligned (s.cv u) f l) = false) → isPacked f.typ = true → s.opBase u .store f = some o →
      s.outstanding u + (linesOf (laneShares (s.cv u) f)).length ≤ 32 →
      Does (.stG u f) s fun t => t.nextOp = s.nextOp + (linesOf (laneShares (s.cv u) f)).length ∧ t.free = s.free + 64 ∧ (t.cv u).pc = (s.cv u).pc + 1 ∧ (t.cv u).v = (s.cv u).v ∧ (t.cv u).s = (s.cv u).s ∧ (t.cv u).p = (s.cv u).p ∧
      t.hbm = s.hbm ∧ t.ml = s.ml) ∧
  (∀ (s : State) (u : Cv) (f : FB) (o : RemOp) (g : CoreId), okWm f = true → s.canIssue u [] → s.acquiring u = false → (s.cv u).active f.gd ≠ 0 →
      ((s.cv u).sGet f.src1).toNat = g.val →
      s.opBase u .wmAdd { gd := f.gd, data := 0, base := 0, index := 0, typ := 0, iscale := 0, ien := false, order := 0, off := 0 } = some o →
      hasBit (s.part o.part).stackMask (coreStack g).val = true → s.outstanding u < 32 →
      Does (.wmSignal u f) s fun t => t.nextOp = s.nextOp + 1 ∧ (t.cv u).pc = (s.cv u).pc + 1 ∧ (t.cv u).v = (s.cv u).v ∧ (t.cv u).s = (s.cv u).s ∧ (t.cv u).p = (s.cv u).p ∧
      t.hbm = s.hbm ∧ t.ml = s.ml ∧ t = ((s.addOp
      { o with placed := true, tgt := stackEp (coreStack g), ackBy := stackEp (coreStack g), payload := .wmAdd g.val f.dest f.imm.toNat }).advance u).pump) ∧
  (∀ (s : State) (u : Cv) (f : FX), okXg f = true → s.canIssue u (gRegs f (eltRegs f.typ)) → s.acquiring u = false →
      (((lanesOf ((s.cv u).active f.gd)).any fun l => !aligned (s.cv u) f l) = true) →
      Does (.ldG u f) s fun t => s.haltedBy t u 0x200)

/-- Each atomic of an allowed type forms, for every enabled lane in rising order, one operation at its element address with the operation code of the instruction
and the operand of its lane; all but XSADD return the old value to the lane; the convoy goes on, and its registers and all of memory stay as they are until the
operations end. It has a clause that concludes completion (exec answers a next state) for each of: ATOM_ADD, ATOM_FADD, ATOM_MIN, ATOM_MAX, ATOM_MINU, ATOM_MAXU,
ATOM_SWAP, ATOM_CAS, ATOM_XSADD. (R223, R265, R268, R366) -/
def Obligations.AtomicInstructions : Prop :=
  (∀ (s : State) (u : Cv) (f : FX) (o : RemOp) (L : List RemOp), okXg f = true → f.typ = 0xC → s.canIssue u (gRegs f (max (eltRegs f.typ) 1)) →
      s.acquiring u = false → (s.cv u).active f.gd ≠ 0 → (((lanesOf ((s.cv u).active f.gd)).any fun l => !aligned (s.cv u) f l) = false) →
      s.opBase u .atomic f = some o →
      (L = (lanesOf ((s.cv u).active f.gd)).map fun l => { o with addr := addr48 (eltAddr (s.cv u) f l).toNat, payload := .atomic { minor := 0, typ := f.typ, operand := leBytes 4 ((s.cv u).vGet l f.data.toNat).toNat }, dests := [{ lane := l, byte := 0, size := eltBits f.typ / 8, skip := 0, width := eltBits f.typ, pos := 0 }] }) →
      s.outstanding u + L.length ≤ 32 →
      Does (.atomAdd u f) s fun t => t = ((L.foldl (fun s o => s.addOp o) s).advance u).pump ∧ t.nextOp = s.nextOp + L.length ∧ (t.cv u).pc = (s.cv u).pc + 1 ∧ (t.cv u).v = (s.cv u).v ∧ (t.cv u).s = (s.cv u).s ∧ (t.cv u).p = (s.cv u).p ∧
      t.hbm = s.hbm ∧ t.ml = s.ml) ∧
  (∀ (s : State) (u : Cv) (f : FX) (o : RemOp) (L : List RemOp), okXg f = true → f.typ = 1 → s.canIssue u (gRegs f (max (eltRegs f.typ) 1)) →
      s.acquiring u = false → (s.cv u).active f.gd ≠ 0 → (((lanesOf ((s.cv u).active f.gd)).any fun l => !aligned (s.cv u) f l) = false) →
      s.opBase u .atomic f = some o →
      (L = (lanesOf ((s.cv u).active f.gd)).map fun l => { o with addr := addr48 (eltAddr (s.cv u) f l).toNat, payload := .atomic { minor := 1, typ := f.typ, operand := leBytes 4 ((s.cv u).vGet l f.data.toNat).toNat }, dests := [{ lane := l, byte := 0, size := eltBits f.typ / 8, skip := 0, width := eltBits f.typ, pos := 0 }] }) →
      s.outstanding u + L.length ≤ 32 →
      Does (.atomFadd u f) s fun t => t = ((L.foldl (fun s o => s.addOp o) s).advance u).pump ∧ t.nextOp = s.nextOp + L.length ∧ (t.cv u).pc = (s.cv u).pc + 1 ∧ (t.cv u).v = (s.cv u).v ∧ (t.cv u).s = (s.cv u).s ∧ (t.cv u).p = (s.cv u).p ∧
      t.hbm = s.hbm ∧ t.ml = s.ml) ∧
  (∀ (s : State) (u : Cv) (f : FX) (o : RemOp) (L : List RemOp), okXg f = true → f.typ = 0 → s.canIssue u (gRegs f 2) → s.acquiring u = false →
      (s.cv u).active f.gd ≠ 0 → (((lanesOf ((s.cv u).active f.gd)).any fun l => !aligned (s.cv u) f l) = false) → s.opBase u .atomic f = some o →
      (L = (lanesOf ((s.cv u).active f.gd)).map fun l => { o with addr := addr48 (eltAddr (s.cv u) f l).toNat, payload := .atomic { minor := 1, typ := f.typ, operand := leBytes 8 ((s.cv u).v64 l f.data.toNat).toNat }, dests := [{ lane := l, byte := 0, size := eltBits f.typ / 8, skip := 0, width := eltBits f.typ, pos := 0 }] }) →
      s.outstanding u + L.length ≤ 32 →
      Does (.atomFadd u f) s fun t => t = ((L.foldl (fun s o => s.addOp o) s).advance u).pump ∧ t.nextOp = s.nextOp + L.length ∧ (t.cv u).pc = (s.cv u).pc + 1 ∧ (t.cv u).v = (s.cv u).v ∧ (t.cv u).s = (s.cv u).s ∧ (t.cv u).p = (s.cv u).p ∧
      t.hbm = s.hbm ∧ t.ml = s.ml) ∧
  (∀ (s : State) (u : Cv) (f : FX) (o : RemOp) (L : List RemOp), okXg f = true → (f.typ = 0xC ∨ f.typ = 1) → s.canIssue u (gRegs f (max (eltRegs f.typ) 1)) →
      s.acquiring u = false → (s.cv u).active f.gd ≠ 0 → (((lanesOf ((s.cv u).active f.gd)).any fun l => !aligned (s.cv u) f l) = false) →
      s.opBase u .atomic f = some o →
      (L = (lanesOf ((s.cv u).active f.gd)).map fun l => { o with addr := addr48 (eltAddr (s.cv u) f l).toNat, payload := .atomic { minor := 2, typ := f.typ, operand := leBytes 4 ((s.cv u).vGet l f.data.toNat).toNat }, dests := [{ lane := l, byte := 0, size := eltBits f.typ / 8, skip := 0, width := eltBits f.typ, pos := 0 }] }) →
      s.outstanding u + L.length ≤ 32 →
      Does (.atomMin u f) s fun t => t = ((L.foldl (fun s o => s.addOp o) s).advance u).pump ∧ t.nextOp = s.nextOp + L.length ∧ (t.cv u).pc = (s.cv u).pc + 1 ∧ (t.cv u).v = (s.cv u).v ∧ (t.cv u).s = (s.cv u).s ∧ (t.cv u).p = (s.cv u).p ∧
      t.hbm = s.hbm ∧ t.ml = s.ml) ∧
  (∀ (s : State) (u : Cv) (f : FX) (o : RemOp) (L : List RemOp), okXg f = true → f.typ = 0 → s.canIssue u (gRegs f 2) → s.acquiring u = false →
      (s.cv u).active f.gd ≠ 0 → (((lanesOf ((s.cv u).active f.gd)).any fun l => !aligned (s.cv u) f l) = false) → s.opBase u .atomic f = some o →
      (L = (lanesOf ((s.cv u).active f.gd)).map fun l => { o with addr := addr48 (eltAddr (s.cv u) f l).toNat, payload := .atomic { minor := 2, typ := f.typ, operand := leBytes 8 ((s.cv u).v64 l f.data.toNat).toNat }, dests := [{ lane := l, byte := 0, size := eltBits f.typ / 8, skip := 0, width := eltBits f.typ, pos := 0 }] }) →
      s.outstanding u + L.length ≤ 32 →
      Does (.atomMin u f) s fun t => t = ((L.foldl (fun s o => s.addOp o) s).advance u).pump ∧ t.nextOp = s.nextOp + L.length ∧ (t.cv u).pc = (s.cv u).pc + 1 ∧ (t.cv u).v = (s.cv u).v ∧ (t.cv u).s = (s.cv u).s ∧ (t.cv u).p = (s.cv u).p ∧
      t.hbm = s.hbm ∧ t.ml = s.ml) ∧
  (∀ (s : State) (u : Cv) (f : FX) (o : RemOp) (L : List RemOp), okXg f = true → (f.typ = 0xC ∨ f.typ = 1) → s.canIssue u (gRegs f (max (eltRegs f.typ) 1)) →
      s.acquiring u = false → (s.cv u).active f.gd ≠ 0 → (((lanesOf ((s.cv u).active f.gd)).any fun l => !aligned (s.cv u) f l) = false) →
      s.opBase u .atomic f = some o →
      (L = (lanesOf ((s.cv u).active f.gd)).map fun l => { o with addr := addr48 (eltAddr (s.cv u) f l).toNat, payload := .atomic { minor := 3, typ := f.typ, operand := leBytes 4 ((s.cv u).vGet l f.data.toNat).toNat }, dests := [{ lane := l, byte := 0, size := eltBits f.typ / 8, skip := 0, width := eltBits f.typ, pos := 0 }] }) →
      s.outstanding u + L.length ≤ 32 →
      Does (.atomMax u f) s fun t => t = ((L.foldl (fun s o => s.addOp o) s).advance u).pump ∧ t.nextOp = s.nextOp + L.length ∧ (t.cv u).pc = (s.cv u).pc + 1 ∧ (t.cv u).v = (s.cv u).v ∧ (t.cv u).s = (s.cv u).s ∧ (t.cv u).p = (s.cv u).p ∧
      t.hbm = s.hbm ∧ t.ml = s.ml) ∧
  (∀ (s : State) (u : Cv) (f : FX) (o : RemOp) (L : List RemOp), okXg f = true → f.typ = 0 → s.canIssue u (gRegs f 2) → s.acquiring u = false →
      (s.cv u).active f.gd ≠ 0 → (((lanesOf ((s.cv u).active f.gd)).any fun l => !aligned (s.cv u) f l) = false) → s.opBase u .atomic f = some o →
      (L = (lanesOf ((s.cv u).active f.gd)).map fun l => { o with addr := addr48 (eltAddr (s.cv u) f l).toNat, payload := .atomic { minor := 3, typ := f.typ, operand := leBytes 8 ((s.cv u).v64 l f.data.toNat).toNat }, dests := [{ lane := l, byte := 0, size := eltBits f.typ / 8, skip := 0, width := eltBits f.typ, pos := 0 }] }) →
      s.outstanding u + L.length ≤ 32 →
      Does (.atomMax u f) s fun t => t = ((L.foldl (fun s o => s.addOp o) s).advance u).pump ∧ t.nextOp = s.nextOp + L.length ∧ (t.cv u).pc = (s.cv u).pc + 1 ∧ (t.cv u).v = (s.cv u).v ∧ (t.cv u).s = (s.cv u).s ∧ (t.cv u).p = (s.cv u).p ∧
      t.hbm = s.hbm ∧ t.ml = s.ml) ∧
  (∀ (s : State) (u : Cv) (f : FX) (o : RemOp) (L : List RemOp), okXg f = true → f.typ = 0xC → s.canIssue u (gRegs f (max (eltRegs f.typ) 1)) →
      s.acquiring u = false → (s.cv u).active f.gd ≠ 0 → (((lanesOf ((s.cv u).active f.gd)).any fun l => !aligned (s.cv u) f l) = false) →
      s.opBase u .atomic f = some o →
      (L = (lanesOf ((s.cv u).active f.gd)).map fun l => { o with addr := addr48 (eltAddr (s.cv u) f l).toNat, payload := .atomic { minor := 4, typ := f.typ, operand := leBytes 4 ((s.cv u).vGet l f.data.toNat).toNat }, dests := [{ lane := l, byte := 0, size := eltBits f.typ / 8, skip := 0, width := eltBits f.typ, pos := 0 }] }) →
      s.outstanding u + L.length ≤ 32 →
      Does (.atomMinu u f) s fun t => t = ((L.foldl (fun s o => s.addOp o) s).advance u).pump ∧ t.nextOp = s.nextOp + L.length ∧ (t.cv u).pc = (s.cv u).pc + 1 ∧ (t.cv u).v = (s.cv u).v ∧ (t.cv u).s = (s.cv u).s ∧ (t.cv u).p = (s.cv u).p ∧
      t.hbm = s.hbm ∧ t.ml = s.ml) ∧
  (∀ (s : State) (u : Cv) (f : FX) (o : RemOp) (L : List RemOp), okXg f = true → f.typ = 0xC → s.canIssue u (gRegs f (max (eltRegs f.typ) 1)) →
      s.acquiring u = false → (s.cv u).active f.gd ≠ 0 → (((lanesOf ((s.cv u).active f.gd)).any fun l => !aligned (s.cv u) f l) = false) →
      s.opBase u .atomic f = some o →
      (L = (lanesOf ((s.cv u).active f.gd)).map fun l => { o with addr := addr48 (eltAddr (s.cv u) f l).toNat, payload := .atomic { minor := 5, typ := f.typ, operand := leBytes 4 ((s.cv u).vGet l f.data.toNat).toNat }, dests := [{ lane := l, byte := 0, size := eltBits f.typ / 8, skip := 0, width := eltBits f.typ, pos := 0 }] }) →
      s.outstanding u + L.length ≤ 32 →
      Does (.atomMaxu u f) s fun t => t = ((L.foldl (fun s o => s.addOp o) s).advance u).pump ∧ t.nextOp = s.nextOp + L.length ∧ (t.cv u).pc = (s.cv u).pc + 1 ∧ (t.cv u).v = (s.cv u).v ∧ (t.cv u).s = (s.cv u).s ∧ (t.cv u).p = (s.cv u).p ∧
      t.hbm = s.hbm ∧ t.ml = s.ml) ∧
  (∀ (s : State) (u : Cv) (f : FX) (o : RemOp) (L : List RemOp), okXg f = true → f.typ = 0xC → s.canIssue u (gRegs f (max (eltRegs f.typ) 1)) →
      s.acquiring u = false → (s.cv u).active f.gd ≠ 0 → (((lanesOf ((s.cv u).active f.gd)).any fun l => !aligned (s.cv u) f l) = false) →
      s.opBase u .atomic f = some o →
      (L = (lanesOf ((s.cv u).active f.gd)).map fun l => { o with addr := addr48 (eltAddr (s.cv u) f l).toNat, payload := .atomic { minor := 6, typ := f.typ, operand := leBytes 4 ((s.cv u).vGet l f.data.toNat).toNat }, dests := [{ lane := l, byte := 0, size := eltBits f.typ / 8, skip := 0, width := eltBits f.typ, pos := 0 }] }) →
      s.outstanding u + L.length ≤ 32 →
      Does (.atomSwap u f) s fun t => t = ((L.foldl (fun s o => s.addOp o) s).advance u).pump ∧ t.nextOp = s.nextOp + L.length ∧ (t.cv u).pc = (s.cv u).pc + 1 ∧ (t.cv u).v = (s.cv u).v ∧ (t.cv u).s = (s.cv u).s ∧ (t.cv u).p = (s.cv u).p ∧
      t.hbm = s.hbm ∧ t.ml = s.ml) ∧
  (∀ (s : State) (u : Cv) (f : FX) (o : RemOp) (L : List RemOp), okXg f = true → f.typ = 0xC → okPair f.data = true → s.canIssue u (gRegs f 2) →
      s.acquiring u = false → (s.cv u).active f.gd ≠ 0 → (((lanesOf ((s.cv u).active f.gd)).any fun l => !aligned (s.cv u) f l) = false) →
      s.opBase u .atomic f = some o →
      (L = (lanesOf ((s.cv u).active f.gd)).map fun l => { o with addr := addr48 (eltAddr (s.cv u) f l).toNat, payload := .atomic { minor := 7, typ := f.typ, operand := leBytes 8 ((s.cv u).v64 l f.data.toNat).toNat }, dests := [{ lane := l, byte := 0, size := eltBits f.typ / 8, skip := 0, width := eltBits f.typ, pos := 0 }] }) →
      s.outstanding u + L.length ≤ 32 →
      Does (.atomCas u f) s fun t => t = ((L.foldl (fun s o => s.addOp o) s).advance u).pump ∧ t.nextOp = s.nextOp + L.length ∧ (t.cv u).pc = (s.cv u).pc + 1 ∧ (t.cv u).v = (s.cv u).v ∧ (t.cv u).s = (s.cv u).s ∧ (t.cv u).p = (s.cv u).p ∧
      t.hbm = s.hbm ∧ t.ml = s.ml) ∧
  (∀ (s : State) (u : Cv) (f : FX) (o : RemOp) (L : List RemOp), okXg f = true → f.typ = 0xD → s.canIssue u (gRegs f 8) → s.acquiring u = false →
      (s.cv u).active f.gd ≠ 0 → (((lanesOf ((s.cv u).active f.gd)).any fun l => !aligned (s.cv u) f l) = false) → s.opBase u .atomic f = some o →
      (L = (lanesOf ((s.cv u).active f.gd)).map fun l => { o with addr := addr48 (eltAddr (s.cv u) f l).toNat, payload := .atomic { minor := 8, typ := f.typ, operand := leBytes 32 ((s.cv u).v256 l f.data.toNat).toNat }, dests := [] }) →
      s.outstanding u + L.length ≤ 32 →
      Does (.atomXsadd u f) s fun t => t = ((L.foldl (fun s o => s.addOp o) s).advance u).pump ∧ t.nextOp = s.nextOp + L.length ∧ (t.cv u).pc = (s.cv u).pc + 1 ∧ (t.cv u).v = (s.cv u).v ∧ (t.cv u).s = (s.cv u).s ∧ (t.cv u).p = (s.cv u).p ∧
      t.hbm = s.hbm ∧ t.ml = s.ml)

/-- A COPY or COPY.MC of a convoy that can issue, with a legal length and, for COPY.MC, a stack mask, places its descriptor at the end of a queue of fewer than
16, with the fields of its word, and the convoy goes on; a length of zero or above 16 MiB, set bits where the length register is zero (DESIGN CHOICE, log 76) or
an empty mask sets IL; behind a full queue the convoy stalls; in a stack of no partition RF is set. With no descriptor, no CD or a check that waits the engine
does nothing; a check that fails stops the copy; otherwise it hands over the next request once the windows have room: COPY_READ toward a source elsewhere, or, of
its own slice or pool, the packets with the bytes it reads, and the descriptor moves on or leaves the queue. It has a clause that concludes completion (exec
answers a next state) for each of: COPY, COPY_MC, COPY_ENGINE_ISSUE. (R224, R225, R269, R359, R369, R370, R371) -/
def Obligations.CopyInstructions : Prop :=
  (∀ (s : State) (u : Cv) (f : FC) (p : PartId) (n : Nat) (m : BitVec 16), okFC f = true → s.canIssue u [] → s.acquiring u = false → (s.cv u).active f.gd ≠ 0 →
      ((s.cv u).sGet f.len).toNat = n → 0 < n → n ≤ 2 ^ 24 → (s.core u.g).queue.length < 16 → s.partOfStack (coreStack u.g) = some p → m = 0 →
      Does (.copy u f) s fun t => (t.cv u).pc = (s.cv u).pc + 1 ∧ (t.cv u).v = (s.cv u).v ∧ (t.cv u).s = (s.cv u).s ∧ (t.cv u).p = (s.cv u).p ∧
      t.hbm = s.hbm ∧ t.ml = s.ml ∧ t.nextOp = s.nextOp + 1 ∧ (t.core u.g).queue.dropLast = (s.core u.g).queue ∧
      ((t.core u.g).queue.getLast?).map (fun d => (d.id, d.len, d.mask, d.pos)) = some (s.nextOp, n, m, 0) ∧
      ((t.core u.g).queue.getLast?).map (fun d => (d.h, d.src, d.dst, d.part)) = some (u.h, ((s.cv u).sGet f.src).toNat, ((s.cv u).sGet f.dst).toNat, p.val) ∧
      ((t.core u.g).queue.getLast?).map (fun d => (d.dstWm, d.srcWm)) = some (f.low.extractLsb' 10 6, if f.low.getLsbD 3 then some (f.low.extractLsb' 4 6) else none)) ∧
  (∀ (s : State) (u : Cv) (f : FC) (n : Nat) (m : BitVec 16), okFC f = true → s.canIssue u [] → s.acquiring u = false → (s.cv u).active f.gd ≠ 0 →
      ((s.cv u).sGet f.len).toNat = n → 0 < n → n ≤ 2 ^ 24 → (s.core u.g).queue.length < 16 → s.partOfStack (coreStack u.g) = none → m = 0 →
      Does (.copy u f) s fun t => s.haltedBy t u 0x400) ∧
  (∀ (s : State) (u : Cv) (f : FC) (n : Nat) (m : BitVec 16), okFC f = true → s.canIssue u [] → s.acquiring u = false → (s.cv u).active f.gd ≠ 0 →
      ((s.cv u).sGet f.len).toNat = n → 0 < n → n ≤ 2 ^ 24 → 16 ≤ (s.core u.g).queue.length → m = 0 →
      Does (.copy u f) s fun t => t = s.modCv u fun c => { c with run := .stalled }) ∧
  (∀ (s : State) (u : Cv) (f : FC), okFC f = true → s.canIssue u [] → s.acquiring u = false → (s.cv u).active f.gd ≠ 0 →
      ((s.cv u).sGet f.len).toNat = 0 ∨ 2 ^ 24 < ((s.cv u).sGet f.len).toNat →
      Does (.copy u f) s fun t => s.haltedBy t u 0x100) ∧
  (∀ (s : State) (u : Cv) (f : FC), okFC f = true → s.canIssue u [] → s.acquiring u = false → (s.cv u).active f.gd = 0 →
      Does (.copy u f) s fun t => s.jumped t u ((s.cv u).pc + 1) ∧ (t.core u.g).queue = (s.core u.g).queue ∧ t.nextOp = s.nextOp) ∧
  (∀ (s : State) (u : Cv) (f : FC) (p : PartId) (n : Nat) (m : BitVec 16), okFC f = true → s.canIssue u [] → s.acquiring u = false → (s.cv u).active f.gd ≠ 0 →
      (s.cv u).sGet f.len = BitVec.ofNat 64 (m.toNat * 2 ^ 48 + n) → 0 < n → n ≤ 2 ^ 24 → (s.core u.g).queue.length < 16 →
      s.partOfStack (coreStack u.g) = some p → m ≠ 0 →
      Does (.copyMc u f) s fun t => (t.cv u).pc = (s.cv u).pc + 1 ∧ (t.cv u).v = (s.cv u).v ∧ (t.cv u).s = (s.cv u).s ∧ (t.cv u).p = (s.cv u).p ∧
      t.hbm = s.hbm ∧ t.ml = s.ml ∧ t.nextOp = s.nextOp + 1 ∧ (t.core u.g).queue.dropLast = (s.core u.g).queue ∧
      ((t.core u.g).queue.getLast?).map (fun d => (d.id, d.len, d.mask, d.pos)) = some (s.nextOp, n, m, 0) ∧
      ((t.core u.g).queue.getLast?).map (fun d => (d.h, d.src, d.dst, d.part)) = some (u.h, ((s.cv u).sGet f.src).toNat, ((s.cv u).sGet f.dst).toNat, p.val) ∧
      ((t.core u.g).queue.getLast?).map (fun d => (d.dstWm, d.srcWm)) = some (f.low.extractLsb' 10 6, if f.low.getLsbD 3 then some (f.low.extractLsb' 4 6) else none)) ∧
  (∀ (s : State) (u : Cv) (f : FC) (n : Nat) (m : BitVec 16), okFC f = true → s.canIssue u [] → s.acquiring u = false → (s.cv u).active f.gd ≠ 0 →
      (s.cv u).sGet f.len = BitVec.ofNat 64 (m.toNat * 2 ^ 48 + n) → 0 < n → n ≤ 2 ^ 24 → (s.core u.g).queue.length < 16 →
      s.partOfStack (coreStack u.g) = none → m ≠ 0 →
      Does (.copyMc u f) s fun t => s.haltedBy t u 0x400) ∧
  (∀ (s : State) (u : Cv) (f : FC) (n : Nat) (m : BitVec 16), okFC f = true → s.canIssue u [] → s.acquiring u = false → (s.cv u).active f.gd ≠ 0 →
      (s.cv u).sGet f.len = BitVec.ofNat 64 (m.toNat * 2 ^ 48 + n) → 0 < n → n ≤ 2 ^ 24 → 16 ≤ (s.core u.g).queue.length → m ≠ 0 →
      Does (.copyMc u f) s fun t => t = s.modCv u fun c => { c with run := .stalled }) ∧
  (∀ (s : State) (u : Cv) (f : FC), okFC f = true → s.canIssue u [] → s.acquiring u = false → (s.cv u).active f.gd ≠ 0 →
      ((s.cv u).sGet f.len).toNat % 2 ^ 48 = 0 ∨ 2 ^ 24 < ((s.cv u).sGet f.len).toNat % 2 ^ 48 ∨ ((s.cv u).sGet f.len).toNat < 2 ^ 48 →
      Does (.copyMc u f) s fun t => s.haltedBy t u 0x100) ∧
  (∀ (s : State) (u : Cv) (f : FC), okFC f = true → s.canIssue u [] → s.acquiring u = false → (s.cv u).active f.gd = 0 →
      Does (.copyMc u f) s fun t => s.jumped t u ((s.cv u).pc + 1) ∧ (t.core u.g).queue = (s.core u.g).queue ∧ t.nextOp = s.nextOp) ∧
  (∀ (s : State) (g : CoreId) (e : Ecc), (s.core g).queue = [] ∨ (s.stack (coreStack g)).cdLost = true →
      Does (.copyEngineIssue g e) s fun t => t = s) ∧
  (∀ (s : State) (g : CoreId) (e : Ecc) (c : CopyDesc) (q : List CopyDesc), (s.core g).queue = c :: q → (s.stack (coreStack g)).cdLost = false →
      s.check (stackEp (coreStack g)) ⟨c.part % 16, by omega⟩ .read (if 2 ^ 46 ≤ c.dst + c.pos && c.dst + c.pos < 2 ^ 47 then .toHost else .core) c.tag (c.src + c.pos) c.version = (.hold, s) →
      Does (.copyEngineIssue g e) s fun t => t = s) ∧
  (∀ (s : State) (g : CoreId) (e : Ecc) (c : CopyDesc) (q : List CopyDesc) (st : BitVec 4), (s.core g).queue = c :: q → ((q.all fun x => x.id ≠ c.id) = true) →
      (s.stack (coreStack g)).cdLost = false →
      s.check (stackEp (coreStack g)) ⟨c.part % 16, by omega⟩ .read (if 2 ^ 46 ≤ c.dst + c.pos && c.dst + c.pos < 2 ^ 47 then .toHost else .core) c.tag (c.src + c.pos) c.version = (.fail st, s) →
      Does (.copyEngineIssue g e) s fun t => c ∉ (t.core g).queue ∧ hasBit (t.cv ⟨g, c.h⟩).flags 10 = true ∧ t.hbm = s.hbm ∧ t.ml = s.ml) ∧
  (∀ (s s1 s2 : State) (g : CoreId) (e : Ecc) (c : CopyDesc) (q : List CopyDesc) (src : Place) (l : List Place) (ver : Option (Nat × BitVec 64)) (ds : List (Nat × Nat × Place)),
      (s.core g).queue = c :: q → (s.stack (coreStack g)).cdLost = false →
      s.check (stackEp (coreStack g)) ⟨c.part % 16, by omega⟩ .read (if 2 ^ 46 ≤ c.dst + c.pos && c.dst + c.pos < 2 ^ 47 then .toHost else .core) c.tag (c.src + c.pos) c.version = (.ok (src :: l) ver, s1) →
      s1.checkDsts (stackEp (coreStack g)) ⟨c.part % 16, by omega⟩ .core c (if c.mask = 0 then [0] else bitList c.mask) = (.ok ds, s2) →
      (s2.copyRoom (stackEp (coreStack g)) (if c.tag = 0 then 2 else 1) (if c.srcOwn then ds.map fun q => q.2.2.tgt else [src.tgt]) (if c.srcOwn then c.next else 16) = true) →
      Does (.copyEngineIssue g e) s fun t => t = s2.copyRequest g ⟨c.part % 16, by omega⟩ c src ver ds e) ∧
  (∀ (s s1 s2 : State) (g : CoreId) (e : Ecc) (c : CopyDesc) (q : List CopyDesc) (src : Place) (l : List Place) (ver : Option (Nat × BitVec 64)) (a : Nat) (d : Place),
      (s.core g).queue = c :: q → ((q.all fun x => x.id ≠ c.id) = true) → (s.stack (coreStack g)).cdLost = false →
      s.check (stackEp (coreStack g)) ⟨c.part % 16, by omega⟩ .read (if 2 ^ 46 ≤ c.dst + c.pos && c.dst + c.pos < 2 ^ 47 then .toHost else .core) c.tag (c.src + c.pos) c.version = (.ok (src :: l) ver, s1) →
      s1.checkDsts (stackEp (coreStack g)) ⟨c.part % 16, by omega⟩ .core c [0] = (.ok [(0, a, d)], s2) → c.mask = 0 → c.srcOwn = false →
      s2.copyRoom (stackEp (coreStack g)) (if c.tag = 0 then 2 else 1) [src.tgt] 16 = true → (s2.core g).queue = c :: q →
      hasBit (s2.ep (stackEp (coreStack g))).lost src.tgt.val = false →
      Does (.copyEngineIssue g e) s fun t => t.nextOp = s2.nextOp + 1 ∧ t.hbm = s2.hbm ∧ t.ml = s2.ml ∧
      (∃ o ∈ t.ops, o.serial = s2.nextOp ∧ o.kind = .copyRead ∧ o.issuer = .copy g c.id ∧ o.tgt = src.tgt ∧ o.ackBy = d.tgt ∧ o.payload = .copyRead (BitVec.ofNat 64 a) c.next 0 d.tgt d.loc) ∧
      (t.core g).queue = (if c.pos + c.next = c.len then q else { c with pos := c.pos + c.next, version := ver, wait := none } :: q)) ∧
  (∀ (s s1 s2 : State) (g : CoreId) (e : Ecc) (c : CopyDesc) (q : List CopyDesc) (src : Place) (l : List Place) (ver : Option (Nat × BitVec 64)) (a : Nat) (d : Place),
      (s.core g).queue = c :: q → ((q.all fun x => x.id ≠ c.id) = true) → (s.stack (coreStack g)).cdLost = false →
      s.check (stackEp (coreStack g)) ⟨c.part % 16, by omega⟩ .read (if 2 ^ 46 ≤ c.dst + c.pos && c.dst + c.pos < 2 ^ 47 then .toHost else .core) c.tag (c.src + c.pos) c.version = (.ok (src :: l) ver, s1) →
      s1.checkDsts (stackEp (coreStack g)) ⟨c.part % 16, by omega⟩ .core c [0] = (.ok [(0, a, d)], s2) → c.mask = 0 → c.srcOwn = true → c.srcWm = none →
      s2.copyRoom (stackEp (coreStack g)) (if c.tag = 0 then 2 else 1) [d.tgt] c.next = true → (s2.core g).queue = c :: q →
      hasBit (s2.ep (stackEp (coreStack g))).lost d.tgt.val = false → s2.mlAccess (.core g) src.loc c.wait = .ok →
      (s2.mlFound e src.loc).mlHasBad src.loc c.next = false →
      Does (.copyEngineIssue g e) s fun t => t.nextOp = s2.nextOp + 1 ∧ t.hbm = s2.hbm ∧ t.ml = s2.ml ∧
      (∃ o ∈ t.ops, o.serial = s2.nextOp ∧ o.kind = .copySend ∧ o.issuer = .copy g c.id ∧ o.tgt = d.tgt ∧ o.addr = BitVec.ofNat 48 a ∧ o.payload = .copyData (memRead s2.ml src.loc c.next)) ∧
      (t.core g).queue = (if c.pos + c.next = c.len then q else { c with pos := c.pos + c.next, version := ver, wait := none } :: q))

/-- For a well-formed word of a convoy that can issue: NOP goes on; BRA branches when its guard holds in every lane that is on, BRA.ANY when it holds in one; IF
and LOOP push an entry and branch where it is zero (log 33 for LOOP), and set PS, which halts the convoy, where the stack holds 32; ELSE and BREAK replace the top
and branch where it is zero; ENDLOOP branches back while a lane is on; ENDIF and a finished ENDLOOP pop the top; ELSE, ENDIF and a finished ENDLOOP set IL where
the stack holds its lowest entry alone; HALT halts its convoy. Where no flag is set, registers, flags and memory stay as they are. It has a clause that concludes
completion (exec answers a next state) for each of: NOP, BRA, BRA_ANY, IF, LOOP, ELSE, ENDLOOP, ENDIF, BREAK, HALT. (R211, R212, R213, R247, R271) -/
def Obligations.ControlFlow : Prop :=
  (∀ (s : State) (u : Cv) (f : FB), (okCtlB f && f.imm = 0) = true → s.canIssue u [] →
      Does (.nopI u f) s fun t => s.jumped t u ((s.cv u).pc + 1) ∧ (t.cv u).run = .running ∧ (t.cv u).stack = (s.cv u).stack ∧ s.went t u) ∧
  (∀ (s : State) (u : Cv) (f : FB), okCtlB f = true → s.canIssue u [] → (s.cv u).active f.gd = (s.cv u).top →
      Does (.bra u f) s fun t => s.jumped t u (target (s.cv u).pc f.imm) ∧ (t.cv u).run = .running ∧ (t.cv u).stack = (s.cv u).stack) ∧
  (∀ (s : State) (u : Cv) (f : FB), okCtlB f = true → s.canIssue u [] → (s.cv u).active f.gd ≠ (s.cv u).top →
      Does (.bra u f) s fun t => s.jumped t u ((s.cv u).pc + 1) ∧ (t.cv u).run = .running ∧ (t.cv u).stack = (s.cv u).stack) ∧
  (∀ (s : State) (u : Cv) (f : FB), okCtlB f = true → s.canIssue u [] → (s.cv u).active f.gd ≠ 0 →
      Does (.braAny u f) s fun t => s.jumped t u (target (s.cv u).pc f.imm) ∧ (t.cv u).run = .running ∧ (t.cv u).stack = (s.cv u).stack) ∧
  (∀ (s : State) (u : Cv) (f : FB), okCtlB f = true → s.canIssue u [] → (s.cv u).active f.gd = 0 →
      Does (.braAny u f) s fun t => s.jumped t u ((s.cv u).pc + 1) ∧ (t.cv u).run = .running ∧ (t.cv u).stack = (s.cv u).stack) ∧
  (∀ (s : State) (u : Cv) (f : FB), okCtlB f = true → s.canIssue u [] → (s.cv u).stack.length < 32 →
      Does (.ifI u f) s fun t => s.jumped t u (if (s.cv u).active f.gd = 0 then target (s.cv u).pc f.imm else (s.cv u).pc + 1) ∧ (t.cv u).run = .running ∧ (t.cv u).stack = (s.cv u).active f.gd :: (s.cv u).stack) ∧
  (∀ (s : State) (u : Cv) (f : FB), okCtlB f = true → s.canIssue u [] → 32 ≤ (s.cv u).stack.length →
      Does (.ifI u f) s fun t => s.haltedBy t u 0x800) ∧
  (∀ (s : State) (u : Cv) (f : FB), okCtlU f = true → s.canIssue u [] → 32 ≤ (s.cv u).stack.length →
      Does (.loop u f) s fun t => s.haltedBy t u 0x800) ∧
  (∀ (s : State) (u : Cv) (f : FB), okCtlU f = true → s.canIssue u [] → (s.cv u).stack.length < 2 →
      Does (.elseI u f) s fun t => s.haltedBy t u 0x100) ∧
  (∀ (s : State) (u : Cv) (f : FB), okCtlU f = true → s.canIssue u [] → (s.cv u).stack.length < 2 → (s.cv u).top = 0 →
      Does (.endloop u f) s fun t => s.haltedBy t u 0x100) ∧
  (∀ (s : State) (u : Cv) (f : FB) (a b : BitVec 32) (r : List (BitVec 32)), okCtlU f = true → s.canIssue u [] → (s.cv u).stack = a :: b :: r →
      Does (.elseI u f) s fun t => s.jumped t u (if (b &&& ~~~a) = 0 then target (s.cv u).pc f.imm else (s.cv u).pc + 1) ∧ (t.cv u).run = .running ∧ (t.cv u).stack = (b &&& ~~~a) :: b :: r) ∧
  (∀ (s : State) (u : Cv) (f : FB) (a b : BitVec 32) (r : List (BitVec 32)), (okCtlU f && f.imm = 0) = true → s.canIssue u [] → (s.cv u).stack = a :: b :: r →
      Does (.endif u f) s fun t => s.jumped t u ((s.cv u).pc + 1) ∧ (t.cv u).run = .running ∧ (t.cv u).stack = b :: r) ∧
  (∀ (s : State) (u : Cv) (f : FB), (okCtlU f && f.imm = 0) = true → s.canIssue u [] → (s.cv u).stack.length < 2 →
      Does (.endif u f) s fun t => s.haltedBy t u 0x100) ∧
  (∀ (s : State) (u : Cv) (f : FB), okCtlU f = true → s.canIssue u [] → (s.cv u).stack.length < 32 →
      Does (.loop u f) s fun t => s.jumped t u (if (s.cv u).top = 0 then target (s.cv u).pc f.imm else (s.cv u).pc + 1) ∧ (t.cv u).run = .running ∧ (t.cv u).stack = (s.cv u).top :: (s.cv u).stack) ∧
  (∀ (s : State) (u : Cv) (f : FB), okCtlB f = true → s.canIssue u [] →
      Does (.breakI u f) s fun t => s.jumped t u (if ((s.cv u).top &&& ~~~(s.cv u).active f.gd) = 0 then target (s.cv u).pc f.imm else (s.cv u).pc + 1) ∧ (t.cv u).run = .running ∧
      (t.cv u).stack = ((s.cv u).top &&& ~~~(s.cv u).active f.gd) :: (s.cv u).stack.drop 1) ∧
  (∀ (s : State) (u : Cv) (f : FB), okCtlU f = true → s.canIssue u [] → (s.cv u).top ≠ 0 →
      Does (.endloop u f) s fun t => s.jumped t u (target (s.cv u).pc f.imm) ∧ (t.cv u).run = .running ∧ (t.cv u).stack = (s.cv u).stack) ∧
  (∀ (s : State) (u : Cv) (f : FB) (a b : BitVec 32) (r : List (BitVec 32)), okCtlU f = true → s.canIssue u [] → (s.cv u).stack = a :: b :: r → a = 0 →
      Does (.endloop u f) s fun t => s.jumped t u ((s.cv u).pc + 1) ∧ (t.cv u).run = .running ∧ (t.cv u).stack = b :: r) ∧
  (∀ (s : State) (u : Cv) (f : FB), (okCtlU f && f.imm = 0) = true → s.canIssue u [] →
      Does (.halt u f) s fun t => s.jumped t u ((s.cv u).pc + 1) ∧ (t.cv u).run = .halted ∧ (t.cv u).stack = (s.cv u).stack)

/-- A convoy that reaches a barrier before the last waits at it, with the arrival counted; the last one resets the count, counts a generation and goes on;
FENCE.CORE waits for the other convoy of the core unless it is idle or halted; FENCE waits for the writes it covers that are still open; registers and memory stay
as they are. It has a clause that concludes completion (exec answers a next state) for each of: BAR_SYNC, FENCE_CORE, FENCE. (R234, R236, R272, R458, R459) -/
def Obligations.BarriersAndFences : Prop :=
  (∀ (s : State) (u : Cv) (f : FB) (n : Fin 4), okCtlU f = true → s.canIssue u [] → f.imm.toNat = n.val →
      ((kget {} (s.cluster (coreStack u.g) (coreCluster u.g)).barriers n.val).arrived + 1).toNat < (kget {} (s.cluster (coreStack u.g) (coreCluster u.g)).barriers n.val).participants.toNat →
      Does (.barSync u f) s fun t => s.jumped t u ((s.cv u).pc + 1) ∧ (t.cv u).run = .waitBar n ∧ (t.cv u).stack = (s.cv u).stack ∧ kget {} (t.cluster (coreStack u.g) (coreCluster u.g)).barriers n.val = { (kget {} (s.cluster (coreStack u.g) (coreCluster u.g)).barriers n.val) with arrived := (kget {} (s.cluster (coreStack u.g) (coreCluster u.g)).barriers n.val).arrived + 1 }) ∧
  (∀ (s : State) (u : Cv) (f : FB) (n : Fin 4), okCtlU f = true → s.canIssue u [] → f.imm.toNat = n.val →
      (kget {} (s.cluster (coreStack u.g) (coreCluster u.g)).barriers n.val).participants ≠ 0 →
      (kget {} (s.cluster (coreStack u.g) (coreCluster u.g)).barriers n.val).participants.toNat ≤ ((kget {} (s.cluster (coreStack u.g) (coreCluster u.g)).barriers n.val).arrived + 1).toNat →
      Does (.barSync u f) s fun t => s.jumped t u ((s.cv u).pc + 1) ∧ (t.cv u).run = .running ∧ (t.cv u).stack = (s.cv u).stack ∧
      kget {} (t.cluster (coreStack u.g) (coreCluster u.g)).barriers n.val = { (kget {} (s.cluster (coreStack u.g) (coreCluster u.g)).barriers n.val) with arrived := 0, generation := (kget {} (s.cluster (coreStack u.g) (coreCluster u.g)).barriers n.val).generation + 1 }) ∧
  (∀ (s : State) (u : Cv) (f : FB) (n : Fin 4), okCtlU f = true → s.canIssue u [] → f.imm.toNat = n.val →
      (kget {} (s.cluster (coreStack u.g) (coreCluster u.g)).barriers n.val).participants = 0 →
      Does (.barSync u f) s fun t => s.haltedBy t u 0x100) ∧
  (∀ (s : State) (u : Cv) (f : FB), (okCtlU f && f.imm = 0) = true → s.canIssue u [] → ((s.core u.g).cv (u.h + 1)).run = .running →
      Does (.fenceCore u f) s fun t => s.jumped t u ((s.cv u).pc + 1) ∧ (t.cv u).run = .waitCore ∧ (t.cv u).stack = (s.cv u).stack) ∧
  (∀ (s : State) (u : Cv) (f : FB), (okCtlU f && f.imm = 0) = true → s.canIssue u [] → ((s.core u.g).cv (u.h + 1)).run.fenced = true →
      Does (.fenceCore u f) s fun t => s.jumped t u ((s.cv u).pc + 1) ∧ (t.cv u).run = .running ∧ (t.cv u).stack = (s.cv u).stack) ∧
  (∀ (s : State) (u : Cv) (f : FB), (f.gd.ok && f.gd.unguarded && f.typ = 0 && f.rnd = 0 && f.dest = 0 && f.src1 = 0 && f.imm = 0) = true → s.canIssue u [] →
      s.covered u 0xFFFFFFFF = false →
      Does (.fence u f) s fun t => s.jumped t u ((s.cv u).pc + 1) ∧ (t.cv u).run = .running ∧ (t.cv u).stack = (s.cv u).stack) ∧
  (∀ (s : State) (u : Cv) (f : FB), (f.gd.ok && f.gd.unguarded && f.typ = 0 && f.rnd = 0 && f.dest = 0 && f.src1 = 0 && f.imm = 0) = true → s.canIssue u [] →
      s.covered u 0xFFFFFFFF = true →
      Does (.fence u f) s fun t => s.jumped t u ((s.cv u).pc + 1) ∧ (t.cv u).run = .waitFence 0xFFFFFFFF false ∧ (t.cv u).stack = (s.cv u).stack)

/-- For a well-formed word of a convoy that can issue, whose guard holds in a lane: WM.ADD adds and saturates with WS in convoy 0, WM.SET sets, WM.WAIT waits for
its target, WM.READ, ID and FLAGS.RD give their values (the tick registers in the modes named), FLAGS.CLR clears the nonfailing flags named, OUT.DONE leaves a
report; a word with a reserved opcode, or a fetch past the program, sets IL and halts the convoy. Registers that the instruction does not write stay as they are.
It has a clause that concludes completion (exec answers a next state) for each of: WM_ADD_INSTR, WM_SET, WM_WAIT, WM_READ, ID_V, ID_S, FLAGS_RD, FLAGS_CLR,
OUT_DONE, ILLEGAL_INSTRUCTION. (R216, R226, R227, R230, R251, R255, R270, R273, R551) -/
def Obligations.WaymarksAndIdentity : Prop :=
  (∀ (s : State) (u : Cv) (f : FB), okWm f = true → s.canIssue u [] → (s.cv u).active f.gd ≠ 0 →
      (kget 0 (s.core u.g).wm f.dest.toNat).toNat + (wmOperand (s.cv u) f).toNat < 2 ^ 32 →
      Does (.wmAddInstr u f) s fun t => s.jumped t u ((s.cv u).pc + 1) ∧ (t.cv u).run = .running ∧ (kget 0 (t.core u.g).wm f.dest.toNat).toNat = (kget 0 (s.core u.g).wm f.dest.toNat).toNat + (wmOperand (s.cv u) f).toNat ∧
      (∀ w : Fin 64, w.val ≠ f.dest.toNat → kget 0 (t.core u.g).wm w.val = kget 0 (s.core u.g).wm w.val)) ∧
  (∀ (s : State) (u : Cv) (f : FB), okWm f = true → s.canIssue u [] → (s.cv u).active f.gd ≠ 0 →
      2 ^ 32 ≤ (kget 0 (s.core u.g).wm f.dest.toNat).toNat + (wmOperand (s.cv u) f).toNat →
      Does (.wmAddInstr u f) s fun t => (t.cv u).pc = (s.cv u).pc + 1 ∧ kget 0 (t.core u.g).wm f.dest.toNat = 0xFFFFFFFF ∧
      hasBit (t.cv ⟨u.g, 0⟩).flags 12 = true ∧ (t.cv ⟨u.g, 0⟩).run = .haltedFlag ∧ t.ml = s.ml) ∧
  (∀ (s : State) (u : Cv) (f : FB), okWm f = true → s.canIssue u [] → (s.cv u).active f.gd ≠ 0 →
      Does (.wmSet u f) s fun t => s.jumped t u ((s.cv u).pc + 1) ∧ (t.cv u).run = .running ∧ kget 0 (t.core u.g).wm f.dest.toNat = (wmOperand (s.cv u) f).setWidth 32 ∧ (∀ w : Fin 64, w.val ≠ f.dest.toNat → kget 0 (t.core u.g).wm w.val = kget 0 (s.core u.g).wm w.val)) ∧
  (∀ (s : State) (u : Cv) (f : FB), okWm f = true → s.canIssue u [] → (s.cv u).active f.gd ≠ 0 →
      ((wmOperand (s.cv u) f).setWidth 32 : BitVec 32).toNat ≤ (kget 0 (s.core u.g).wm f.dest.toNat).toNat →
      Does (.wmWait u f) s fun t => s.jumped t u ((s.cv u).pc + 1) ∧ (t.cv u).run = .running ∧ (t.core u.g).wm = (s.core u.g).wm) ∧
  (∀ (s : State) (u : Cv) (f : FB), okWm f = true → s.canIssue u [] → (s.cv u).active f.gd ≠ 0 →
      (kget 0 (s.core u.g).wm f.dest.toNat).toNat < ((wmOperand (s.cv u) f).setWidth 32 : BitVec 32).toNat →
      Does (.wmWait u f) s fun t => s.jumped t u ((s.cv u).pc + 1) ∧ (t.cv u).run = .waitWm f.dest ((wmOperand (s.cv u) f).setWidth 32) ∧ (t.core u.g).wm = (s.core u.g).wm) ∧
  (∀ (s : State) (u : Cv) (f : FB), (f.gd.ok && f.typ = 0 && f.rnd = 0 && okS f.dest && f.imm = 0) = true → s.canIssue u [] →
      Does (.wmRead u f) s fun t => s.wroteS t u f.gd f.dest ((kget 0 (s.core u.g).wm f.src1.toNat).setWidth 64)) ∧
  (∀ (s : State) (u : Cv) (f : FB), (f.gd.ok && f.typ = 0 && f.rnd = 0 && f.src1 = 0) = true → f.imm = 0 → s.canIssue u [f.dest.toNat] →
      Does (.idV u f) s fun t => s.wroteV t u f.gd f.dest fun l => BitVec.ofNat 32 (32 * u.h.val + l.val)) ∧
  (∀ (s : State) (u : Cv) (f : FB), (f.gd.ok && f.typ = 0 && f.rnd = 0 && f.src1 = 0) = true → f.imm = 1 → s.canIssue u [f.dest.toNat] →
      Does (.idV u f) s fun t => s.wroteV t u f.gd f.dest fun l => BitVec.ofNat 32 l.val) ∧
  (∀ (s : State) (u : Cv) (f : FB), (f.gd.ok && f.typ = 0 && f.rnd = 0 && f.src1 = 0 && okS f.dest) = true → f.imm = 2 → s.canIssue u [] →
      Does (.idS u f) s fun t => s.wroteS t u f.gd f.dest (BitVec.ofNat 64 u.h.val)) ∧
  (∀ (s : State) (u : Cv) (f : FB), (f.gd.ok && f.typ = 0 && f.rnd = 0 && f.src1 = 0 && okS f.dest) = true → f.imm = 3 → s.canIssue u [] →
      Does (.idS u f) s fun t => s.wroteS t u f.gd f.dest (BitVec.ofNat 64 (u.g.val % 16))) ∧
  (∀ (s : State) (u : Cv) (f : FB), (f.gd.ok && f.typ = 0 && f.rnd = 0 && f.src1 = 0 && okS f.dest) = true → f.imm = 4 → s.canIssue u [] →
      Does (.idS u f) s fun t => s.wroteS t u f.gd f.dest (BitVec.ofNat 64 (u.g.val % 1536 / 16))) ∧
  (∀ (s : State) (u : Cv) (f : FB), (f.gd.ok && f.typ = 0 && f.rnd = 0 && f.src1 = 0 && okS f.dest) = true → f.imm = 5 → s.canIssue u [] →
      Does (.idS u f) s fun t => s.wroteS t u f.gd f.dest (BitVec.ofNat 64 (u.g.val / 1536))) ∧
  (∀ (s : State) (u : Cv) (f : FB), (f.gd.ok && f.typ = 0 && f.rnd = 0 && f.src1 = 0 && okS f.dest) = true → f.imm = 6 → s.canIssue u [] →
      Does (.idS u f) s fun t => s.wroteS t u f.gd f.dest (BitVec.ofNat 64 u.g.val)) ∧
  (∀ (s : State) (u : Cv) (f : FB), (f.gd.ok && f.typ = 0 && f.rnd = 0 && f.src1 = 0 && okS f.dest) = true → f.imm = 7 →
      (s.cluster (coreStack u.g) (coreCluster u.g)).mode = 1 → s.canIssue u [] →
      Does (.idS u f) s fun t => s.wroteS t u f.gd f.dest (BitVec.ofNat 64 (s.cluster (coreStack u.g) (coreCluster u.g)).period)) ∧
  (∀ (s : State) (u : Cv) (f : FB), (f.gd.ok && f.typ = 0 && f.rnd = 0 && f.src1 = 0 && okS f.dest) = true → f.imm = 8 →
      (s.cluster (coreStack u.g) (coreCluster u.g)).mode ≠ 1 → s.canIssue u [] →
      Does (.idS u f) s fun t => s.wroteS t u f.gd f.dest (BitVec.ofNat 64 (s.clusterNow (coreStack u.g) (coreCluster u.g)))) ∧
  (∀ (s : State) (u : Cv) (f : FB), (f.gd.ok && f.typ = 0 && f.rnd = 0 && f.src1 = 0 && okS f.dest && f.imm = 0) = true → s.canIssue u [] →
      Does (.flagsRd u f) s fun t => s.wroteS t u f.gd f.dest ((s.cv u).flags.setWidth 64)) ∧
  (∀ (s : State) (u : Cv) (f : FB), (f.gd.ok && f.typ = 0 && f.rnd = 0 && f.src1 = 0 && f.dest = 0) = true → f.imm.toNat < 64 → s.canIssue u [] →
      (s.cv u).active f.gd ≠ 0 →
      Does (.flagsClr u f) s fun t => s.went t u ∧ (t.cv u).flags = (s.cv u).flags &&& ~~~(f.imm.setWidth 16) ∧ (t.cv u).v = (s.cv u).v ∧
      (t.cv u).s = (s.cv u).s ∧ (t.cv u).p = (s.cv u).p) ∧
  (∀ (s : State) (u : Cv) (f : FB), (f.gd.ok && f.typ = 0 && f.rnd = 0 && f.src1 = 0 && f.dest = 0) = true → f.imm.toNat < 256 → s.canIssue u [] →
      (s.cv u).active f.gd ≠ 0 →
      Does (.outDone u f) s fun t => s.jumped t u ((s.cv u).pc + 1) ∧ (t.cv u).run = .running ∧ (t.core u.g).outs = (s.core u.g).outs ++ [(u.h, f.imm.toNat, s.nextOp)]) ∧
  (∀ (s : State) (u : Cv) (w : BitVec 64), (s.cv u).run = .running → s.mayIssue u = true → reservedWord w = true →
      Does (.illegalInstruction u (some w)) s fun t => s.haltedBy t u 0x100) ∧
  (∀ (s : State) (u : Cv), (s.cv u).run = .running → s.mayIssue u = true → s.progLen u.g ≤ (s.cv u).pc →
      Does (.illegalInstruction u none) s fun t => s.haltedBy t u 0x100)

/-- At a port die that takes a unicast packet of another origin: a LOAD puts READ_DATA with the 64 bytes of its line in the outbox; a STORE writes the enabled
bytes of its line and no other byte of HBM3; an integer ATOMIC.ADD with an empty replay table adds its operand to its word modulo 2^32 and leaves one entry in the
table; an atomic whose operation ID has a live entry changes neither memory nor the table; COPY_READ puts COPY_DATA with the bytes asked for in the outbox;
COPY_DATA writes its bytes and no other; the expiry of an entry takes it out when its tick has come. No memory layer and no core changes. It has a clause that
concludes completion (exec answers a next state) for each of: LOAD, STORE, ATOMIC, COPY_READ, COPY_DATA, REPLAY_ENTRY_EXPIRY. (R364, R365, R367, R369, R427, R430,
R452) -/
def Obligations.PortDieOperations : Prop :=
  (∀ (s : State) (a : Arr) (k : Fin 8), s.takesData a .load → epDie a.rx = some k → a.h.mcast = false → a.h.origin ≠ a.rx → s.dieGone a.rx .load = false →
      s.hbmGone a.rx .load a.h.loc = false → s.hbmHasBad (a.h.loc - a.h.loc % 64) 64 = false →
      Does (.load a {}) s fun t => t.queued a.rx .readData a.h.origin (.line (lineAt s.hbm a.h.loc)) = true ∧ t.hbm = s.hbm ∧ t.ml = s.ml ∧ t.cores = s.cores) ∧
  (∀ (s : State) (a : Arr) (be : BitVec 64) (d : List Byte) (k : Fin 8) (b : Nat), s.takesData a .store → epDie a.rx = some k → a.h.mcast = false →
      a.h.origin ≠ a.rx → s.dieGone a.rx .store = false → s.hbmGone a.rx .store a.h.loc = false → s.sealHolds a.h.loc = false → d.length = 64 →
      Does (.store a be d {}) s fun t => t.hbm = memWriteEn s.hbm (a.h.loc - a.h.loc % 64) (enabled be d) ∧ t.ml = s.ml ∧ t.cores = s.cores ∧
      (b < (a.h.loc - a.h.loc % 64) ∨ (a.h.loc - a.h.loc % 64) + 64 ≤ b → memGet t.hbm b = memGet s.hbm b)) ∧
  (∀ (s : State) (a : Arr) (k : Fin 8) (opd : List Byte), s.takesData a .atomic → epDie a.rx = some k → a.h.mcast = false → a.h.origin ≠ a.rx →
      s.dieGone a.rx .atomic = false → s.hbmGone a.rx .atomic a.h.loc = false → s.sealHolds a.h.loc = false → (s.die k).replay = [] →
      ageOf (s.copyNow a.rx) (tagFirst a.h.otag) < 99990 → beforeReset (s.die k).resetAt (s.copyNow a.rx) (tagFirst a.h.otag) = false →
      s.hbmHasBad a.h.loc 4 = false → opd.length = 4 →
      Does (.atomic a { minor := 0, typ := 0xC, operand := opd } {}) s fun t => leNat (memRead t.hbm a.h.loc 4) = (leNat (memRead s.hbm a.h.loc 4) + leNat opd) % 2 ^ 32 ∧
      (t.die k).replay.length = 1 ∧ t.ml = s.ml ∧ t.cores = s.cores) ∧
  (∀ (s : State) (a : Arr) (k : Fin 8) (p : AtomP) (r : Replay), s.takesData a .atomic → epDie a.rx = some k → a.h.mcast = false → a.h.origin ≠ a.rx →
      s.dieGone a.rx .atomic = false → s.hbmGone a.rx .atomic a.h.loc = false → s.sealHolds a.h.loc = false → (s.die k).replay = [r] → r.id = tagId a.h.otag →
      s.copyNow a.rx < r.expiry →
      Does (.atomic a p {}) s fun t => t.hbm = s.hbm ∧ (t.die k).replay = [r] ∧ t.ml = s.ml ∧ t.cores = s.cores) ∧
  (∀ (s : State) (a : Arr) (dst : BitVec 64) (n : Nat) (de : EpId) (dl : Nat) (k : Fin 8), s.takesData a .copyRead → epDie a.rx = some k → a.h.mcast = false →
      a.h.origin ≠ a.rx → s.dieGone a.rx .copyRead = false → s.hbmGone a.rx .copyRead a.h.loc = false → s.hbmHasBad a.h.loc n = false → de ≠ a.rx →
      Does (.copyRead a dst n 0 de dl {}) s fun t => t.queued a.rx .copyData de (.copyData (memRead s.hbm a.h.loc n)) = true ∧ t.hbm = s.hbm ∧ t.ml = s.ml ∧ t.cores = s.cores) ∧
  (∀ (s : State) (a : Arr) (d : List Byte) (k : Fin 8) (b : Nat), s.takesData a .copyData → epDie a.rx = some k → a.h.mcast = false → a.h.origin ≠ a.rx →
      s.dieGone a.rx .copyData = false → s.hbmGone a.rx .copyData a.h.loc = false → s.sealHolds a.h.loc = false → a.h.otag.toNat % 32 ≠ a.rx.val →
      Does (.copyData a d {}) s fun t => t.hbm = memWriteEn s.hbm a.h.loc (d.map fun x => (true, x)) ∧ t.ml = s.ml ∧ t.cores = s.cores ∧
      (b < a.h.loc ∨ a.h.loc + d.length ≤ b → memGet t.hbm b = memGet s.hbm b)) ∧
  (∀ (s : State) (e : EpId) (id : BitVec 48) (k : Fin 8), epDie e = some k → (s.die k).full = [] →
      Does (.replayEntryExpiry e id) s fun t => (t.die k).replay = (s.die k).replay.filter (fun r => r.id ≠ id || s.copyNow e < r.expiry) ∧ s.sameData t)

/-- READ_DATA with status OK to a load of one lane writes the lane its 4 bytes and ends the operation; ATOMIC_REPLY with status OK writes the old value to its
lane and ends the operation; WM_ADD adds to the waymark named and leaves one replay entry; a completed host read is answered with READ_DATA of its 64 bytes; an
attempt that has had no reply by its timeout is followed by a second one, whose packet goes to the outbox, while the endpoint has not lost the target. It has a
clause that concludes completion (exec answers a next state) for each of: READ_DATA, ATOMIC_REPLY, WM_ADD, HOST_READ_COMPLETION, OPERATION_TIMEOUT. (R223, R266,
R268, R362, R368, R430, R457, R459, R514) -/
def Obligations.RepliesAndCompletions : Prop :=
  (∀ (s : State) (a : Arr) (d : List Byte) (q : RemOp) (att : Attempt) (u : Cv) (l : Fin 32) (b : Nat), s.takesData a .readData →
      s.dieGone a.rx .readData = false → a.h.status = 0 → q.kind = .load → s.ops = [q] → q.attempts = [att] → att.sent = true → att.answered = false →
      att.mcast = false → q.issuer = .convoy u → q.snd = a.rx → q.tgt = a.h.origin → q.typ = 0xC → (s.cv u).run = .running → att.seq = a.h.otag.setWidth 24 →
      q.dests = [{ lane := l, byte := b, size := 4, skip := 0, width := 32, pos := 0 }] →
      Does (.readData a d false) s fun t => t.ops = [] ∧ (t.cv u).vGet l q.reg.toNat = BitVec.ofNat 32 (field d b 4) ∧ (t.cv u).pc = (s.cv u).pc ∧ (t.cv u).run = .running ∧
      (t.cv u).s = (s.cv u).s ∧ t.hbm = s.hbm ∧ t.ml = s.ml) ∧
  (∀ (s : State) (a : Arr) (r1 r2 : AtomR) (q : RemOp) (att : Attempt) (u : Cv) (l : Fin 32), s.hears a → a.turnpike = true → r1.id ≠ 0 → r2.id = 0 →
      r1.status = 0 → q.kind = .atomic → s.ops = [q] → q.attempts = [att] → att.sent = true → att.answered = false → att.mcast = false →
      q.issuer = .convoy u → q.snd = a.rx → q.tgt = a.h.origin → q.typ = 0xC → (s.cv u).run = .running → att.seq = r1.seq →
      q.dests = [{ lane := l, byte := 0, size := 4, skip := 0, width := 32, pos := 0 }] →
      Does (.atomicReply a r1 r2) s fun t => t.ops = [] ∧ (t.cv u).vGet l q.reg.toNat = r1.value.setWidth 32 ∧ (t.cv u).pc = (s.cv u).pc ∧ (t.cv u).run = .running ∧
      (t.cv u).s = (s.cv u).s ∧ t.hbm = s.hbm ∧ t.ml = s.ml) ∧
  (∀ (s : State) (a : Arr) (g : CoreId) (w : BitVec 6) (n : Nat), s.takesData a .wmAdd → a.rx = stackEp (coreStack g) → s.dieGone a.rx .wmAdd = false →
      (s.ep a.rx).wmReplay = [] → ageOf (s.copyNow a.rx) (tagFirst a.h.otag) < 99990 → a.h.origin ≠ a.rx →
      (∀ r, s.physOf (coreStack g) (coreCluster g) = some r → (s.region (coreStack g) r).depth = .awake) → (kget 0 (s.core g).wm w.toNat).toNat + n < 2 ^ 32 →
      Does (.wmAdd a g.val w n) s fun t => (kget 0 (t.core g).wm w.toNat).toNat = (kget 0 (s.core g).wm w.toNat).toNat + n ∧ (t.ep a.rx).wmReplay.length = 1 ∧ t.hbm = s.hbm ∧ t.ml = s.ml) ∧
  (∀ (s : State) (t : PortId) (tag : Nat) (d : List Byte) (r : HostRead), (s.port t).pendingReads = [r] → r.tag = tag → r.op = .load → r.a.h.origin ≠ gwEp t →
      Does (.hostReadCompletion t tag d false) s fun z => (z.port t).pendingReads = [] ∧ z.queued (gwEp t) .readData r.a.h.origin (.line (slice d 0 64)) = true ∧ s.sameData z) ∧
  (∀ (s : State) (n : Nat) (q : RemOp) (f : Nat) (att : Attempt), s.ops = [q] → q.serial = n → q.first = some f → q.attempts = [att] → att.sent = true →
      att.answered = true → q.deadline = none → f + s.timeoutOf q.part ≤ s.copyNow q.snd → hasBit (s.ep q.snd).lost q.tgt.val = false →
      Does (.operationTimeout n) s fun t => t.ops.length = 1 ∧ (t.ops.map fun o => o.attempts.length) = [2] ∧ (t.ep q.snd).outbox.length = (s.ep q.snd).outbox.length + 1 ∧ s.sameData t)

/-- An ACK takes from each window what its counters have returned since the last one; the ACK timer sends one ACK 100 ticks after the oldest pending entry and
clears the entries; CREDIT takes the credits it returns from the count sent to its sender, or on the Turnpike to its origin, and none is owed for itself;
WINDOW_AUDIT of an endpoint that holds nothing is answered with 0 held and its freed counter; AUDIT_REPLY sets the window to what is held plus what was sent
since, less what came back since the target's count, in counters modulo 2^32; a window with blocks out is audited every 1 ms. It has a clause that concludes
completion (exec answers a next state) for each of: ACK, ACK_TIMER, CREDIT, WINDOW_AUDIT, AUDIT_REPLY, WINDOW_AUDIT_TIMER. (R429, R431, R434, R437) -/
def Obligations.AcksAndCredits : Prop :=
  (∀ (s : State) (a : Arr) (p : AckP), s.hears a → a.turnpike = true → p.entries = [] → a.h.origin.val < 28 → s.ops = [] →
      Does (.ack a p) s fun t => (t.link a.rx a.h.origin).win1 = (s.link a.rx a.h.origin).win1 - sub32 p.ret1 (s.link a.rx a.h.origin).ret1 ∧
      (t.link a.rx a.h.origin).win2 = (s.link a.rx a.h.origin).win2 - sub32 p.ret2 (s.link a.rx a.h.origin).ret2 ∧
      (t.link a.rx a.h.origin).ret1 = p.ret1 ∧ (t.link a.rx a.h.origin).ret2 = p.ret2 ∧ (t.link a.rx a.h.origin).tw = (s.link a.rx a.h.origin).tw ∧ s.sameData t) ∧
  (∀ (s : State) (e o : EpId) (k : AckState) (n : Nat), kget {} (s.ep e).acks o.val = k → k.oldest = some n → n + 100 ≤ s.now → k.entries.length ≤ 8 →
      Does (.ackTimer e o) s fun t => (kget {} (t.ep e).acks o.val).entries = [] ∧ (kget {} (t.ep e).acks o.val).oldest = none ∧ (kget {} (t.ep e).acks o.val).freed2 = k.freed2 ∧
      (t.ep e).outbox.length = (s.ep e).outbox.length + 1 ∧ s.sameData t) ∧
  (∀ (s : State) (a : Arr), s.hears a →
      Does (.credit a) s fun t => (t.ep a.rx).sentCredits = kmod 0 (s.ep a.rx).sentCredits (if a.turnpike then a.h.origin else a.link).val (· - a.h.credit.toNat) ∧
      (t.ep a.rx).credOwed = (s.ep a.rx).credOwed ∧ s.sameData t) ∧
  (∀ (s : State) (a : Arr), s.takesData a .windowAudit → s.dieGone a.rx .windowAudit = false → a.h.vc = 2 → (s.ep a.rx).held = [] → (s.ep a.rx).stalled = [] →
      Does (.windowAudit a) s fun t => t.queued a.rx .auditReply a.h.origin (.audit 2 false 0 (kget {} (s.ep a.rx).acks a.h.origin.val).freed2 (a.h.addr.toNat % 2 ^ 32)) = true ∧ s.sameData t) ∧
  (∀ (s : State) (a : Arr) (held ret n sent : Nat), s.hears a → a.turnpike = true → (s.link a.rx a.h.origin).audit2 = some (n, sent) →
      Does (.auditReply a 2 false held ret n) s fun t => ((t.link a.rx a.h.origin).win2 + sent + (s.link a.rx a.h.origin).ret2) % 2 ^ 32 =
      (held + (s.link a.rx a.h.origin).sent2 + ret) % 2 ^ 32 ∧ (t.link a.rx a.h.origin).win2 < 2 ^ 32 ∧ (t.link a.rx a.h.origin).audit2 = none ∧
      (t.link a.rx a.h.origin).win1 = (s.link a.rx a.h.origin).win1 ∧ s.sameData t) ∧
  (∀ (s : State) (i j : EpId), s.on = true → (s.ep i).isolated = false → 0 < (s.link i j).win2 → (s.link i j).auditTick.2 + 1000000 ≤ s.now →
      Does (.windowAuditTimer i j 2) s fun t => (t.link i j).auditNo = ((s.link i j).auditNo + 1) % 2 ^ 32 ∧
      t.queued i .windowAudit j (.auditReq (((s.link i j).auditNo + 1) % 2 ^ 32)) = true ∧ s.sameData t)

/-- A link sends the waiting packet of the best priority and takes it from the queue: a control packet other than CREDIT counts as sent to whoever returns its
credit, and every one takes up to 255 owed credits along, READ_DATA takes the next sequence and no window; a VC 2 packet that has waited 50 µs is promoted; an old
bank is idle 10,000 ticks after a flip; DRAIN_MARKER flips the accepted epoch and ends discarding, and 10,000 ticks without one flip it, begin discarding and
deliver what was held; HUB_STATE is kept; a hub sends its state to 31 endpoints; a control packet that rides the ring moves one segment, in the class that the
dateline gives; a STORE whose target is its own sender is delivered inside it. It has a clause that concludes completion (exec answers a next state) for each of:
PACKET_SEND, PROMOTION, BANK_IDLE_TIMEOUT, DRAIN_MARKER, EPOCH_HOLD_TIMEOUT, HUB_STATE, HUB_STATE_SEND, TURNPIKE_ENTRY, INTERNAL_DELIVERY. (R431, R432, R433,
R434, R441, R445, R446, R447, R449, R450, R649) -/
def Obligations.SendingAndRoutes : Prop :=
  (∀ (s : State) (i j : EpId) (x : TxEntry), s.on = true → (s.ep i).isolated = false → bestTx ((s.ep i).outbox.filter (s.sendable i j)) = some x →
      x.op.control = true →
      Does (.packetSend i j) s fun t => (t.ep i).outbox = (s.ep i).outbox.erase x ∧
      kget 0 (t.ep i).sentCredits (s.creditPeer i j x).val = kget 0 (s.ep i).sentCredits (s.creditPeer i j x).val + (if x.op = .credit then 0 else 1) ∧
      kget 0 (t.ep i).credOwed (s.creditPeer i j x).val = kget 0 (s.ep i).credOwed (s.creditPeer i j x).val - min 255 (kget 0 (s.ep i).credOwed (s.creditPeer i j x).val) ∧ t.out.length = s.out.length + 1 ∧ s.sameData t) ∧
  (∀ (s : State) (i j : EpId) (x : TxEntry), s.on = true → (s.ep i).isolated = false → bestTx ((s.ep i).outbox.filter (s.sendable i j)) = some x →
      x.op = .readData → x.transit = false → x.h.mcast = false → x.h.target = j → x.ops = [] → (∀ n, x.p ≠ .auditReq n) →
      Does (.packetSend i j) s fun t => (t.ep i).outbox = (s.ep i).outbox.erase x ∧ (t.link i j).seq = ((s.link i j).seq + 1) % 2 ^ 24 ∧
      (t.link i j).win2 = (s.link i j).win2 ∧ t.out.length = s.out.length + 1 ∧ s.sameData t) ∧
  (∀ (s : State) (e : EpId) (x : TxEntry), (s.ep e).outbox = [x] → x.op.control = false → x.transit = false → x.h.vc = 2 → x.promotedAt = none →
      x.since + 50000 ≤ s.now →
      Does (.promotion e) s fun t => (t.ep e).outbox = [{ x with promotedAt := some s.now }] ∧ s.sameData t ∧ (∀ d, d ≠ e → t.ep d = s.ep d)) ∧
  (∀ (s : State) (e : EpId), (s.ep e).drainWait ≠ [] → (s.ep e).flipTick + 10000 ≤ s.now → (s.ep e).routeWaits = false →
      Does (.bankIdleTimeout e) s fun t => t.ep e = { s.ep e with drainWait := [] } ∧ s.sameData t) ∧
  (∀ (s : State) (a : Arr), s.takesData a .drainMarker → (s.ep a.rx).held = [] → a.h.origin ≠ a.rx →
      Does (.drainMarker a) s fun t => kget false (t.ep a.rx).accEpoch (epochKey a.h.origin a.h.vc) = !kget false (s.ep a.rx).accEpoch (epochKey a.h.origin a.h.vc) ∧
      kget false (t.ep a.rx).discarding (epochKey a.h.origin a.h.vc) = false ∧ s.sameData t) ∧
  (∀ (s : State) (e o : EpId) (vc : BitVec 2) (k : HeldPkt), (s.ep e).held = [k] → k.a.h.origin = o → k.a.h.vc = vc → k.since + 10000 ≤ s.now →
      k.op = .windowAudit → k.a.rx = e → k.a.h.tag = 0 → k.a.h.epoch ≠ kget false (s.ep e).accEpoch (epochKey o vc) →
      Does (.epochHoldTimeout e o vc) s fun t => (t.ep e).held = [] ∧ kget false (t.ep e).accEpoch (epochKey o vc) = !kget false (s.ep e).accEpoch (epochKey o vc) ∧
      kget false (t.ep e).discarding (epochKey o vc) = true ∧ s.sameData t) ∧
  (∀ (s : State) (a : Arr) (m : BitVec 32) (r : BitVec 8) (h : TileId), s.hears a → a.h.origin = hubEp h →
      Does (.hubState a m r) s fun t => kget 0 (t.ep a.rx).hubMask h.val = m ∧ kget 0 (t.ep a.rx).hubRing h.val = r ∧ s.sameData t) ∧
  (∀ (s : State) (t : TileId), s.on = true → (s.ep (hubEp t)).isolated = false →
      Does (.hubStateSend t) s fun z => (z.ep (hubEp t)).outbox.length = (s.ep (hubEp t)).outbox.length + 31 ∧ s.sameData z) ∧
  (∀ (s : State) (t u : TileId) (x : TxEntry), (s.ep (hubEp t)).outbox = [x] → x.transit = true → x.ring = true → x.seg = none → tileOfEp x.h.target = u →
      u ≠ t → x.op.control = true → s.ringSeg = [] → s.hubDown t u = false → ((ringBetween t u).all (fun h => !s.hubDown t h) = true) →
      Does (.turnpikeEntry t) s fun z => (z.ep (hubEp t)).outbox = [] ∧ z.out.length = s.out.length + 1 ∧
      kget 0 z.ringSeg (2 * linkKey (hubEp t) (hubEp (ringAt (ringPos t + 1))) + b2n (dateline t (ringAt (ringPos t + 1)))) = 2 ∧ s.sameData z) ∧
  (∀ (s : State) (e : EpId) (x : StackId) (y : TxEntry) (be : BitVec 64) (d : List Byte) (pl : MlPlace) (r : RegionNo), e = stackEp x → (s.ep e).outbox = [y] →
      y.op = .store → y.p = .store be d → y.h.target = e → y.h.origin = e → y.transit = false → y.h.mcast = false → y.h.tag = 0 → y.h.iss = none →
      (s.stack x).mlLost = false → mlPlace y.h.loc = some pl → s.physOf pl.stack pl.cluster = some r → (s.region pl.stack r).depth = .awake → s.still →
      s.mlAccess .fabric (y.h.loc - y.h.loc % 64) (some y.since) = .ok → s.mlBad = [] → s.ops = [] →
      Does (.internalDelivery e {}) s fun t => (t.ep e).outbox = [] ∧ t.ml = memWriteEn s.ml (y.h.loc - y.h.loc % 64) (enabled be d) ∧ t.hbm = s.hbm ∧ t.cores = s.cores)

/-- 1,000 ticks before a start the sleeping regions that its programs name wake; a loader fetches the next program into the inactive bank, or calls for the clock
of a region that sleeps; at its tick a cluster enters the period, and each core with its program begins, cleared and seeded; a core's report of its part of an
output is noted once, with its tick; at the deadline every core of the cluster stops and its operations go; a kernel ends with status 0x10 at its tick limit. None
of these writes HBM3 or the memory layer. It has a clause that concludes completion (exec answers a next state) for each of: SCHEDULED_WAKE, PROGRAM_FETCH,
PERIOD_START, OUTPUT_PART_COMPLETE, DEADLINE, FREE_RUN_TICK_LIMIT, MARCH_DONE. (R168, R228, R229, R234, R237, R239, R241, R288, R550, R551) -/
def Obligations.PeriodStartsAndStops : Prop :=
  (∀ (s : State) (p : PartId) (k : Bundle) (n : Period) (x : StackId) (c : ClusterNo) (r : RegionNo), s.still → (s.part p).bundle = some k →
      (s.part p).nextPeriod = some n → n.start ≤ s.copyNow (s.gwOf p) + 1000 → x ∈ s.stacksOf p → s.physOf x c = some r →
      (s.region x r).depth = .clockStopped → (((coresOfCluster x c).any fun g => (k.progOf n.set g).isSome) = true) →
      Does (.scheduledWake p) s fun t => (t.region x r).depth = .awake ∧ t.parts = s.parts ∧ s.sameData t) ∧
  (∀ (s : State) (p : PartId) (n : Period), (s.part p).nextPeriod = some n → s.copyNow (s.gwOf p) + 1000 < n.start →
      Does (.scheduledWake p) s fun t => t = s) ∧
  (∀ (s : State) (g : CoreId) (p : PartId) (k : Bundle) (n : Period) (q : Program) (w : List (BitVec 64)), s.partOfStack (coreStack g) = some p →
      (s.part p).bundle = some k → (s.part p).nextPeriod = some n → k.progOf n.set g = some q → (s.core g).holds (s.core g).active q = false →
      (s.core g).nextLoaded = false → (s.stack (coreStack g)).cdLost = false → s.awakeAt (coreStack g) (coreCluster g) = true →
      (s.readProgram p k (coreStack g) (periodTag n.no) q).1 = some w →
      Does (.programFetch g) s fun t => (t.core g).nextLoaded = true ∧ (t.core g).bank ((s.core g).active + 1) = w ∧
      (t.core g).bank (s.core g).active = (s.core g).bank (s.core g).active ∧ (t.core g).active = (s.core g).active ∧
      (t.core g).c0 = (s.core g).c0 ∧ (t.core g).c1 = (s.core g).c1 ∧ t.hbm = s.hbm ∧ t.ml = s.ml) ∧
  (∀ (s : State) (g : CoreId) (p : PartId) (k : Bundle) (n : Period) (q : Program), s.partOfStack (coreStack g) = some p → (s.part p).bundle = some k →
      (s.part p).nextPeriod = some n → k.progOf n.set g = some q → (s.core g).holds (s.core g).active q = false → (s.core g).nextLoaded = false →
      (s.stack (coreStack g)).cdLost = false → s.awakeAt (coreStack g) (coreCluster g) = false →
      Does (.programFetch g) s fun t => t = s.callCluster (coreStack g) (coreCluster g)) ∧
  (∀ (s : State) (g : CoreId) (p : PartId) (k : Bundle) (n : Period) (q : Program), s.partOfStack (coreStack g) = some p → (s.part p).bundle = some k →
      (s.part p).nextPeriod = some n → k.progOf n.set g = some q → (s.core g).holds (s.core g).active q = true →
      Does (.programFetch g) s fun t => t = s) ∧
  (∀ (s : State) (x : StackId) (c : ClusterNo) (p : PartId) (k : Bundle) (n : Period), s.partOfStack x = some p → s.toStart p x c = some n → s.still →
      (s.part p).bundle = some k → (s.part p).kernel = none → n.stage = .noticed →
      Does (.periodStart x c) s fun t => (t.cluster x c).mode = 1 ∧ (t.cluster x c).period = n.no ∧ (t.cluster x c).start = n.start ∧
      (t.cluster x c).deadline = n.deadline ∧ (t.cluster x c).tag = periodTag n.no ∧ (t.cluster x c).barriers = k.barriersOf n.set x c ∧
      (t.part p).nextNo = n.no + 1 ∧ t.hbm = s.hbm ∧ t.ml = s.ml) ∧
  (∀ (s : State) (x : StackId) (c : ClusterNo) (p : PartId) (k : Bundle) (n : Period) (g : CoreId) (q : Program), s.partOfStack x = some p →
      s.toStart p x c = some n → s.still → (s.part p).bundle = some k → (s.part p).kernel = none → g ∈ coresOfCluster x c → k.progOf n.set g = some q →
      (s.core g).holds (s.core g).active q = true →
      Does (.periodStart x c) s fun t => t.core g = (s.core g).begin n.seed g q ∧ t.hbm = s.hbm ∧ t.ml = s.ml) ∧
  (∀ (s : State) (x : StackId) (c : ClusterNo) (p : PartId) (k : Bundle) (n : Period) (g : CoreId) (q : Program), s.partOfStack x = some p →
      s.toStart p x c = some n → s.still → (s.part p).bundle = some k → (s.part p).kernel = none → g ∈ coresOfCluster x c → k.progOf n.set g = some q →
      (s.core g).holds (s.core g).active q = false → (s.core g).nextLoaded = true → (s.core g).holds ((s.core g).active + 1) q = true →
      Does (.periodStart x c) s fun t => t.core g = { (s.core g).begin n.seed g q with active := (s.core g).active + 1, nextLoaded := false } ∧ t.hbm = s.hbm ∧ t.ml = s.ml) ∧
  (∀ (s : State) (x : StackId) (c : ClusterNo) (p : PartId), s.partOfStack x = some p → s.toStart p x c = none →
      Does (.periodStart x c) s fun t => t = s) ∧
  (∀ (s : State) (g : CoreId) (o : Fin 2 × Nat × Nat) (p : PartId) (n : Period), (s.core g).outs = [o] → s.outRipe g o = true →
      (s.cluster (coreStack g) (coreCluster g)).mode = 1 → s.partOfStack (coreStack g) = some p → (s.part p).periods = [n] →
      n.no = (s.cluster (coreStack g) (coreCluster g)).period → n.stage = .running → ((n.outs.any fun d => d.number = o.2.1) = true) →
      Does (.outputPartComplete g) s fun t => (t.core g).outs = [] ∧ (t.part p).periods = [{ n with reports := if (n.reports.any fun r => r.out = o.2.1 && r.core = g.val) then n.reports else n.reports ++ [⟨o.2.1, g.val, s.clusterNow (coreStack g) (coreCluster g)⟩] }] ∧
      (t.core g).c0 = (s.core g).c0 ∧ (t.core g).c1 = (s.core g).c1 ∧ t.hbm = s.hbm ∧ t.ml = s.ml) ∧
  (∀ (s : State) (g : CoreId), (s.core g).outs = [] →
      Does (.outputPartComplete g) s fun t => t = s) ∧
  (∀ (s : State) (x : StackId) (c : ClusterNo) (g : CoreId), (s.cluster x c).mode = 1 → (s.cluster x c).deadline < s.clusterNow x c → g ∈ coresOfCluster x c →
      Does (.deadline x c) s fun t => (t.cluster x c).mode = 0 ∧ (t.cluster x c).tag = 0 ∧ (t.cluster x c).done = (s.cluster x c).period ∧
      t.core g = (s.core g).stop ∧ t.ops = s.ops.filter (fun o => !o.ofCluster x c) ∧ t.hbm = s.hbm ∧ t.ml = s.ml) ∧
  (∀ (s : State) (x : StackId) (c : ClusterNo), s.clusterNow x c < (s.cluster x c).deadline →
      Does (.deadline x c) s fun t => t = s) ∧
  (∀ (s : State) (p : PartId) (k : Kernel) (l : Nat) (x : StackId) (g : CoreId), (s.part p).kernel = some k → k.launch = some l →
      l + k.limit ≤ s.copyNow (s.gwOf p) → k.fault = none → s.lone p k.d → x ∈ s.stacksOf p → g.val / 1536 = x.val →
      Does (.freeRunTickLimit p) s fun t => (t.part p).kernel = none ∧ t.core g = (s.core g).stop ∧ s.recorded t p k.d 0x10 0 ∧ t.hbm = s.hbm ∧ t.ml = s.ml) ∧
  (∀ (s : State) (p : PartId) (k : Kernel) (l : Nat), (s.part p).kernel = some k → k.launch = some l → s.copyNow (s.gwOf p) < l + k.limit →
      Does (.freeRunTickLimit p) s fun t => t = s) ∧
  (∀ (s : State) (x : StackId) (m : MarchResult), (s.stack x).marching = some false → s.still → (∀ p, s.partOfStack x = some p → (s.part p).descs = []) →
      m.failed = [] →
      Does (.marchDone x m) s fun t => (t.stack x).marching = none ∧ t.ml = memZero s.ml (x.val * 2 ^ 29) (2 ^ 29) ∧ t.hbm = s.hbm) ∧
  (∀ (s : State) (x : StackId) (m : MarchResult) (r : RegionNo) (row k : Nat), (s.stack x).marching = some true → s.still →
      (∀ p, s.partOfStack x = some p → (s.part p).descs = []) → m.badSpares = [] → m.failed = [(r, row)] →
      ((sparesOf row).find? (fun q => !((s.region x r).repairs.filter fun e => e.1 ≠ row).any (fun e => e.2 = q) && !(s.region x r).badSpares.any (fun e => e = q)) = some k) →
      Does (.marchDone x m) s fun t => (t.stack x).marching = none ∧ (t.region x r).repairs = ((s.region x r).repairs.filter fun e => e.1 ≠ row) ++ [(row, k)] ∧
      (t.region x r).unrepairable = (s.region x r).unrepairable ∧ s.sameData t)

/-- From its deadline a replica flips the output pages; a stack with a missing part sends PERIOD_FAIL to the gateway, twice more at 100 and 200 ticks; an endpoint
that hears PERIOD_FAIL stops the period there, and one that hears it after K ignores it; at K a replica confirms its flip, or takes it back; when every replica
has decided, the period is the last commit. It has a clause that concludes completion (exec answers a next state) for each of: COMMIT_FLIP, STACK_JUDGEMENT,
PERIOD_FAIL_REPEAT, PERIOD_NOTICE, PERIOD_FAIL, CONFIRMATION_TICK. (R350, R453, R552, R553, R555) -/
def Obligations.PeriodDecisions : Prop :=
  (∀ (s : State) (p : PartId) (t : TileId) (n : Period), (s.part p).periods = [n] → n.stage = .ended → hasBit n.flipped t.val = false →
      hasBit n.failSeen t.val = false → hasBit n.decided t.val = false → n.deadline + max 1 ((n.pages.length + 63) / 64) ≤ s.copyNow (hubEp t) →
      hasBit s.pm.repDown t.val = false → s.ops = [] →
      Does (.commitFlip p t) s fun r => r.pm.rep t = n.pages.foldl (fun m q => kmod 0 m q eFlip) (s.pm.rep t) ∧ (∀ u, u ≠ t → r.pm.rep u = s.pm.rep u) ∧
      (r.part p).periods = [{ n with flipped := putBit n.flipped t.val true }] ∧ s.sameData r) ∧
  (∀ (s : State) (p : PartId) (t : TileId) (n : Period), (s.part p).periods = [n] → s.copyNow (hubEp t) ≤ n.deadline →
      Does (.commitFlip p t) s fun r => r = s) ∧
  (∀ (s : State) (x : StackId) (p : PartId) (n : Period), s.partOfStack x = some p → (s.part p).periods = [n] → n.stage = .ended →
      hasBit n.judged x.val = false → n.deadline + 14 ≤ s.copyNow (stackEp x) → n.stackComplete x = true →
      Does (.stackJudgement x) s fun r => (r.part p).periods = [{ n with judged := putBit n.judged x.val true }] ∧ r.eps = s.eps ∧ s.sameData r) ∧
  (∀ (s : State) (x : StackId) (p : PartId) (n : Period), s.partOfStack x = some p → (s.part p).periods = [n] → n.stage = .ended →
      hasBit n.judged x.val = false → n.deadline + 14 ≤ s.copyNow (stackEp x) → n.stackComplete x = false → (s.stack x).cdLost = false →
      Does (.stackJudgement x) s fun r => r.queued (stackEp x) .periodFail (s.gwOf p) (.fail (periodTag n.no) n.deadline) = true ∧
      ((r.part p).periods.map fun m => m.sentFail) = [n.sentFail ++ [(stackEp x, s.now, 1)]] ∧ s.sameData r) ∧
  (∀ (s : State) (p : PartId) (x : StackId) (n : Period) (t0 k : Nat), (s.part p).periods = [n] → n.sentFail = [(stackEp x, t0, k)] → k < 3 →
      t0 + 100 * k ≤ s.now →
      Does (.periodFailRepeat (stackEp x) p) s fun r => r.queued (stackEp x) .periodFail (s.gwOf p) (.fail (periodTag n.no) n.deadline) = true ∧
      (r.part p).periods = [{ n with sentFail := [(stackEp x, t0, k + 1)] }] ∧ s.sameData r) ∧
  (∀ (s : State) (a : Arr) (tag : BitVec 8) (start dl : Nat), s.hears a →
      Does (.periodNotice a tag start dl) s fun r => (⟨tag, start, dl⟩ : TagWin) ∈ (kget {} (r.ep a.rx).tags a.h.part.val).wins ∧ r.parts = s.parts ∧ s.sameData r) ∧
  (∀ (s : State) (a : Arr) (tag : BitVec 8) (tick : Nat) (n : Period) (h : TileId), s.hears a → (s.part a.h.part).block = .committed →
      (s.part a.h.part).periods = [n] → n.stage ≠ .noticed → periodTag n.no = tag → s.copyNow a.rx < n.deadline + 3300 → epHub a.rx = some h →
      epStack a.rx = none → s.ops = [] → (s.part a.h.part).descs = [] →
      Does (.periodFail a tag tick) s fun r => (r.part a.h.part).periods = [{ n with failSeen := putBit n.failSeen h.val true }] ∧
      (kget {} (r.ep a.rx).tags a.h.part.val).wins = (kget {} (s.ep a.rx).tags a.h.part.val).wins.filter (fun w => w.tag ≠ tag) ∧ s.sameData r) ∧
  (∀ (s : State) (a : Arr) (tag : BitVec 8) (tick : Nat) (n : Period) (x : StackId) (c : ClusterNo) (g : CoreId), s.hears a →
      (s.part a.h.part).block = .committed → (s.part a.h.part).periods = [n] → n.stage ≠ .noticed → periodTag n.no = tag →
      s.copyNow a.rx < n.deadline + 3300 → epStack a.rx = some x → hasBit (s.part a.h.part).stackMask x.val = true → c ∈ s.clustersOf x →
      (s.cluster x c).mode = 1 → (s.cluster x c).period = n.no → g ∈ coresOfCluster x c → (s.part a.h.part).kernel = none →
      Does (.periodFail a tag tick) s fun r => (r.cluster x c).mode = 0 ∧ r.core g = (s.core g).stop ∧ r.hbm = s.hbm ∧ r.ml = s.ml) ∧
  (∀ (s : State) (a : Arr) (tag : BitVec 8) (tick : Nat) (n : Period), s.hears a → (s.part a.h.part).block = .committed → (s.part a.h.part).periods = [n] →
      n.stage ≠ .noticed → periodTag n.no = tag → n.deadline + 3300 ≤ s.copyNow a.rx →
      Does (.periodFail a tag tick) s fun r => r.parts = s.parts ∧ s.sameData r ∧
      r.evr = s.evr.offer s.now { code := 0xB006, sev := err, cls := 0x0E, num := a.h.part.val, part := some a.h.part, detail := BitVec.ofNat 96 a.rx.val }) ∧
  (∀ (s : State) (p : PartId) (t : TileId) (n : Period), (s.part p).periods = [n] → n.stage = .ended → hasBit n.decided t.val = false →
      n.deadline + 3300 ≤ s.copyNow (hubEp t) → hasBit n.failSeen t.val = false → hasBit n.lossSeen t.val = false → hasBit n.flipped t.val = true →
      hasBit s.pm.repDown t.val = false → putBit n.decided t.val true ||| s.pm.repDown ≠ 0xF → s.ops = [] → (∀ e, (s.ep e).stalled = []) →
      Does (.confirmationTick p t) s fun r => (r.part p).periods = [{ n with decided := putBit n.decided t.val true, confirmed := putBit n.confirmed t.val true }] ∧
      (∀ u, r.pm.rep u = s.pm.rep u) ∧ s.sameData r) ∧
  (∀ (s : State) (p : PartId) (t : TileId) (n : Period), (s.part p).periods = [n] → n.stage = .ended → hasBit n.decided t.val = false →
      n.deadline + 3300 ≤ s.copyNow (hubEp t) → hasBit n.failSeen t.val = true → hasBit n.flipped t.val = true → hasBit s.pm.repDown t.val = false →
      putBit n.decided t.val true ||| s.pm.repDown ≠ 0xF → s.ops = [] → (∀ e, (s.ep e).stalled = []) →
      Does (.confirmationTick p t) s fun r => (r.part p).periods = [{ n with decided := putBit n.decided t.val true, confirmed := putBit n.confirmed t.val false }] ∧
      r.pm.rep t = n.pages.foldl (fun m q => kmod 0 m q eFlip) (s.pm.rep t) ∧ (∀ u, u ≠ t → r.pm.rep u = s.pm.rep u) ∧ s.sameData r) ∧
  (∀ (s : State) (p : PartId) (t : TileId) (n : Period), (s.part p).periods = [n] → n.stage = .ended → hasBit n.decided t.val = false →
      n.deadline + 3300 ≤ s.copyNow (hubEp t) → hasBit n.failSeen t.val = false → hasBit n.lossSeen t.val = false → hasBit n.flipped t.val = true →
      hasBit s.pm.repDown t.val = false → putBit n.decided t.val true = 0xF → hasBit (putBit n.confirmed t.val true) (s.servTile (s.gwOf p)).val = true →
      s.ops = [] → (∀ e, (s.ep e).stalled = []) →
      Does (.confirmationTick p t) s fun r => (r.part p).lastCommit = n.no ∧ (∀ u, r.pm.rep u = s.pm.rep u) ∧ s.sameData r)

/-- A host write takes a held line and schedules a wake at once or 200 ticks after the last one; a wake that is due reads a lost line, holds it again, and a slot
of it that has changed sets the tail of its submission ring and the head of its completion ring; a fetch of the next ring takes its one waiting descriptor, and
one with an unknown type completes with status 1; a record that waited is written at its slot and phase once its ring has room; a waiting message goes out once
its moderation has passed, and sets the next one. None of them changes memory or a core. It has a clause that concludes completion (exec answers a next state) for
each of: DOORBELL_SNOOP, DOORBELL_WAKE, DESCRIPTOR_FETCH, COMPLETION_RECORD_WRITE, MSIX_MESSAGE. (R532, R534, R535, R536, R540, R543, R545) -/
def Obligations.RingsAndDoorbells : Prop :=
  (∀ (s : State) (p : PartId) (l : Fin 8), s.live p = true → hasBit (s.part p).heldLines l.val = true → (s.part p).wakeAt = none →
      Does (.doorbellSnoop p l) s fun t => t = s.modPart p fun b => { b with heldLines := putBit b.heldLines l.val false, lostLines := putBit b.lostLines l.val true, wakeAt := some (max s.now (b.lastWake + 200)) }) ∧
  (∀ (s : State) (p : PartId) (l : Fin 8), hasBit (s.part p).heldLines l.val = false →
      Does (.doorbellSnoop p l) s fun t => t = s) ∧
  (∀ (s : State) (p : PartId) (v : List (BitVec 64)) (l j : Fin 8) (w : Nat), s.live p = true → (s.part p).wakeAt = some w → w ≤ s.now →
      (s.part p).lostLines = putBit 0 l.val true → (s.part p).resync = false → v.length = 64 →
      (∀ i : Fin 8, i ≠ j → v.getD (8 * l.val + i.val) 0 = (kget [] (s.part p).lines l.val).getD i.val 0) →
      (v.getD (8 * l.val + j.val) 0) ≠ (kget [] (s.part p).lines l.val).getD j.val 0 → (kget {} (s.part p).rings (8 * l.val + j.val)).enabled = true →
      (kget {} (s.part p).crings (8 * l.val + j.val)).enabled = true →
      0 < diff32 ((v.getD (8 * l.val + j.val) 0).setWidth 32) (kget {} (s.part p).rings (8 * l.val + j.val)).fetch →
      diff32 ((v.getD (8 * l.val + j.val) 0).setWidth 32) (kget {} (s.part p).rings (8 * l.val + j.val)).fetch ≤ (kget {} (s.part p).rings (8 * l.val + j.val)).entries →
      diff32 (kget {} (s.part p).crings (8 * l.val + j.val)).write (((v.getD (8 * l.val + j.val) 0) >>> 32).setWidth 32) ≤ (kget {} (s.part p).crings (8 * l.val + j.val)).entries →
      Does (.doorbellWake p v) s fun t => (kget {} (t.part p).rings (8 * l.val + j.val)).tail = (v.getD (8 * l.val + j.val) 0).setWidth 32 ∧ (kget {} (t.part p).rings (8 * l.val + j.val)).fetch = (kget {} (s.part p).rings (8 * l.val + j.val)).fetch ∧
      (kget {} (t.part p).crings (8 * l.val + j.val)).head = ((v.getD (8 * l.val + j.val) 0) >>> 32).setWidth 32 ∧
      (t.part p).lostLines = 0 ∧ (t.part p).heldLines = (s.part p).heldLines ||| (s.part p).lostLines ∧ (t.part p).wakeAt = none ∧ (t.part p).lastWake = s.now ∧ s.sameData t) ∧
  (∀ (s : State) (p : PartId) (r : Fin 64) (bs : List Byte), s.live p = true → (s.port (s.part p).servPort).detached = false →
      (s.part p).nextRing = some r.val → (s.part p).compl = [] → (s.part p).descs = [] →
      diff32 (kget {} (s.part p).rings r.val).tail (kget {} (s.part p).rings r.val).fetch = 1 → bs.length = 64 → (bs.getD 0 0).toNat ≤ 0x0D →
      (bs.getD 1 0).toNat < 4 → (bs.getD 2 0).toNat < 64 → field bs 3 5 = 0 → (kget {} (s.part p).crings (bs.getD 2 0).toNat).enabled = true →
      Does (.descriptorFetch p r [bs]) s fun t => (t.part p).descs = [{ serial := s.nextOp, d := ⟨r.val, (kget {} (s.part p).rings r.val).fetch.toNat % (kget {} (s.part p).rings r.val).entries, (bs.getD 2 0).toNat, (bs.getD 0 0).toNat⟩, bytes := bs }] ∧
      (kget {} (t.part p).rings r.val).fetch = (kget {} (s.part p).rings r.val).fetch + 1 ∧
      t.out = .hostRead (s.part p).servPort ((kget {} (s.part p).rings r.val).base + 64 * ((kget {} (s.part p).rings r.val).fetch.toNat % (kget {} (s.part p).rings r.val).entries)) 64 :: s.out ∧ s.sameData t) ∧
  (∀ (s : State) (p : PartId) (r : Fin 64) (bs : List Byte), s.live p = true → (s.port (s.part p).servPort).detached = false →
      (s.part p).nextRing = some r.val → (s.part p).compl = [] → (s.part p).descs = [] →
      diff32 (kget {} (s.part p).rings r.val).tail (kget {} (s.part p).rings r.val).fetch = 1 → bs.length = 64 → 0x0D < (bs.getD 0 0).toNat →
      (bs.getD 2 0).toNat < 64 → (kget {} (s.part p).crings (bs.getD 2 0).toNat).room = true →
      Does (.descriptorFetch p r [bs]) s fun t => s.recorded t p ⟨r.val, (kget {} (s.part p).rings r.val).fetch.toNat % (kget {} (s.part p).rings r.val).entries, (bs.getD 2 0).toNat, (bs.getD 0 0).toNat⟩ 1 0 ∧ s.sameData t) ∧
  (∀ (s : State) (p : PartId) (r : Fin 64) (bs : List (List Byte)),
      (s.live p = false ∨ (kget {} (s.part p).rings r.val).enabled = false ∨ 256 ≤ (s.part p).compl.length) →
      Does (.descriptorFetch p r bs) s fun t => t = s) ∧
  (∀ (s : State) (p : PartId) (r : Fin 64) (c : Compl), s.live p = true → (s.part p).compl = [c] → c.d.cring = r.val →
      (kget {} (s.part p).crings r.val).room = true →
      Does (.completionRecordWrite p r) s fun t => (t.part p).compl = [] ∧ (kget {} (t.part p).crings r.val).write = (kget {} (s.part p).crings r.val).write + 1 ∧
      .hostWrite (s.part p).servPort ((kget {} (s.part p).crings r.val).base + 32 * ((kget {} (s.part p).crings r.val).write.toNat % (kget {} (s.part p).crings r.val).entries)) (c.bytes ((kget {} (s.part p).crings r.val).write.toNat / (kget {} (s.part p).crings r.val).entries % 2 = 0)) ∈ t.out ∧ s.sameData t) ∧
  (∀ (s : State) (p : PartId) (r : Fin 64), (kget {} (s.part p).crings r.val).room = false →
      Does (.completionRecordWrite p r) s fun t => t = s) ∧
  (∀ (s : State) (p : PartId) (r : Fin 64), s.hostUp (s.part p).servPort = true → (s.port (s.part p).servPort).msixPend.contains (64 * p.val + r.val) = true →
      hasBit (s.part p).irq r.val = true → kget 0 (s.port (s.part p).servPort).msixNext (64 * p.val + r.val) ≤ s.now →
      Does (.msixMessage p r) s fun t => t.out = .msix (s.part p).servPort (64 * p.val + r.val) :: s.out ∧ kget 0 (t.port (s.part p).servPort).msixNext (64 * p.val + r.val) = s.now + (kget {} (s.part p).crings r.val).moder ∧
      (t.port (s.part p).servPort).msixPend.contains (64 * p.val + r.val) = false ∧ t.parts = s.parts ∧ s.sameData t)

/-- For a descriptor whose turn has come, alone in its partition and with room for its record: NOP and FENCE write theirs, and a FENCE behind an earlier
descriptor of its ring only becomes accepted; COPY_IN and FILL write what writeBytes writes line by line, and COPY_IN of one line into a slice writes exactly its
bytes; COPY_OUT puts what readBytes reads in host memory; a COPY_IN whose line fails ends with that status and the bytes done; PAGE_MAP_UPDATE offers its records
to the loader; WAYMARK_SET sets one waymark of a running kernel; SEAL_FETCH and HEALTH_QUERY write their bytes to host memory; MARCH_TEST starts the engines of
the stacks that it names, and a destructive one under a bundle ends with status 2; malformed copies, fills, page-map updates and health queries end with status 1.
It has a clause that concludes completion (exec answers a next state) for each of: NOP_DESCRIPTOR, FENCE_DESCRIPTOR, COPY_IN, COPY_OUT, FILL, PAGE_MAP_UPDATE,
WAYMARK_SET, SEAL_FETCH, MARCH_TEST, HEALTH_QUERY. (R226, R333, R357, R538, R539, R540, R541, R542, R543, R544, R555, R614) -/
def Obligations.DescriptorsOfMemory : Prop :=
  (∀ (s : State) (p : PartId) (n : Nat) (d : Desc), s.turn p n 0x00 = some d → s.lone p d.d →
      Does (.nopDescriptor p n) s fun t => s.recorded t p d.d (if d.clean [] then 0 else 1) 0 ∧ s.sameData t) ∧
  (∀ (s : State) (p : PartId) (n : Nat) (d : Desc), s.turn p n 0x07 = some d → s.lone p d.d → d.clean [] = true →
      Does (.fenceDescriptor p n) s fun t => s.recorded t p d.d 0 0 ∧ s.sameData t) ∧
  (∀ (s : State) (p : PartId) (n : Nat) (d : Desc), s.turn p n 0x07 = some d → d.clean [] = true → (s.part p).alone d = false →
      (∀ x ∈ (s.part p).descs, (s.part p).badHeader x = false) →
      Does (.fenceDescriptor p n) s fun t => t = s.acceptDesc p n) ∧
  (∀ (s : State) (p : PartId) (n : Nat) (d : Desc) (h : List Byte) (e : Ecc), s.turn p n 0x04 = some d → s.lone p d.d → d.claims = false →
      d.clean [(8, 20)] = true → (d.field 0x18 4) ≠ 0 → (touchesMl (d.field 0x10 8) (d.field 0x18 4) = false ∨ s.stopped? p = none) →
      (((linesFrom (d.field 0x10 8) (d.field 0x18 4)).any fun q => s.lineWaits (s.gwOf p) p .copyWrite .desc 0 d.wait q.1) = false) →
      ((s.acceptDesc p n).writeBytes (s.gwOf p) p .desc d.wait e h (d.field 0x10 8) (linesFrom (d.field 0x10 8) (d.field 0x18 4)) 0).2.1 = none →
      Does (.copyIn p n h e none) s fun t => t.hbm = ((s.acceptDesc p n).writeBytes (s.gwOf p) p .desc d.wait e h (d.field 0x10 8) (linesFrom (d.field 0x10 8) (d.field 0x18 4)) 0).2.2.hbm ∧ t.ml = ((s.acceptDesc p n).writeBytes (s.gwOf p) p .desc d.wait e h (d.field 0x10 8) (linesFrom (d.field 0x10 8) (d.field 0x18 4)) 0).2.2.ml ∧ s.recorded t p d.d 0 0 (d.field 0x18 4) ∧ t.cores = s.cores) ∧
  (∀ (s : State) (p : PartId) (n : Nat) (d : Desc) (h : List Byte) (e : Ecc) (st : BitVec 4), s.turn p n 0x04 = some d → s.lone p d.d → d.claims = false →
      d.clean [(8, 20)] = true → (d.field 0x18 4) ≠ 0 → (touchesMl (d.field 0x10 8) (d.field 0x18 4) = false ∨ s.stopped? p = none) →
      (((linesFrom (d.field 0x10 8) (d.field 0x18 4)).any fun q => s.lineWaits (s.gwOf p) p .copyWrite .desc 0 d.wait q.1) = false) →
      ((s.acceptDesc p n).writeBytes (s.gwOf p) p .desc d.wait e h (d.field 0x10 8) (linesFrom (d.field 0x10 8) (d.field 0x18 4)) 0).2.1 = some st →
      Does (.copyIn p n h e none) s fun t => s.recorded t p d.d (descStatus st).1 (descStatus st).2 ((s.acceptDesc p n).writeBytes (s.gwOf p) p .desc d.wait e h (d.field 0x10 8) (linesFrom (d.field 0x10 8) (d.field 0x18 4)) 0).1 ∧ t.cores = s.cores) ∧
  (∀ (s : State) (p : PartId) (n : Nat) (d : Desc) (h : List Byte) (e : Ecc), s.turn p n 0x04 = some d → s.lone p d.d →
      (d.clean [(8, 20)] = false ∨ (d.field 0x18 4) = 0) →
      Does (.copyIn p n h e none) s fun t => s.recorded t p d.d 1 0 ∧ s.sameData t) ∧
  (∀ (s : State) (p : PartId) (n : Nat) (d : Desc) (h : List Byte) (q : Place) (k : StackId), s.turn p n 0x04 = some d → s.lone p d.d → d.claims = false →
      d.clean [(8, 20)] = true → 0 < d.field 0x18 4 → d.field 0x10 8 % 64 + d.field 0x18 4 ≤ 64 → h.length = d.field 0x18 4 →
      (touchesMl (d.field 0x10 8) (d.field 0x18 4) = false ∨ s.stopped? p = none) →
      (s.check (s.gwOf p) p .copyWrite .desc 0 (d.field 0x10 8)).1 = .ok [q] none → epStack q.tgt = some k → s.placeUp (s.gwOf p) q = true →
      s.mlAccess .gateway q.loc d.wait = .ok → s.mlBad = [] →
      Does (.copyIn p n h {} none) s fun t => t.ml = memWrite s.ml q.loc h ∧ t.hbm = s.hbm ∧ s.recorded t p d.d 0 0 (d.field 0x18 4) ∧ t.cores = s.cores) ∧
  (∀ (s : State) (p : PartId) (n : Nat) (d : Desc) (h : List Byte) (e : Ecc), s.turn p n 0x05 = some d → s.lone p d.d → d.claims = false →
      d.clean [(8, 20)] = true → (d.field 0x18 4) ≠ 0 →
      ((s.acceptDesc p n).readBytes (s.gwOf p) p .desc 0 d.wait e h (d.field 0x08 8) (linesFrom (d.field 0x08 8) (d.field 0x18 4))).1.length = d.field 0x18 4 →
      (touchesMl (d.field 0x08 8) (d.field 0x18 4) = false ∨ s.stopped? p = none) →
      (((linesFrom (d.field 0x08 8) (d.field 0x18 4)).any fun q => s.lineWaits (s.gwOf p) p .read .desc 0 d.wait q.1) = false) →
      ((s.acceptDesc p n).readBytes (s.gwOf p) p .desc 0 d.wait e h (d.field 0x08 8) (linesFrom (d.field 0x08 8) (d.field 0x18 4))).2.1 = none →
      Does (.copyOut p n h e none) s fun t => .hostWrite (s.part p).servPort (d.field 0x10 8) ((s.acceptDesc p n).readBytes (s.gwOf p) p .desc 0 d.wait e h (d.field 0x08 8) (linesFrom (d.field 0x08 8) (d.field 0x18 4))).1 ∈ t.out ∧ t.hbm = s.hbm ∧ t.ml = s.ml ∧ s.recorded t p d.d 0 0 (d.field 0x18 4) ∧ t.cores = s.cores) ∧
  (∀ (s : State) (p : PartId) (n : Nat) (d : Desc) (h : List Byte) (e : Ecc), s.turn p n 0x05 = some d → s.lone p d.d →
      (d.clean [(8, 20)] = false ∨ (d.field 0x18 4) = 0) →
      Does (.copyOut p n h e none) s fun t => s.recorded t p d.d 1 0 ∧ s.sameData t) ∧
  (∀ (s : State) (p : PartId) (n : Nat) (d : Desc) (e : Ecc), s.turn p n 0x06 = some d → s.lone p d.d → d.claims = false → d.clean [(8, 12), (0x18, 8)] = true →
      (d.field 0x10 4) ≠ 0 → (touchesMl (d.field 0x08 8) (d.field 0x10 4) = false ∨ s.stopped? p = none) →
      (((linesFrom (d.field 0x08 8) (d.field 0x10 4)).any fun q => s.lineWaits (s.gwOf p) p .copyWrite .desc 0 d.wait q.1) = false) →
      (((s.acceptDesc p n).writeBytes (s.gwOf p) p .desc d.wait e ((List.range (d.field 0x10 4)).map fun i => (leBytes 8 (d.field 0x18 8)).getD (i % 8) 0) (d.field 0x08 8) (linesFrom (d.field 0x08 8) (d.field 0x10 4)) 0).2.1 = none) →
      Does (.fill p n e none) s fun t => t.hbm = ((s.acceptDesc p n).writeBytes (s.gwOf p) p .desc d.wait e ((List.range (d.field 0x10 4)).map fun i => (leBytes 8 (d.field 0x18 8)).getD (i % 8) 0) (d.field 0x08 8) (linesFrom (d.field 0x08 8) (d.field 0x10 4)) 0).2.2.hbm ∧ t.ml = ((s.acceptDesc p n).writeBytes (s.gwOf p) p .desc d.wait e ((List.range (d.field 0x10 4)).map fun i => (leBytes 8 (d.field 0x18 8)).getD (i % 8) 0) (d.field 0x08 8) (linesFrom (d.field 0x08 8) (d.field 0x10 4)) 0).2.2.ml ∧ s.recorded t p d.d 0 0 (d.field 0x10 4) ∧ t.cores = s.cores) ∧
  (∀ (s : State) (p : PartId) (n : Nat) (d : Desc) (e : Ecc), s.turn p n 0x06 = some d → s.lone p d.d →
      (d.clean [(8, 12), (0x18, 8)] = false ∨ (d.field 0x10 4) = 0) →
      Does (.fill p n e none) s fun t => s.recorded t p d.d 1 0 ∧ s.sameData t) ∧
  (∀ (s : State) (p : PartId) (n : Nat) (d : Desc) (bs : List Byte) (recs : List (Nat × BitVec 64)), s.turn p n 0x08 = some d → d.clean [(8, 11)] = true →
      1 ≤ d.field 0x10 2 ∧ d.field 0x10 2 ≤ 4096 → d.byte 0x12 ≤ 1 → mapRecords bs (d.field 0x10 2) = some recs →
      (∀ x ∈ (s.part p).descs, (s.part p).badHeader x = false) →
      Does (.pageMapUpdate p n bs) s fun t => t.pm.waiting = s.pm.waiting ++ [{ src := .desc p d.d, flip := (d.byte 0x12 = 1), recs }] ∧ t.pm.rep0 = s.pm.rep0 ∧ t.parts = (s.acceptDesc p n).parts ∧ s.sameData t) ∧
  (∀ (s : State) (p : PartId) (n : Nat) (d : Desc) (bs : List Byte), s.turn p n 0x08 = some d → s.lone p d.d →
      (d.clean [(8, 11)] = false ∨ d.field 0x10 2 = 0 ∨ 1 < d.byte 0x12) →
      Does (.pageMapUpdate p n bs) s fun t => s.recorded t p d.d 1 0 ∧ t.pm = s.pm ∧ s.sameData t) ∧
  (∀ (s : State) (p : PartId) (n : Nat) (d : Desc) (g : CoreId) (k : Kernel) (l : Nat), s.turn p n 0x09 = some d → s.lone p d.d →
      d.clean [(8, 3), (0xC, 4)] = true → d.byte 0x0A < 64 → d.field 8 2 < 24576 → (s.part p).work ≠ .stopped → (s.part p).work ≠ .resetting →
      g.val = d.field 8 2 → (s.part p).kernel = some k → k.launch = some l → hasBit (s.part p).stackMask (g.val / 1536) = true →
      Does (.waymarkSet p n) s fun t => kget 0 (t.core g).wm (d.byte 0x0A) = BitVec.ofNat 32 (d.field 0xC 4) ∧ (t.core g).tiles = (s.core g).tiles ∧
      (∀ w : Fin 64, w.val ≠ d.byte 0x0A → kget 0 (t.core g).wm w.val = kget 0 (s.core g).wm w.val) ∧ s.recorded t p d.d 0 0 ∧ t.hbm = s.hbm ∧ t.ml = s.ml) ∧
  (∀ (s : State) (p : PartId) (n : Nat) (d : Desc), s.turn p n 0x09 = some d → s.lone p d.d → d.clean [(8, 3), (0xC, 4)] = true → d.byte 0x0A < 64 →
      d.field 8 2 < 24576 → (s.part p).work ≠ .stopped → (s.part p).work ≠ .resetting → (s.part p).kernel = none →
      Does (.waymarkSet p n) s fun t => s.recorded t p d.d 2 0 ∧ s.sameData t) ∧
  (∀ (s : State) (p : PartId) (n : Nat) (d : Desc) (x : Seal), s.turn p n 0x0B = some d → s.lone p d.d → d.clean [(8, 16)] = true → (s.part p).seals = [x] →
      x.period = d.field 8 8 →
      Does (.sealFetch p n) s fun t => .hostWrite (s.part p).servPort (d.field 0x10 8) x.bytes ∈ t.out ∧ s.recorded t p d.d 0 0 ∧ s.sameData t) ∧
  (∀ (s : State) (p : PartId) (n : Nat) (d : Desc), s.turn p n 0x0B = some d → s.lone p d.d → d.clean [(8, 16)] = true → (s.part p).seals = [] →
      Does (.sealFetch p n) s fun t => s.recorded t p d.d 0x11 0 ∧ s.sameData t) ∧
  (∀ (s : State) (p : PartId) (n : Nat) (d : Desc) (x : StackId), s.pyhDown = false → s.turn p n 0x0C = some d → d.clean [(8, 3)] = true → d.byte 0x0A = 1 →
      x ∈ maskStacks (d.field 8 2) → (∀ y ∈ maskStacks (d.field 8 2), hasBit (s.part p).stackMask y.val = true ∧ (s.stack y).marching = none) →
      (s.part p).work ≠ .stopped → (s.part p).work ≠ .resetting → (s.part p).running = none →
      Does (.marchTest p n) s fun t => (t.stack x).marching = some true ∧ (t.stack x).marchBuf = 0 ∧ s.sameData t) ∧
  (∀ (s : State) (p : PartId) (n : Nat) (d : Desc), s.pyhDown = false → s.turn p n 0x0C = some d → s.lone p d.d → d.clean [(8, 3)] = true → d.byte 0x0A = 0 →
      maskStacks (d.field 8 2) ≠ [] → (∀ y ∈ maskStacks (d.field 8 2), hasBit (s.part p).stackMask y.val = true ∧ (s.stack y).marching = none) →
      (s.part p).work ≠ .stopped → (s.part p).work ≠ .resetting → (s.part p).bundle ≠ none →
      Does (.marchTest p n) s fun t => s.recorded t p d.d 2 0 ∧ t.stks = s.stks ∧ s.sameData t) ∧
  (∀ (s : State) (p : PartId) (n : Nat) (d : Desc), s.turn p n 0x0D = some d → s.lone p d.d → d.clean [(8, 13)] = true →
      64 ≤ d.field 0x10 4 ∧ d.field 0x10 4 ≤ 2 ^ 20 → d.byte 0x14 = 3 →
      Does (.healthQuery p n) s fun t => .hostWrite (s.part p).servPort (d.field 8 8) (s.healthReport.take (d.field 0x10 4)) ∈ t.out ∧ s.recorded t p d.d 0 0 (s.healthReport.take (d.field 0x10 4)).length ∧ s.sameData t) ∧
  (∀ (s : State) (p : PartId) (n : Nat) (d : Desc), s.turn p n 0x0D = some d → s.lone p d.d →
      (d.clean [(8, 13)] = false ∨ d.field 0x10 4 < 64 ∨ 2 ^ 20 < d.field 0x10 4 ∨ 3 < d.byte 0x14) →
      Does (.healthQuery p n) s fun t => s.recorded t p d.d 1 0 ∧ t.stks = s.stks ∧ s.sameData t)

/-- LOAD_BUNDLE and FREE_RUN keep what they read as the image being loaded, and write it to its pages where these can hold it; a kernel or run in the way ends
them with status 2; admission writes the status of the first check that fails and keeps the old bundle, or puts the new one in its place; a launch starts the
cores of every cluster of the partition with their programs; RUN_PERIODS notices its first period to every other endpoint, one that starts too early ends with
status 3 and detail 9, and one without a bundle with status 2; STOP of an idle partition ends at once and may unload the bundle, an immediate one fails the
running period, and one of a kernel stops its cores. It has a clause that concludes completion (exec answers a next state) for each of: LOAD_BUNDLE,
BUNDLE_ADMISSION, FREE_RUN, FREE_RUN_KERNEL_LAUNCH, RUN_PERIODS, STOP. (R230, R237, R546, R548, R549, R550, R552, R556) -/
def Obligations.WorkOfAPartition : Prop :=
  (∀ (s : State) (p : PartId) (n : Nat) (d : Desc) (bs : List Byte), s.turn p n 0x01 = some d → d.clean [(8, 24)] = true →
      4096 ≤ d.field 0x10 8 ∧ d.field 0x10 8 ≤ 2 ^ 32 → (s.part p).work ≠ .stopped → (s.part p).work ≠ .resetting → (s.part p).loading = none →
      (s.part p).kernel = none → (s.part p).runs = [] → allPages (d.field 0x18 4) (d.field 0x1C 4) (s.imagePageOk p) = false →
      (∀ x ∈ (s.part p).descs, (s.part p).badHeader x = false) →
      Does (.loadBundle p n bs) s fun t => (t.part p).loading = some (loadingOf d false bs) ∧ (t.part p).bundle = (s.part p).bundle ∧ (t.part p).kernel = (s.part p).kernel ∧ s.sameData t) ∧
  (∀ (s : State) (p : PartId) (n : Nat) (d : Desc) (bs : List Byte), s.turn p n 0x01 = some d → d.clean [(8, 24)] = true →
      4096 ≤ d.field 0x10 8 ∧ d.field 0x10 8 ≤ 2 ^ 32 → (s.part p).work ≠ .stopped → (s.part p).work ≠ .resetting → (s.part p).loading = none →
      (s.part p).kernel = none → (s.part p).runs = [] → allPages (d.field 0x18 4) (d.field 0x1C 4) (s.imagePageOk p) = true →
      d.field 0x10 8 ≤ d.field 0x1C 4 * 2 ^ 20 →
      ((s.imageReady p n).writeBytes (s.gwOf p) p .desc none {} (slice bs 0 (d.field 0x10 8)) (d.field 0x18 4 * 2 ^ 20) (linesFrom (d.field 0x18 4 * 2 ^ 20) (slice bs 0 (d.field 0x10 8)).length) 0).2.1 = none →
      (∀ x ∈ (s.part p).descs, (s.part p).badHeader x = false) →
      Does (.loadBundle p n bs) s fun t => (t.part p).loading = some (loadingOf d false bs) ∧ t.hbm = ((s.imageReady p n).writeBytes (s.gwOf p) p .desc none {} (slice bs 0 (d.field 0x10 8)) (d.field 0x18 4 * 2 ^ 20) (linesFrom (d.field 0x18 4 * 2 ^ 20) (slice bs 0 (d.field 0x10 8)).length) 0).2.2.hbm ∧ t.ml = ((s.imageReady p n).writeBytes (s.gwOf p) p .desc none {} (slice bs 0 (d.field 0x10 8)) (d.field 0x18 4 * 2 ^ 20) (linesFrom (d.field 0x18 4 * 2 ^ 20) (slice bs 0 (d.field 0x10 8)).length) 0).2.2.ml ∧ t.cores = s.cores) ∧
  (∀ (s : State) (p : PartId) (n : Nat) (d : Desc) (bs : List Byte), s.turn p n 0x01 = some d → s.lone p d.d → d.clean [(8, 24)] = true →
      4096 ≤ d.field 0x10 8 ∧ d.field 0x10 8 ≤ 2 ^ 32 → (s.part p).work ≠ .stopped → (s.part p).work ≠ .resetting → (s.part p).loading = none →
      (s.part p).kernel ≠ none ∨ (s.part p).runs ≠ [] →
      Does (.loadBundle p n bs) s fun t => s.recorded t p d.d 2 0 ∧ (t.part p).loading = none ∧ s.sameData t) ∧
  (∀ (s : State) (p : PartId) (l : Loading) (st det : Nat), (s.part p).loading = some l → s.lone p l.d → l.kernel = false → s.loaderDown = false →
      s.allPowered p = true → s.admission p l = some (st, det) →
      Does (.bundleAdmission p) s fun t => s.recorded t p l.d st det ∧ (t.part p).bundle = (s.part p).bundle ∧ (t.part p).loading = none ∧ s.sameData t) ∧
  (∀ (s : State) (p : PartId) (l : Loading), (s.part p).loading = some l → s.lone p l.d → (s.part p).periods = [] → (s.part p).runs = [] →
      (s.part p).stopping = [] → (s.part p).kernel = none → (s.part p).work = .idle → l.kernel = false → s.loaderDown = false → s.allPowered p = true →
      s.admission p l = none →
      Does (.bundleAdmission p) s fun t => (t.part p).bundle = some l.image ∧ (t.part p).work = .loaded ∧ s.recorded t p l.d 0 0 ∧ (t.part p).loading = none ∧ s.sameData t) ∧
  (∀ (s : State) (p : PartId) (n : Nat) (d : Desc) (bs : List Byte), s.turn p n 0x0A = some d → d.clean [(8, 0x28)] = true →
      4096 ≤ d.field 0x10 8 ∧ d.field 0x10 8 ≤ 2 ^ 32 → 1 ≤ d.field 0x28 8 ∧ d.field 0x28 8 ≤ 2 ^ 40 → (s.part p).work ≠ .stopped →
      (s.part p).work ≠ .resetting → (s.part p).loading = none → (s.part p).kernel = none → (s.part p).bundle = none →
      allPages (d.field 0x18 4) (d.field 0x1C 4) (s.imagePageOk p) = false → (∀ x ∈ (s.part p).descs, (s.part p).badHeader x = false) →
      Does (.freeRun p n bs) s fun t => (t.part p).loading = some (loadingOf d true bs) ∧ (t.part p).bundle = (s.part p).bundle ∧ (t.part p).kernel = (s.part p).kernel ∧ s.sameData t) ∧
  (∀ (s : State) (p : PartId) (n : Nat) (d : Desc) (bs : List Byte), s.turn p n 0x0A = some d → d.clean [(8, 0x28)] = true →
      4096 ≤ d.field 0x10 8 ∧ d.field 0x10 8 ≤ 2 ^ 32 → 1 ≤ d.field 0x28 8 ∧ d.field 0x28 8 ≤ 2 ^ 40 → (s.part p).work ≠ .stopped →
      (s.part p).work ≠ .resetting → (s.part p).loading = none → (s.part p).kernel = none → (s.part p).bundle = none →
      allPages (d.field 0x18 4) (d.field 0x1C 4) (s.imagePageOk p) = true → d.field 0x10 8 ≤ d.field 0x1C 4 * 2 ^ 20 →
      ((s.imageReady p n).writeBytes (s.gwOf p) p .desc none {} (slice bs 0 (d.field 0x10 8)) (d.field 0x18 4 * 2 ^ 20) (linesFrom (d.field 0x18 4 * 2 ^ 20) (slice bs 0 (d.field 0x10 8)).length) 0).2.1 = none →
      (∀ x ∈ (s.part p).descs, (s.part p).badHeader x = false) →
      Does (.freeRun p n bs) s fun t => (t.part p).loading = some (loadingOf d true bs) ∧ t.hbm = ((s.imageReady p n).writeBytes (s.gwOf p) p .desc none {} (slice bs 0 (d.field 0x10 8)) (d.field 0x18 4 * 2 ^ 20) (linesFrom (d.field 0x18 4 * 2 ^ 20) (slice bs 0 (d.field 0x10 8)).length) 0).2.2.hbm ∧ t.ml = ((s.imageReady p n).writeBytes (s.gwOf p) p .desc none {} (slice bs 0 (d.field 0x10 8)) (d.field 0x18 4 * 2 ^ 20) (linesFrom (d.field 0x18 4 * 2 ^ 20) (slice bs 0 (d.field 0x10 8)).length) 0).2.2.ml ∧ t.cores = s.cores) ∧
  (∀ (s : State) (p : PartId) (n : Nat) (d : Desc) (bs : List Byte), s.turn p n 0x0A = some d → s.lone p d.d → d.clean [(8, 0x28)] = true →
      4096 ≤ d.field 0x10 8 ∧ d.field 0x10 8 ≤ 2 ^ 32 → 1 ≤ d.field 0x28 8 ∧ d.field 0x28 8 ≤ 2 ^ 40 → (s.part p).work ≠ .stopped →
      (s.part p).work ≠ .resetting → (s.part p).loading = none → (s.part p).kernel ≠ none ∨ (s.part p).bundle ≠ none →
      Does (.freeRun p n bs) s fun t => s.recorded t p d.d 2 0 ∧ (t.part p).loading = none ∧ s.sameData t) ∧
  (∀ (s : State) (p : PartId) (l : Loading) (st det : Nat), (s.part p).loading = some l → s.lone p l.d → l.kernel = true → s.loaderDown = false →
      s.allPowered p = true → s.still → (s.startClocks p).admission p l = some (st, det) →
      Does (.freeRunKernelLaunch p) s fun t => s.recorded t p l.d st det ∧ (t.part p).kernel = (s.part p).kernel ∧ (t.part p).loading = none ∧ s.sameData t) ∧
  (∀ (s : State) (p : PartId) (l : Loading) (x : StackId) (c : ClusterNo), (s.part p).loading = some l → s.lone p l.d → (s.part p).periods = [] →
      (s.part p).runs = [] → (s.part p).stopping = [] → (s.part p).work = .idle → l.kernel = true → s.loaderDown = false → s.allPowered p = true → s.still →
      (s.startClocks p).admission p l = none →
      ((((s.startClocks p).modPart p fun b => { b with loading := none }).launchAll p l ((s.startClocks p).clusterPairs p)).2 = true) →
      ((((s.startClocks p).modPart p fun b => { b with loading := none }).launchAll p l ((s.startClocks p).clusterPairs p)).1.allHalted p = false) →
      (x, c) ∈ (s.startClocks p).clusterPairs p →
      Does (.freeRunKernelLaunch p) s fun t => (t.part p).kernel = some { d := l.d, image := l.image, seed := l.seed, limit := l.limit, launch := some (s.copyNow (s.gwOf p)) } ∧ (t.part p).work = .freeRun ∧
      (t.cluster x c).mode = 2 ∧ t.cores = (((s.startClocks p).modPart p fun b => { b with loading := none }).launchAll p l ((s.startClocks p).clusterPairs p)).1.cores ∧ t.hbm = s.hbm ∧ t.ml = s.ml) ∧
  (∀ (s : State) (p : PartId) (n : Nat) (d : Desc) (k : Bundle) (r : Run), s.turn p n 0x02 = some d → (s.part p).loading = none → (s.part p).bundle = some k →
      d.clean [(8, 0x14), (0x20, 8)] = true → 0 < d.field 0x14 4 → 0 < d.field 0x18 4 → d.field 0x10 4 + d.field 0x14 4 ≤ k.periods.length →
      (s.part p).work ≠ .stopped → (s.part p).work ≠ .resetting → (s.part p).periods = [] → (s.part p).runs = [] → (s.part p).stopping = [] →
      (s.part p).kernel = none →
      r = { d := d.d, base := (if d.field 8 8 = 0 then s.copyNow (s.gwOf p) + 20000 else d.field 8 8), entries := (k.periods.drop (d.field 0x10 4)).take (d.field 0x14 4), repeats := d.field 0x18 4, stride := d.field 0x20 8 } →
      s.copyNow (s.gwOf p) + 20000 ≤ r.startOf 0 → r.repeatsOk k = true → (∀ x ∈ (s.part p).descs, (s.part p).badHeader x = false) →
      Does (.runPeriods p n) s fun t => ((t.part p).periods.map fun x => (x.no, x.start, x.deadline, x.stage)) = [((s.part p).nextNo, r.startOf 0, r.deadlineOf 0, .noticed)] ∧
      (t.part p).runs = [{ r with next := 1 }] ∧ (t.part p).work = .scheduled ∧
      (∀ e, e ≠ s.gwOf p → t.queued (s.gwOf p) .periodNotice e (.notice (periodTag (s.part p).nextNo) (r.startOf 0) (r.deadlineOf 0)) = true) ∧ s.sameData t) ∧
  (∀ (s : State) (p : PartId) (n : Nat) (d : Desc) (k : Bundle) (e : PeriodEntry) (l : List PeriodEntry), s.turn p n 0x02 = some d → s.lone p d.d →
      (s.part p).loading = none → (s.part p).bundle = some k → d.clean [(8, 0x14), (0x20, 8)] = true → 0 < d.field 0x14 4 → 0 < d.field 0x18 4 →
      d.field 0x10 4 + d.field 0x14 4 ≤ k.periods.length → (s.part p).work ≠ .stopped → (s.part p).work ≠ .resetting → (s.part p).stopping = [] →
      k.periods.drop (d.field 0x10 4) = e :: l → 0 < d.field 8 8 → d.field 8 8 + e.start < s.copyNow (s.gwOf p) + 20000 →
      Does (.runPeriods p n) s fun t => s.recorded t p d.d 3 9 ∧ (t.part p).runs = (s.part p).runs ∧ (t.part p).periods = (s.part p).periods ∧ s.sameData t) ∧
  (∀ (s : State) (p : PartId) (n : Nat) (d : Desc), s.turn p n 0x02 = some d → s.lone p d.d → (s.part p).loading = none → (s.part p).stopping = [] →
      (s.part p).bundle = none → d.clean [(8, 0x14), (0x20, 8)] = true → 0 < d.field 0x14 4 → 0 < d.field 0x18 4 → (s.part p).work ≠ .stopped →
      (s.part p).work ≠ .resetting →
      Does (.runPeriods p n) s fun t => s.recorded t p d.d 2 0 ∧ s.sameData t) ∧
  (∀ (s : State) (p : PartId) (n : Nat) (d : Desc), s.turn p n 0x03 = some d → s.lone p d.d → d.clean [(8, 1)] = true → d.byte 8 < 4 → (s.part p).periods = [] →
      (s.part p).runs = [] → (s.part p).stopping = [] → (s.part p).kernel = none → (s.part p).loading = none →
      Does (.stopWork p n) s fun t => s.recorded t p d.d 0 0 ∧ (t.part p).bundle = (if d.byte 8 / 2 = 1 then none else (s.part p).bundle) ∧ (t.part p).stopping = [] ∧ s.sameData t) ∧
  (∀ (s : State) (p : PartId) (n : Nat) (d : Desc) (m : Period), s.turn p n 0x03 = some d → d.clean [(8, 1)] = true → d.byte 8 = 1 → (s.part p).periods = [m] →
      m.stage = .running → m.fails = [] → m.decided = 0 → s.copyNow (s.gwOf p) ≤ m.deadline → (s.part p).kernel = none → (s.part p).loading = none →
      (s.part p).runs = [] → (∀ x ∈ (s.part p).descs, (s.part p).badHeader x = false) →
      Does (.stopWork p n) s fun t => ((t.part p).periods.map fun x => x.fails) = [[⟨7, 0, 0xFFFF, s.copyNow (s.gwOf p)⟩]] ∧
      (t.part p).stopping = (s.part p).stopping ++ [(d.d, false)] ∧ (∀ e, e ≠ s.gwOf p → t.queued (s.gwOf p) .periodFail e (.fail (periodTag m.no) (s.copyNow (s.gwOf p))) = true) ∧ s.sameData t) ∧
  (∀ (s : State) (p : PartId) (n : Nat) (d : Desc) (k : Kernel) (x : StackId) (g : CoreId), s.turn p n 0x03 = some d → d.clean [(8, 1)] = true → d.byte 8 < 4 →
      (s.part p).periods = [] → (s.part p).runs = [] → (s.part p).stopping = [] → (s.part p).kernel = some k → x ∈ s.stacksOf p → g.val / 1536 = x.val →
      Does (.stopWork p n) s fun t => (t.part p).kernel = none ∧ t.core g = (s.core g).stop ∧ (t.part p).stopping = [] ∧ t.hbm = s.hbm ∧ t.ml = s.ml)

/-- A lane in service fails on the path in use with the cause of its check, and its receiver queues the fault report for both stewards: light below -24 dBm 0,
more than one symbol in a thousand corrected 2, a margin below 0.5 dB 3; a drop ring fails it with 4 on both paths; while its group switches, darkness begins its
run of valid markers anew. A margin from 0.5 to 1 dB warns once; corrected symbols and lost codewords are counted; a modulator ring out of lock is announced by
its sender; a wrong pilot parks the ring midway between two dips; an acquisition locks at the dip that R393 chooses, and parks and fails the ring where there is
none; a weak laser is recorded once at each threshold. A failed lane is tested again after 1 s, returns on the path of the test when it passes (after a ring
failure, the other path as it was before), and is held out after ten failed tests. It has a clause that concludes completion (exec answers a next state) for each
of: MARGIN_READING, LIGHT_LOSS, SYMBOL_ERROR_CHECK, RING_LOSS_OF_LOCK, PILOT_CHECK, RING_ACQUISITION_DONE, LASER_POWER_LOW, LANE_RETURN_TEST,
LANE_RETURN_TEST_DONE. (R384, R389, R394, R395, R396, R403, R411, R414, R415, R418, R478, R650) -/
def Obligations.LanesRingsAndLasers : Prop :=
  (∀ (s : State) (l : LaneId) (d : Int), s.on = true → 100 ≤ marginOf d →
      Does (.marginReading l d) s fun t => t = s.modLane l fun k => { k with margin := marginOf d }) ∧
  (∀ (s : State) (l : LaneId) (d : Int), 50 ≤ marginOf d → marginOf d < 100 → s.laneInService l = true → (s.lane l).warned = false →
      Does (.marginReading l d) s fun t => t.lane l = { s.lane l with margin := marginOf d, warned := true } ∧ t.eps = s.eps ∧ t.links = s.links ∧ s.sameData t ∧
      t.evr = s.evr.offer s.now { code := 0x7003, sev := warn, cls := 0x08, num := l.rcv.val, detail := BitVec.ofNat 96 (laneKey l) }) ∧
  (∀ (s : State) (l : LaneId) (d : Int), marginOf d < 50 → s.laneInService l = true → l.snd ≠ l.rcv → l.rcv.val < 28 →
      Does (.marginReading l d) s fun t => (t.lane l).margin = marginOf d ∧ (t.lane l).failOn (s.pathOf l) = some 3 ∧ (t.lane l).failOn (!s.pathOf l) = (s.lane l).failOn (!s.pathOf l) ∧
      t.queued l.rcv .switchAnnounce 28 (.fault { snd := l.snd, rcv := l.rcv, group := groupOf l.plane, path := s.pathOf l, cause := 3, lanes := putBit 0 l.plane.val true, tick := s.copyNow l.rcv }) = true ∧
      t.queued l.rcv .switchAnnounce 30 (.fault { snd := l.snd, rcv := l.rcv, group := groupOf l.plane, path := s.pathOf l, cause := 3, lanes := putBit 0 l.plane.val true, tick := s.copyNow l.rcv }) = true ∧ s.sameData t) ∧
  (∀ (s : State) (l : LaneId) (d : Int), d < -2400 → s.laneInService l = true → s.switching l.rcv (groupOf l.plane) = false → l.snd ≠ l.rcv → l.rcv.val < 28 →
      Does (.lightLoss ⟨l, d⟩) s fun t => (t.lane l).failOn (s.pathOf l) = some 0 ∧ (t.lane l).failOn (!s.pathOf l) = (s.lane l).failOn (!s.pathOf l) ∧
      t.queued l.rcv .switchAnnounce 28 (.fault { snd := l.snd, rcv := l.rcv, group := groupOf l.plane, path := s.pathOf l, cause := 0, lanes := putBit 0 l.plane.val true, tick := s.copyNow l.rcv }) = true ∧
      t.queued l.rcv .switchAnnounce 30 (.fault { snd := l.snd, rcv := l.rcv, group := groupOf l.plane, path := s.pathOf l, cause := 0, lanes := putBit 0 l.plane.val true, tick := s.copyNow l.rcv }) = true ∧ s.sameData t) ∧
  (∀ (s : State) (l : LaneId) (d : Int), d < -2400 → s.switching l.rcv (groupOf l.plane) = true →
      Does (.lightLoss ⟨l, d⟩) s fun t => t = s.modLane l fun k => { k with run := 0 }) ∧
  (∀ (s : State) (l : LaneId) (d : Int), (s.laneInService l = false ∧ s.switching l.rcv (groupOf l.plane) = false) ∨ -2400 ≤ d →
      Does (.lightLoss ⟨l, d⟩) s fun t => t = s) ∧
  (∀ (s : State) (l : LaneId) (n c : Nat) (b : List Nat), s.on = true → 1000 * c ≤ n → (b.filter codewordLost).length ≠ 0 →
      Does (.symbolErrorCheck l n c b) s fun t => t.lane l = { s.lane l with corrected := min ((s.lane l).corrected + c) (2 ^ 64 - 1) } ∧
      kget 0 (t.ep l.rcv).lostCw l.snd.val = satInc (kget 0 (s.ep l.rcv).lostCw l.snd.val) (b.filter codewordLost).length ∧ t.links = s.links ∧ s.sameData t) ∧
  (∀ (s : State) (l : LaneId) (n c : Nat) (b : List Nat), n < 1000 * c → s.laneInService l = true → l.snd ≠ l.rcv → l.rcv.val < 28 →
      Does (.symbolErrorCheck l n c b) s fun t => (t.lane l).failOn (s.pathOf l) = some 2 ∧ (t.lane l).corrected = min ((s.lane l).corrected + c) (2 ^ 64 - 1) ∧
      t.queued l.rcv .switchAnnounce 28 (.fault { snd := l.snd, rcv := l.rcv, group := groupOf l.plane, path := s.pathOf l, cause := 2, lanes := putBit 0 l.plane.val true, tick := s.copyNow l.rcv }) = true ∧
      t.queued l.rcv .switchAnnounce 30 (.fault { snd := l.snd, rcv := l.rcv, group := groupOf l.plane, path := s.pathOf l, cause := 2, lanes := putBit 0 l.plane.val true, tick := s.copyNow l.rcv }) = true ∧ s.sameData t) ∧
  (∀ (s : State) (l : LaneId) (er uw : Nat) (gr : Bool), (2000 < er ∨ ((uw = 0 ∨ 2000 ≤ uw) ∧ gr = true)) → s.laneInService l = true → l.snd ≠ l.rcv →
      l.rcv.val < 28 →
      Does (.ringLossOfLock l ⟨false, er, uw, gr⟩) s fun t => (t.lane l).failOn true = some 4 ∧ (t.lane l).failOn false = some 4 ∧ hasBit (t.lane l).relocking 0 = true ∧ (t.lane l).parked = (s.lane l).parked ∧
      t.queued l.rcv .switchAnnounce 28 (.fault { snd := l.snd, rcv := l.rcv, group := groupOf l.plane, path := s.pathOf l, cause := 4, lanes := putBit 0 l.plane.val true, tick := s.copyNow l.rcv }) = true ∧
      t.queued l.rcv .switchAnnounce 30 (.fault { snd := l.snd, rcv := l.rcv, group := groupOf l.plane, path := s.pathOf l, cause := 4, lanes := putBit 0 l.plane.val true, tick := s.copyNow l.rcv }) = true ∧ s.sameData t) ∧
  (∀ (s : State) (l : LaneId) (er uw : Nat) (gr : Bool), (2000 < er ∨ ((uw = 0 ∨ 2000 ≤ uw) ∧ gr = true)) → s.on = true → l.snd ≠ l.rcv →
      (s.ep l.snd).isolated = false →
      Does (.ringLossOfLock l ⟨true, er, uw, gr⟩) s fun t => (t.lane l).modBad = true ∧ hasBit (t.lane l).relocking 1 = true ∧ hasBit (t.usableTx l.snd l.rcv) l.plane.val = false ∧
      t.queued l.snd .linkMask l.rcv (.linkMask false { snd := l.snd, rcv := l.rcv, sndEpoch := (s.ep l.snd).epoch, rcvEpoch := (s.link l.rcv l.snd).sndEpoch, width := (widest (t.usableTx l.snd l.rcv)).2, path := hasBit (s.ep l.snd).drivers (groupOf (lowest (t.usableTx l.snd l.rcv))).val, mask := t.usableTx l.snd l.rcv, rcvUsable := 0, tick := s.copyNow l.snd }) = true ∧ s.sameData t) ∧
  (∀ (s : State) (l : LaneId) (m : Bool),
      Does (.pilotCheck l m (pilotKhz (lineOf l.snd l.rcv))) s fun t => t = s) ∧
  (∀ (s : State) (l : LaneId) (n : Nat), s.laneInService l = true → l.snd ≠ l.rcv → l.rcv.val < 28 → n ≠ pilotKhz (lineOf l.snd l.rcv) →
      Does (.pilotCheck l false n) s fun t => (t.lane l).failOn true = some 4 ∧ (t.lane l).failOn false = some 4 ∧ hasBit (t.lane l).parked 0 = true ∧ hasBit (t.lane l).relocking 0 = true ∧ (t.lane l).heat.1 = (s.lane l).mid.1 ∧ s.sameData t) ∧
  (∀ (s : State) (l : LaneId) (n : Nat), s.on = true → l.snd ≠ l.rcv → (s.ep l.snd).isolated = false → n ≠ pilotKhz (lineOf l.snd l.rcv) →
      Does (.pilotCheck l true n) s fun t => (t.lane l).modBad = true ∧ hasBit (t.lane l).parked 1 = true ∧ hasBit (t.lane l).relocking 1 = true ∧ (t.lane l).heat.2 = (s.lane l).mid.2 ∧ s.sameData t ∧
      t.evr = s.evr.offer s.now { code := 0x7004, sev := warn, cls := 0x08, num := l.snd.val, detail := BitVec.ofNat 96 (laneKey l) }) ∧
  (∀ (s : State) (l : LaneId) (dips : List Dip) (x : Dip), s.on = true → l.snd ≠ l.rcv → hasBit (s.lane l).relocking 0 = true →
      acquire (s.baseline l false) (lineOf l.snd l.rcv) (some ((s.lane l).lockOf false, 830)) dips = some x →
      Does (.ringAcquisitionDone l false dips) s fun t => t = s.modLane l fun k => (k.swept false (midway (s.baseline l false) (some ((s.lane l).lockOf false, 830)) dips)).locks false x.uw) ∧
  (∀ (s : State) (l : LaneId) (dips : List Dip), hasBit (s.lane l).relocking 0 = true →
      acquire (s.baseline l false) (lineOf l.snd l.rcv) (some ((s.lane l).lockOf false, 830)) dips = none → s.laneInService l = true → l.snd ≠ l.rcv →
      l.rcv.val < 28 →
      Does (.ringAcquisitionDone l false dips) s fun t => (t.lane l).failOn true = some 4 ∧ (t.lane l).failOn false = some 4 ∧ hasBit (t.lane l).parked 0 = true ∧ hasBit (t.lane l).relocking 0 = false ∧ s.sameData t) ∧
  (∀ (s : State) (l : LaneId) (dips : List Dip) (x : Dip), s.on = true → hasBit (s.lane l).relocking 1 = true →
      acquire (s.baseline l true) (lineOf l.snd l.rcv) (some ((s.lane l).lockOf true, 830)) dips = some x → l.snd ≠ l.rcv → (s.ep l.snd).isolated = false →
      Does (.ringAcquisitionDone l true dips) s fun t => (t.lane l).modBad = false ∧ hasBit (t.lane l).parked 1 = false ∧ hasBit (t.lane l).relocking 1 = false ∧
      t.queued l.snd .linkMask l.rcv (.linkMask false { snd := l.snd, rcv := l.rcv, sndEpoch := (s.ep l.snd).epoch, rcvEpoch := (s.link l.rcv l.snd).sndEpoch, width := (widest (t.usableTx l.snd l.rcv)).2, path := hasBit (s.ep l.snd).drivers (groupOf (lowest (t.usableTx l.snd l.rcv))).val, mask := t.usableTx l.snd l.rcv, rcvUsable := 0, tick := s.copyNow l.snd }) = true ∧ s.sameData t) ∧
  (∀ (s : State) (e : EpId) (d : Int) (b : Bool), s.on = true → d < 1000 → (b = false ∨ (s.ep e).laserWarned = true) → (s.ep e).laserEol = false →
      Does (.laserPowerLow e ⟨d, b⟩) s fun t => (t.ep e).laserEol = true ∧ (t.ep e).laserWarned = (s.ep e).laserWarned ∧ t.lanes = s.lanes ∧ s.sameData t ∧
      t.evr = s.evr.offer s.now { code := 0x7002, sev := err, cls := 0x07, num := e.val }) ∧
  (∀ (s : State) (e : EpId) (d : Int) (b : Bool), s.on = true → 1000 ≤ d → d < 1200 → b = true → (s.ep e).laserWarned = false →
      Does (.laserPowerLow e ⟨d, b⟩) s fun t => (t.ep e).laserWarned = true ∧ (t.ep e).laserEol = (s.ep e).laserEol ∧ t.lanes = s.lanes ∧ s.sameData t ∧
      t.evr = s.evr.offer s.now { code := 0x7001, sev := warn, cls := 0x07, num := e.val }) ∧
  (∀ (s : State) (e : EpId) (d : Int) (b : Bool), (1200 ≤ d ∨ (1000 ≤ d ∧ b = false)) →
      Does (.laserPowerLow e ⟨d, b⟩) s fun t => t = s) ∧
  (∀ (s : State) (e : EpId) (d : Int), s.on = true → d < 1000 →
      Does (.laserPowerLow e ⟨d, true⟩) s fun t => (t.ep e).laserEol = true ∧ (t.ep e).laserWarned = true ∧ t.lanes = s.lanes ∧ s.sameData t) ∧
  (∀ (s : State) (l : LaneId), s.on = true → (s.lane l).failOn (s.pathOf l) ≠ none → (s.lane l).held = false → (s.lane l).testing = false →
      (s.lane l).tests < 10 → (s.lane l).lastTest + 1000000000 ≤ s.now →
      Does (.laneReturnTest l) s fun t => t = s.modLane l fun k => { k with testing := true, relocking := k.relocking ||| k.parked }) ∧
  (∀ (s : State) (l : LaneId), s.now < (s.lane l).lastTest + 1000000000 →
      Does (.laneReturnTest l) s fun t => t = s) ∧
  (∀ (s : State) (l : LaneId) (c : BitVec 8) (r : LaneTest), s.on = true → (s.lane l).testing = true → (s.lane l).failOn (s.pathOf l) = some c →
      (s.lane l).ring = none → r.passes l 320 = true → (s.lane l).relocking = 0 → (s.lane l).parked = 0 →
      Does (.laneReturnTestDone l r) s fun t => (t.lane l).failOn (s.pathOf l) = none ∧ (t.lane l).failOn (!s.pathOf l) = (s.lane l).failOn (!s.pathOf l) ∧ (t.lane l).testing = false ∧
      (t.lane l).untested = false ∧ (t.lane l).tests = 0 ∧ ((if s.pathOf l then t.stewA.badB else t.stewA.badA).contains l) = false ∧ s.sameData t) ∧
  (∀ (s : State) (l : LaneId) (c : BitVec 8) (r : LaneTest), s.on = true → (s.lane l).testing = true → (s.lane l).ring = some c → r.passes l 320 = true →
      (s.lane l).relocking = 0 → (s.lane l).parked = 0 →
      Does (.laneReturnTestDone l r) s fun t => (t.lane l).failOn (s.pathOf l) = none ∧ (t.lane l).failOn (!s.pathOf l) = (if s.pathOf l then (s.lane l).failA else (s.lane l).failB) ∧ (t.lane l).testing = false ∧
      t.stewA.rings.contains l = false ∧ t.stewB.rings.contains l = false ∧ s.sameData t) ∧
  (∀ (s : State) (l : LaneId) (r : LaneTest), s.on = true → (s.lane l).testing = true → (s.lane l).failOn (s.pathOf l) ≠ none → (s.lane l).tests < 9 →
      r.passes l 320 = false →
      Does (.laneReturnTestDone l r) s fun t => t.lane l = { s.lane l with testing := false, tests := (s.lane l).tests + 1, lastTest := s.now } ∧ t.evr = s.evr ∧ s.sameData t) ∧
  (∀ (s : State) (l : LaneId) (r : LaneTest), s.on = true → (s.lane l).testing = true → (s.lane l).failOn (s.pathOf l) ≠ none → (s.lane l).tests = 9 →
      (s.lane l).held = false → r.passes l 320 = false →
      Does (.laneReturnTestDone l r) s fun t => (t.lane l).held = true ∧ (t.lane l).tests = 10 ∧ (t.lane l).testing = false ∧ s.sameData t ∧
      t.evr = s.evr.offer s.now { code := 0x7005, sev := err, cls := 0x08, num := l.rcv.val, detail := BitVec.ofNat 96 (laneKey l) })

/-- A missing or wrong marker of a lane of the mask fails the lane with cause 1; a data marker with the agreed mask and epoch opens a link, one of another epoch
returns it to training and fails the lane, and one during a switchover counts toward the run of its lane; a training marker tells the usable lanes of its sender
and starts the tests that lanes need. The sender adopts a decision that echoes its epoch and is later than the one in force, and no other; an announcement fails
with cause 5 the lane it no longer offers; a training sender repeats its markers every 10 us; a trained link without a packet for 10 us goes quiet. At T less 200
the group leaves the masks of an endpoint, at T its driver switches, at T plus 800 the widest masks return. It has a clause that concludes completion (exec
answers a next state) for each of: LANE_MARKER, LINK_MASK_DECISION, LINK_MASK_ANNOUNCEMENT, TRAINING_REPEAT, LINK_QUIET, SWITCH_EXCLUDE, DRIVER_SWITCH,
SWITCH_RESTORE. (R400, R405, R408, R411, R412, R416, R418, R420, R444, R465, R480, R650) -/
def Obligations.MasksAndSwitchovers : Prop :=
  (∀ (s : State) (j : EpId) (p : PlaneNo) (k : Fin 32) (w : Option (BitVec 170)), s.on = true → (s.ep j).isolated = false → senderOn j k ≠ j →
      ((w.any fun v => markerGood j p k v) = false) → hasBit (s.link (senderOn j k) j).mask p.val = true → s.switching j (groupOf p) = false →
      s.laneInService ⟨senderOn j k, j, p⟩ = true →
      Does (.laneMarker ⟨j, p, k, w⟩) s fun t => (t.lane ⟨senderOn j k, j, p⟩).failOn (s.pathOf ⟨senderOn j k, j, p⟩) = some 1 ∧ (t.link (senderOn j k) j).mask = (s.link (senderOn j k) j).mask ∧
      (t.link (senderOn j k) j).trained = (s.link (senderOn j k) j).trained ∧ s.sameData t) ∧
  (∀ (s : State) (j : EpId) (p : PlaneNo) (k : Fin 32) (w : BitVec 170), s.on = true → (s.ep j).isolated = false → senderOn j k ≠ j →
      markerGood j p k w = true → mkWidth w ≠ 6 → s.switching j (groupOf p) = false → (s.link (senderOn j k) j).seen = true →
      (s.link (senderOn j k) j).sndEpoch = mkEpoch w → mkMask w = (s.link (senderOn j k) j).mask → mkMask w ≠ 0 → (s.link (senderOn j k) j).trained = false →
      Does (.laneMarker ⟨j, p, k, some w⟩) s fun t => (t.link (senderOn j k) j).trained = true ∧ (t.link (senderOn j k) j).mask = mkMask w ∧ t.lanes = s.lanes ∧ s.sameData t) ∧
  (∀ (s : State) (j : EpId) (p : PlaneNo) (k : Fin 32) (w : BitVec 170), s.on = true → (s.ep j).isolated = false → senderOn j k ≠ j →
      markerGood j p k w = true → mkWidth w ≠ 6 → (s.link (senderOn j k) j).seen = true → (s.link (senderOn j k) j).sndEpoch = mkEpoch w →
      (s.link (senderOn j k) j).trained = true → s.switching j (groupOf p) = true → mkPath w = hasBit (s.ep j).drivers (groupOf p).val →
      Does (.laneMarker ⟨j, p, k, some w⟩) s fun t => t = s.modLane ⟨senderOn j k, j, p⟩ fun x => { x with run := min 32 (x.run + 1) }) ∧
  (∀ (s : State) (j : EpId) (p : PlaneNo) (k : Fin 32) (w : BitVec 170), s.on = true → (s.ep j).isolated = false → senderOn j k ≠ j →
      markerGood j p k w = true → mkWidth w ≠ 6 → (s.link (senderOn j k) j).seen = false ∨ (s.link (senderOn j k) j).sndEpoch ≠ mkEpoch w →
      hasBit (s.link (senderOn j k) j).mask p.val = true → s.switching j (groupOf p) = false → s.laneInService ⟨senderOn j k, j, p⟩ = true →
      Does (.laneMarker ⟨j, p, k, some w⟩) s fun t => (t.link (senderOn j k) j).trained = false ∧ (t.link (senderOn j k) j).stale = true ∧ (t.link (senderOn j k) j).mask = (s.link (senderOn j k) j).mask ∧ (t.lane ⟨senderOn j k, j, p⟩).failOn (s.pathOf ⟨senderOn j k, j, p⟩) = some 1 ∧ s.sameData t) ∧
  (∀ (s : State) (j : EpId) (p : PlaneNo) (k : Fin 32) (w : BitVec 170), s.on = true → (s.ep j).isolated = false → senderOn j k ≠ j →
      markerGood j p k w = true → mkWidth w = 6 → (s.link (senderOn j k) j).trained = false → (s.ep j).held = [] →
      Does (.laneMarker ⟨j, p, k, some w⟩) s fun t => (t.link (senderOn j k) j).usableSnd = mkMask w ∧ (t.link (senderOn j k) j).seen = true ∧ (t.link (senderOn j k) j).sndEpoch = mkEpoch w ∧ (t.link (senderOn j k) j).trained = false ∧
      (∀ q : PlaneNo, hasBit (mkMask w) q.val = true → s.needsTest ⟨senderOn j k, j, q⟩ = true → (t.lane ⟨senderOn j k, j, q⟩).testing = true) ∧ s.sameData t) ∧
  (∀ (s : State) (a : Arr) (m : LinkMask), s.hears a → m.snd = a.rx → m.rcv = a.h.origin → m.sndEpoch = (s.ep a.rx).epoch →
      (s.link a.rx a.h.origin).decTick < m.tick → (s.link a.rx a.h.origin).excluded = 0 →
      Does (.linkMaskDecision a m) s fun t => (t.link a.rx a.h.origin).mask = m.mask ∧ (t.link a.rx a.h.origin).decTick = m.tick ∧
      (t.link a.rx a.h.origin).agreed = (m.rcvUsable &&& s.usableTx a.rx a.h.origin) ∧ t.lanes = s.lanes ∧ s.sameData t) ∧
  (∀ (s : State) (a : Arr) (m : LinkMask), s.hears a →
      (m.snd ≠ a.rx ∨ m.rcv ≠ a.h.origin ∨ m.sndEpoch ≠ (s.ep a.rx).epoch ∨ (m.tick ≤ (s.link a.rx a.h.origin).decTick ∧ (s.link a.rx a.h.origin).decTick ≠ 0)) →
      Does (.linkMaskDecision a m) s fun t => t.links = s.links ∧ t.lanes = s.lanes ∧ s.sameData t) ∧
  (∀ (s : State) (a : Arr) (m : LinkMask) (p : PlaneNo), s.hears a → m.snd = a.h.origin → m.rcv = a.rx → a.h.origin ≠ a.rx → a.rx.val < 28 →
      (((List.finRange 32).filter fun p => hasBit (s.link a.h.origin a.rx).usableSnd p.val && !hasBit m.mask p.val) = [p]) →
      s.laneInService ⟨a.h.origin, a.rx, p⟩ = true → (s.ep a.rx).held = [] →
      Does (.linkMaskAnnouncement a m) s fun t => (t.lane ⟨a.h.origin, a.rx, p⟩).failOn true = some 5 ∧ (t.lane ⟨a.h.origin, a.rx, p⟩).failOn false = some 5 ∧ (t.link a.h.origin a.rx).usableSnd = m.mask ∧ s.sameData t) ∧
  (∀ (s : State) (i j : EpId) (p : PlaneNo), s.on = true → i ≠ j → (s.ep i).isolated = false → (s.link i j).trained = false →
      (s.link i j).repTick + 10000 ≤ s.now → hasBit (s.usableTx i j) p.val = true →
      Does (.trainingRepeat i j) s fun t => (t.link i j).repTick = s.now ∧ t.lanes = s.lanes ∧ t.eps = s.eps ∧ s.sameData t ∧
      .marker i j p (markerWord i j p (s.ep i).epoch (s.usableTx i j) 6 (hasBit (s.ep i).drivers (groupOf p).val) (((s.link i j).markers + 1) % 65536)) ∈ t.out) ∧
  (∀ (s : State) (i j : EpId), (s.link i j).trained = true ∨ s.now < (s.link i j).repTick + 10000 →
      Does (.trainingRepeat i j) s fun t => t = s) ∧
  (∀ (s : State) (i j : EpId), (s.link i j).trained = true → (s.link i j).lastPkt + 10000 ≤ s.now →
      Does (.linkQuiet i j) s fun t => t = s.modLink i j fun k => { k with quiet := true }) ∧
  (∀ (s : State) (i j : EpId), (s.link i j).trained = false ∨ s.now < (s.link i j).lastPkt + 10000 →
      Does (.linkQuiet i j) s fun t => t = s) ∧
  (∀ (s : State) (e j : EpId) (w : Switch), (s.ep e).pends = [w] → w.t ≤ s.copyNow e + 200 → j ≠ e →
      Does (.switchExclude e) s fun t => (t.link e j).excluded = putBit (s.link e j).excluded w.group.val true ∧ (t.link e j).agreed = (s.link e j).agreed ∧
      (t.link e j).mask = (if (s.link e j).mask &&& groupMask w.group.val = 0 then (s.link e j).mask else (widest ((s.link e j).agreed &&& ~~~groupsMask (putBit (s.link e j).excluded w.group.val true))).1) ∧
      t.lanes = s.lanes ∧ s.sameData t) ∧
  (∀ (s : State) (e : EpId) (w : Switch), (s.ep e).pends = [w] → s.copyNow e + 200 < w.t →
      Does (.switchExclude e) s fun t => t = s) ∧
  (∀ (s : State) (e : EpId) (w : Switch), (s.ep e).pends = [w] → w.t ≤ s.copyNow e → hasBit (s.ep e).drivers w.group.val ≠ w.path →
      Does (.driverSwitch e) s fun t => (t.ep e).drivers = putBit (s.ep e).drivers w.group.val w.path ∧ (∀ j, (if e = 28 then j ≠ e else j = e) → (t.ep j).delay = none) ∧ t.groups = putBit s.groups w.group.val w.path ∧
      (t.ep e).pends = [w] ∧ t.links = s.links ∧ (∀ (i : EpId) (p : PlaneNo), i ≠ e → groupOf p = w.group → (t.lane ⟨i, e, p⟩).run = 0) ∧ s.sameData t) ∧
  (∀ (s : State) (e : EpId) (w : Switch), (s.ep e).pends = [w] → s.copyNow e < w.t →
      Does (.driverSwitch e) s fun t => t = s) ∧
  (∀ (s : State) (e j : EpId) (w : Switch), (s.ep e).pends = [w] → w.t + 800 ≤ s.copyNow e → hasBit (s.ep e).drivers w.group.val = w.path → j ≠ e →
      Does (.switchRestore e) s fun t => (t.ep e).pends = [] ∧ (t.link e j).excluded = putBit (s.link e j).excluded w.group.val false ∧
      (t.link e j).agreed = ((s.link e j).agreed &&& ~~~groupMask w.group.val) ||| (groupMask w.group.val &&& s.usableRx e j &&& s.usableTx e j) ∧
      (t.link e j).mask = (widest ((t.link e j).agreed &&& ~~~groupsMask (t.link e j).excluded)).1 ∧ t.lanes = s.lanes ∧ s.sameData t)

/-- The holder renews its leases every 250 ticks, and the standby keeps and echoes the E and generation that it hears; an echo extends the lease; the standby
takes a token 10 ticks after the latest E it heard, a returned steward without renewals 1,010 ticks after the loss of its partner; a copied switchover is
announced once echoed, with T 2,000 ticks ahead, and repeated to who has not accepted; a state record is sent to every endpoint and sets drivers of no older
generation; a switchover completes at T plus 800 with its event; an endpoint ignores an older generation and accepts what it obeys; reports of lanes from three
senders to three receivers in 10 us begin a switchover of a group with a standby path; a failed probe is reported and passes after 100 clean readings; a bad,
wrongly counted or missing Causeway record makes the standby copy invalid, and a good one is applied. It has a clause that concludes completion (exec answers a
next state) for each of: LEASE_RENEW, LEASE_RENEWAL, LEASE_ECHO, TOKEN_TAKEOVER, STEWARD_RETURN_TAKEOVER, SWITCHOVER_ECHO, ANNOUNCE_REPEAT, STATE_RECORD_SEND,
SWITCH_COMPLETE, SWITCH_ANNOUNCEMENT, SWITCH_ACCEPTANCE, FAULT_REPORT, STATE_RECORD, PROBE_READING, CAUSEWAY_RECORD, CAUSEWAY_RECORD_MISSING. (R463, R465, R467,
R468, R471, R473, R474, R477, R478, R479, R480, R651) -/
def Obligations.PathStewards : Prop :=
  (∀ (s : State) (h : Fin 2), s.stewUp h = true → (s.stew h).holds ≠ 0 → (s.stew h).lastRenew + 250 ≤ s.copyNow (stewHub h) →
      Does (.leaseRenew h) s fun t => (t.stew h).lastRenew = s.copyNow (stewHub h) ∧ (∀ g : GroupNo, hasBit (s.stew h).holds g.val = true → kget 0 (t.stew h).sentE g.val = s.copyNow (stewHub h) + 1000) ∧
      (t.stew h).leaseE = (s.stew h).leaseE ∧ t.stew (otherStew h) = s.stew (otherStew h) ∧ s.sameData t) ∧
  (∀ (s : State) (h : Fin 2), s.copyNow (stewHub h) < (s.stew h).lastRenew + 250 →
      Does (.leaseRenew h) s fun t => t = s) ∧
  (∀ (s : State) (h : Fin 2) (g : GroupNo) (gen ex : Nat), s.stewUp h = true → hasBit (s.stew h).holds g.val = false →
      hasBit (s.stew (otherStew h)).holds g.val = true → gen ≤ kget 0 (s.stew (otherStew h)).gen g.val → ex ≤ kget 0 (s.stew (otherStew h)).sentE g.val →
      Does (.leaseRenewal h g gen ex) s fun t => .lease h true g gen ex ∈ t.out ∧ kget 0 (t.stew h).heardE g.val = max ex (kget 0 (s.stew h).heardE g.val) ∧ kget 0 (t.stew h).gen g.val = max gen (kget 0 (s.stew h).gen g.val) ∧
      hasBit (t.stew h).known g.val = true ∧ (t.stew h).holds = (s.stew h).holds ∧ t.stew (otherStew h) = s.stew (otherStew h) ∧ s.sameData t) ∧
  (∀ (s : State) (h : Fin 2) (g : GroupNo) (ex : Nat), s.stewUp h = true → hasBit (s.stew h).holds g.val = true → ex ≤ kget 0 (s.stew h).sentE g.val →
      ex ≤ kget 0 (s.stew (otherStew h)).heardE g.val →
      Does (.leaseEcho h g ex) s fun t => kget 0 (t.stew h).leaseE g.val = max ex (kget 0 (s.stew h).leaseE g.val) ∧ (t.stew h).sentE = (s.stew h).sentE ∧ t.stew (otherStew h) = s.stew (otherStew h) ∧ s.sameData t) ∧
  (∀ (s : State) (h : Fin 2) (g : GroupNo) (ex : Nat), (kget 0 (s.stew h).sentE g.val < ex ∨ kget 0 (s.stew (otherStew h)).heardE g.val < ex) →
      Does (.leaseEcho h g ex) s fun t => t = s) ∧
  (∀ (s : State) (h : Fin 2) (g : GroupNo) (e : EpId), s.stewUp h = true → hasBit (s.stew h).holds g.val = false → hasBit (s.stew h).known g.val = true →
      (s.stew h).returned = false ∨ hasBit (s.stew h).heard g.val = true → kget 0 (s.stew h).heardE g.val + 10 ≤ s.copyNow (stewHub h) → e ≠ stewHub h →
      Does (.tokenTakeover h g) s fun t => hasBit (t.stew h).holds g.val = true ∧ kget 0 (t.stew h).gen g.val = kget 0 (s.stew h).gen g.val + 1 ∧ kget 0 (t.stew h).leaseE g.val = 0 ∧
      hasBit (t.stew (otherStew h)).holds g.val = false ∧ hasBit t.holder g.val = (h = 1) ∧
      t.queued (stewHub h) .switchAnnounce e (.stateRec (s.stew h).paths (stewHub h) (t.stew h).recordGen) = true ∧ s.sameData t) ∧
  (∀ (s : State) (h : Fin 2) (g : GroupNo), s.copyNow (stewHub h) < kget 0 (s.stew h).heardE g.val + 10 →
      Does (.tokenTakeover h g) s fun t => t = s) ∧
  (∀ (s : State) (h : Fin 2) (g : GroupNo) (k : Nat), s.stewUp h = true → (s.stew h).returned = true → (s.stew h).partnerLost = some k →
      k + 1010 ≤ s.copyNow (stewHub h) → hasBit (s.stew h).heard g.val = false → hasBit (s.stew h).holds g.val = false →
      Does (.stewardReturnTakeover h) s fun t => hasBit (t.stew h).holds g.val = true ∧ kget 0 (t.stew h).gen g.val = kget 0 (s.stew h).gen g.val + 2 ∧ hasBit (t.stew (otherStew h)).holds g.val = false ∧ s.sameData t) ∧
  (∀ (s : State) (h : Fin 2) (g : GroupNo) (w : Switch) (e : EpId), (s.stew h).pend = [w] → w.group = g → hasBit (s.stew h).echoed g.val = false →
      s.leaseOk h g = true → e ≠ stewHub h →
      Does (.switchoverEcho h g) s fun t => (t.stew h).pend = [{ w with t := s.copyNow (stewHub h) + 2000 }] ∧ hasBit (t.stew h).echoed g.val = true ∧
      (s.stewUp (otherStew h) = true → { w with t := s.copyNow (stewHub h) + 2000 } ∈ (t.stew (otherStew h)).pend) ∧
      t.queued (stewHub h) .switchAnnounce e (.announce { w with t := s.copyNow (stewHub h) + 2000 } (stewHub h)) = true ∧ s.sameData t) ∧
  (∀ (s : State) (h : Fin 2) (w : Switch) (e : EpId), (s.stew h).pend = [w] → hasBit (s.stew h).echoed w.group.val = true → s.copyNow (stewHub h) < w.t →
      s.leaseOk h w.group = true → (s.ep e).inService = true → hasBit (kget 0 (s.stew h).accepted w.group.val) e.val = false → e ≠ stewHub h →
      Does (.announceRepeat h) s fun t => t.queued (stewHub h) .switchAnnounce e (.announce w (stewHub h)) = true ∧ (t.stew h).pend = [w] ∧ s.sameData t) ∧
  (∀ (s : State) (h : Fin 2) (e : EpId), s.stewUp h = true → (s.stew h).holds ≠ 0 → e ≠ stewHub h →
      Does (.stateRecordSend h) s fun t => t.queued (stewHub h) .switchAnnounce e (.stateRec (s.stew h).paths (stewHub h) (s.stew h).recordGen) = true ∧ t.stew h = s.stew h ∧ s.sameData t) ∧
  (∀ (s : State) (h : Fin 2), (s.stew h).holds = 0 →
      Does (.stateRecordSend h) s fun t => t = s) ∧
  (∀ (s : State) (h : Fin 2) (g : GroupNo) (w : Switch), (s.stew h).pend = [w] → w.group = g → s.stewUp h = true → hasBit (s.stew h).holds g.val = true →
      hasBit (s.stew h).echoed g.val = true → w.t + 800 ≤ s.copyNow (stewHub h) →
      Does (.switchComplete h g) s fun t => (t.stew h).pend = [] ∧ hasBit (t.stew h).echoed g.val = false ∧ (∀ e, (t.ep e).delay = none) ∧ s.sameData t ∧
      t.evr = s.evr.offer s.now { code := 0x9005, sev := warn, cls := 0x03, num := (tileOfEp (stewHub h)).val, detail := BitVec.ofNat 96 g.val }) ∧
  (∀ (s : State) (h : Fin 2) (g : GroupNo) (w : Switch), (s.stew h).pend = [w] → w.group = g → s.copyNow (stewHub h) < w.t + 800 →
      Does (.switchComplete h g) s fun t => t = s) ∧
  (∀ (s : State) (a : Arr) (w : Switch) (h : Fin 2), s.hears a → kget 0 (s.ep a.rx).genSeen w.group.val ≤ w.gen → s.copyNow a.rx < w.t → a.rx ≠ stewHub h →
      Does (.switchAnnouncement a w h) s fun t => w ∈ (t.ep a.rx).pends ∧ (∀ v ∈ (s.ep a.rx).pends, v.group ≠ w.group → v ∈ (t.ep a.rx).pends) ∧ kget 0 (t.ep a.rx).genSeen w.group.val = w.gen ∧ (t.ep a.rx).drivers = (s.ep a.rx).drivers ∧
      t.queued a.rx .switchAnnounce (stewHub h) (.accept w) = true ∧ s.sameData t) ∧
  (∀ (s : State) (a : Arr) (w : Switch) (h : Fin 2), s.hears a → kget 0 (s.ep a.rx).genSeen w.group.val ≤ w.gen → w.t ≤ s.copyNow a.rx → a.rx ≠ stewHub h →
      Does (.switchAnnouncement a w h) s fun t => (t.ep a.rx).drivers = putBit (s.ep a.rx).drivers w.group.val w.path ∧ kget 0 (t.ep a.rx).genSeen w.group.val = w.gen ∧
      t.queued a.rx .switchAnnounce (stewHub h) (.accept w) = true ∧ s.sameData t) ∧
  (∀ (s : State) (a : Arr) (w : Switch) (h : Fin 2), s.hears a → w.gen < kget 0 (s.ep a.rx).genSeen w.group.val →
      Does (.switchAnnouncement a w h) s fun t => (t.ep a.rx).pends = (s.ep a.rx).pends ∧ (t.ep a.rx).drivers = (s.ep a.rx).drivers ∧ (t.ep a.rx).genSeen = (s.ep a.rx).genSeen ∧ s.sameData t) ∧
  (∀ (s : State) (a : Arr) (w : Switch) (h : Fin 2), s.hears a → a.rx = stewHub h → (s.stew h).pend = [w] →
      Does (.switchAcceptance a w) s fun t => kget 0 (t.stew h).accepted w.group.val = putBit (kget 0 (s.stew h).accepted w.group.val) a.h.origin.val true ∧ (t.stew h).pend = [w] ∧ s.sameData t) ∧
  (∀ (s : State) (a : Arr) (f : FaultRep) (h : Fin 2), s.hears a → a.rx = stewHub h → s.stewUp h = true → s.leaseOk h f.group = false → f.cause ≠ 4 →
      f.cause ≠ 5 → f.cause ≠ 6 →
      Does (.faultReport a f) s fun t => (∀ l ∈ laneIds f, l ∈ (if f.path then (t.stew h).badB else (t.stew h).badA)) ∧ { f with tick := s.copyNow a.rx } ∈ (t.stew h).reports ∧
      (t.stew h).pend = (s.stew h).pend ∧ t.stew (otherStew h) = s.stew (otherStew h) ∧ s.sameData t) ∧
  (∀ (s : State) (a : Arr) (f : FaultRep) (h : Fin 2), s.hears a → a.rx = stewHub h → s.stewUp h = true → s.leaseOk h f.group = false →
      (f.cause = 4 ∨ f.cause = 5) →
      Does (.faultReport a f) s fun t => (∀ l ∈ laneIds f, l ∈ (t.stew h).rings) ∧ (t.stew h).badA = (s.stew h).badA ∧ (t.stew h).badB = (s.stew h).badB ∧ s.sameData t) ∧
  (∀ (s : State) (a : Arr) (f : FaultRep) (h : Fin 2) (act : Bool), s.hears a → a.rx = stewHub h → s.leaseOk h f.group = true → (s.stew h).partnerLost = none →
      act = hasBit (s.stew h).paths f.group.val → f.path = act → f.cause.toNat < 4 → (s.stew h).pend = [] → (s.stew h).probes = [] →
      s.standbyReady f.group = true →
      (3 ≤ distinct ((({ f with tick := s.copyNow a.rx } : FaultRep) :: (s.stew h).reports.filter fun r => s.copyNow a.rx < r.tick + 10000 && r.group = f.group && r.path = act && r.cause.toNat < 6).map (·.snd))) →
      (3 ≤ distinct ((({ f with tick := s.copyNow a.rx } : FaultRep) :: (s.stew h).reports.filter fun r => s.copyNow a.rx < r.tick + 10000 && r.group = f.group && r.path = act && r.cause.toNat < 6).map (·.rcv))) →
      (s.stew h).rings = [] → (if act then (s.stew h).startA else (s.stew h).startB) = [] → s.stewUp (otherStew h) = true →
      hasBit f.lanes (8 * f.group.val) = true → f.snd ≠ f.rcv →
      Does (.faultReport a f) s fun t => (t.stew h).pend = [⟨f.group, !act, 0, kget 0 (s.stew h).gen f.group.val⟩] ∧ (t.stew (otherStew h)).pend.any (fun w => w.group = f.group && w.path = !act) = true ∧ s.sameData t) ∧
  (∀ (s : State) (a : Arr) (ps : BitVec 4) (h : Fin 2) (gen : Nat) (g : GroupNo), s.hears a → kget 0 (s.ep a.rx).genSeen g.val ≤ gen →
      Does (.stateRecord a ps h gen) s fun t => hasBit (t.ep a.rx).waits g.val = false ∧ hasBit (t.ep a.rx).drivers g.val = hasBit ps g.val ∧ kget 0 (t.ep a.rx).genSeen g.val = gen ∧ s.sameData t) ∧
  (∀ (s : State) (a : Arr) (ps : BitVec 4) (h : Fin 2) (gen : Nat) (g : GroupNo), s.hears a → gen < kget 0 (s.ep a.rx).genSeen g.val →
      Does (.stateRecord a ps h gen) s fun t => hasBit (t.ep a.rx).waits g.val = hasBit (s.ep a.rx).waits g.val ∧ hasBit (t.ep a.rx).drivers g.val = hasBit (s.ep a.rx).drivers g.val ∧
      kget 0 (t.ep a.rx).genSeen g.val = kget 0 (s.ep a.rx).genSeen g.val ∧ s.sameData t) ∧
  (∀ (s : State) (e : EpId) (p : PlaneNo) (d : Int) (k : Nat), s.on = true → (s.ep e).isolated = false →
      (k ≠ pilotKhz 0 ∨ d < kget 0 (s.ep e).probeRef p.val - 300 ∨ d < -4000) → hasBit (s.ep e).probeFail p.val = false → e.val < 28 →
      Does (.probeReading e p d k) s fun t => hasBit (t.ep e).probeFail p.val = true ∧ kget 0 (t.ep e).probeClean p.val = 0 ∧ s.sameData t ∧ t.evr = s.evr.offer s.now { code := 0x9001, sev := warn, cls := 0x08, num := e.val, detail := BitVec.ofNat 96 p.val } ∧
      t.queued e .switchAnnounce 28 (.fault { snd := e, rcv := e, group := groupOf p, path := !hasBit (s.ep e).drivers (groupOf p).val, cause := 6, lanes := putBit 0 p.val true, tick := s.copyNow e }) = true) ∧
  (∀ (s : State) (e : EpId) (p : PlaneNo) (d : Int) (k : Nat), s.on = true → (s.ep e).isolated = false → k = pilotKhz 0 →
      kget 0 (s.ep e).probeRef p.val - 300 ≤ d → -4000 ≤ d → hasBit (s.ep e).probeFail p.val = true → 99 ≤ kget 0 (s.ep e).probeClean p.val →
      Does (.probeReading e p d k) s fun t => hasBit (t.ep e).probeFail p.val = false ∧ hasBit (t.ep e).probeNew p.val = false ∧ kget 0 (t.ep e).probeClean p.val = 0 ∧ t.stewA.probes.contains (32 * e.val + p.val) = false ∧ t.stewB.probes.contains (32 * e.val + p.val) = false ∧ t.evr = s.evr ∧ s.sameData t) ∧
  (∀ (s : State) (e : EpId) (p : PlaneNo) (d : Int) (k : Nat), s.on = true → (s.ep e).isolated = false → k = pilotKhz 0 →
      kget 0 (s.ep e).probeRef p.val - 300 ≤ d → -4000 ≤ d → hasBit (s.ep e).probeFail p.val = true → kget 0 (s.ep e).probeClean p.val < 99 →
      Does (.probeReading e p d k) s fun t => t = s.modEp e fun x => { x with probeClean := kput 0 x.probeClean p.val (kget 0 x.probeClean p.val + 1) }) ∧
  (∀ (s : State) (e : EpId) (r : BitVec 512), s.on = true → (s.ep e).isolated = false → (s.ep e).ctlDead = 0 → cwCheckOk r = false →
      Does (.causewayRecord e r) s fun t => (t.ep e).standbyOk = false ∧ (t.ep e).cwImage = {} ∧ (t.ep e).cwPos = some 0 ∧ (t.ep e).cwRx = none ∧ t.evr = s.evr.offer s.now { code := 0x9003, sev := warn, cls := 0x08, num := e.val } ∧ s.sameData t) ∧
  (∀ (s : State) (e : EpId) (r : BitVec 512) (k : CwSlot), s.on = true → (s.ep e).isolated = false → (s.ep e).ctlDead = 0 → cwCheckOk r = true →
      ((s.ep e).cwRx = none ∨ (s.ep e).cwRx.any (fun c => decide (cwCountOf r = (c + 1) % 65536)) = true) → cwSlotOf r 0 = k →
      (((List.range 5).all fun i => (cwSlotOf r (i + 1)).kind = 0) = true) → 0 < k.kind.toNat → k.kind.toNat < 11 → k.kind ≠ 7 →
      Does (.causewayRecord e r) s fun t => (slotKey k, k.value) ∈ (t.ep e).cwImage.vals ∧ (t.ep e).cwImage.board = (s.ep e).cwImage.board ∧ (t.ep e).cwRx = some (cwCountOf r) ∧
      ((s.ep e).standbyOk = true → (t.ep e).standbyOk = true) ∧ ((s.ep e).standbyOk = false → (s.ep e).cwPos.isSome = true → (t.ep e).standbyOk = false) ∧ t.evr = s.evr ∧ s.sameData t) ∧
  (∀ (s : State) (e : EpId) (r : BitVec 512) (k : CwSlot), s.on = true → (s.ep e).isolated = false → (s.ep e).ctlDead = 0 → cwCheckOk r = true →
      ((s.ep e).cwRx = none ∨ (s.ep e).cwRx.any (fun c => decide (cwCountOf r = (c + 1) % 65536)) = true) → cwSlotOf r 0 = k →
      (((List.range 5).all fun i => (cwSlotOf r (i + 1)).kind = 0) = true) → k.kind = 7 →
      Does (.causewayRecord e r) s fun t => ((k.ep.val, k.value.toNat % 2 ^ 24) ∈ (t.ep e).cwImage.board ↔ k.value.getLsbD 28 = true) ∧ (t.ep e).cwImage.vals = (s.ep e).cwImage.vals ∧ t.evr = s.evr ∧ s.sameData t) ∧
  (∀ (s : State) (e : EpId) (r : BitVec 512) (c : Nat), s.on = true → (s.ep e).isolated = false → (s.ep e).ctlDead = 0 → (s.ep e).cwRx = some c →
      cwCountOf r ≠ (c + 1) % 65536 →
      Does (.causewayRecord e r) s fun t => (t.ep e).standbyOk = false ∧ (t.ep e).cwPos = some 0 ∧ t.evr = s.evr.offer s.now { code := 0x9003, sev := warn, cls := 0x08, num := e.val } ∧ s.sameData t) ∧
  (∀ (s : State) (e : EpId), s.on = true → (s.ep e).isolated = false → (s.ep e).ctlDead = 0 →
      Does (.causewayRecordMissing e) s fun t => (t.ep e).standbyOk = false ∧ (t.ep e).cwImage = {} ∧ (t.ep e).cwPos = some 0 ∧ (t.ep e).cwRx = none ∧ t.evr = s.evr.offer s.now { code := 0x9003, sev := warn, cls := 0x08, num := e.val } ∧ s.sameData t)

/-- An eye monitor's sample: a fixed group with a range of 0.15 or more only has its range kept; from 0.10 up to 0.15 the group's warning is recorded once in a
start; a region group below 0.10 begins its 1 ms, and after it the region's highest allowed frequency falls by 50 MHz; a fixed group below 0.10 records its error
once; the words and corrected errors of a lane are counted, and after 1 s with more than one in a million the lane is tested first at the next tuning, with a
warning. A UCIe flit in count takes its credits and ends a skip where a packet starts in it; one that fails its length or CRC or is out of count is discarded and
the next packet start is awaited. A UCIe link of an MP that goes down under the reset-notice puts the MP's stacks to self-refresh; one of an open site isolates
the site. A site's temperature report is noted, its limit isolates it, and so does 100 ms without a report. A packet of a site that no partition has, or not on VC
2, is answered with its status, and a load of an owned site becomes an operation. It has a clause that concludes completion (exec answers a next state) for each
of: EYE_MONITOR_SAMPLE, UCIE_FLIT, UCIE_LINK_DOWN, OPEN_SITE_TEMP_REPORT, OPEN_SITE_TEMP_TIMEOUT, OPEN_SITE_PACKET. (R495, R499, R500, R501, R502, R503) -/
def Obligations.DieLinksAndSites : Prop :=
  (∀ (s : State) (l g : VLane) (n w : Nat), s.on = true → s.pw.rails = true → l.wf = true → s.bt.eyeCounts = [] → l.isRegion = false →
      g = { l with lane := l.first } → 150 ≤ s.eyeRange l n →
      Does (.eyeMonitorSample l.stack l.bundle l.lane n w []) s fun t => t = { s with bt := { s.bt with eyes := (s.bt.eyes.filter fun c => c.1 ≠ g) ++ [(g, s.eyeRange l n)], eyeLow := s.bt.eyeLow.filter fun c => c.1 ≠ g } }) ∧
  (∀ (s : State) (l g : VLane) (n w : Nat), s.on = true → s.pw.rails = true → l.wf = true → s.bt.eyeCounts = [] →
      (l.isRegion = false ∨ (s.region l.stack ⟨l.bundle % 100, by omega⟩).mhz ≠ 0) → g = { l with lane := l.first } → 100 ≤ s.eyeRange l n →
      s.eyeRange l n < 150 → s.bt.eyeWarned.contains (g, false) = false →
      Does (.eyeMonitorSample l.stack l.bundle l.lane n w []) s fun t => t.bt.eyeWarned = s.bt.eyeWarned ++ [(g, false)] ∧ (g, s.eyeRange l n) ∈ t.bt.eyes ∧ t.regions = s.regions ∧ s.sameData t ∧
      t.evr = s.evr.offer s.now { code := 0xA002, sev := warn, cls := 0x01, num := l.stack.val, detail := BitVec.ofNat 96 (l.bundle * 2 ^ 15 + l.first) }) ∧
  (∀ (s : State) (l g : VLane) (n w : Nat), s.on = true → s.pw.rails = true → l.wf = true → s.bt.eyeCounts = [] →
      (l.isRegion = false ∨ (s.region l.stack ⟨l.bundle % 100, by omega⟩).mhz ≠ 0) → g = { l with lane := l.first } → 100 ≤ s.eyeRange l n →
      s.eyeRange l n < 150 → s.bt.eyeWarned.contains (g, false) = true →
      Does (.eyeMonitorSample l.stack l.bundle l.lane n w []) s fun t => (g, s.eyeRange l n) ∈ t.bt.eyes ∧ t.evr = s.evr ∧ t.regions = s.regions ∧ s.sameData t) ∧
  (∀ (s : State) (l g : VLane) (n w : Nat), s.on = true → s.pw.rails = true → l.wf = true → s.bt.eyeCounts = [] → l.isRegion = true →
      (s.region l.stack ⟨l.bundle % 100, by omega⟩).mhz ≠ 0 → g = { l with lane := l.first } → s.eyeRange l n < 100 → s.bt.eyeLow = [] →
      Does (.eyeMonitorSample l.stack l.bundle l.lane n w []) s fun t => t.bt.eyeLow = [(g, s.now)] ∧ t.regions = s.regions ∧ s.sameData t) ∧
  (∀ (s : State) (l g : VLane) (n a w : Nat), s.on = true → s.pw.rails = true → l.wf = true → s.bt.eyeCounts = [] → l.isRegion = true →
      (s.region l.stack ⟨l.bundle % 100, by omega⟩).mhz ≠ 0 → g = { l with lane := l.first } → s.eyeRange l n < 100 → s.bt.eyeLow = [(g, a)] →
      a + 1000000 ≤ s.now → 50 ≤ (s.region l.stack ⟨l.bundle % 100, by omega⟩).maxMhz →
      Does (.eyeMonitorSample l.stack l.bundle l.lane n w []) s fun t => t.bt.eyeLow = [(g, s.now)] ∧ (t.region l.stack ⟨l.bundle % 100, by omega⟩).maxMhz + 50 = (s.region l.stack ⟨l.bundle % 100, by omega⟩).maxMhz ∧ s.sameData t) ∧
  (∀ (s : State) (l g : VLane) (n a w : Nat), s.on = true → s.pw.rails = true → l.wf = true → s.bt.eyeCounts = [] → l.isRegion = false →
      g = { l with lane := l.first } → s.eyeRange l n < 100 → s.bt.eyeWarned.contains (g, false) = true → s.bt.eyeWarned.contains (g, true) = false →
      Does (.eyeMonitorSample l.stack l.bundle l.lane n w []) s fun t => t.bt.eyeWarned = s.bt.eyeWarned ++ [(g, true)] ∧ t.regions = s.regions ∧ s.sameData t ∧
      t.evr = s.evr.offer s.now { code := 0xA003, sev := err, cls := 0x01, num := l.stack.val, detail := BitVec.ofNat 96 (l.bundle * 2 ^ 15 + l.first) }) ∧
  (∀ (s : State) (l : VLane) (n w e : Nat), s.on = true → s.pw.rails = true → l.wf = true → l.isRegion = false → 150 ≤ s.eyeRange l n → s.bt.eyeCounts = [] →
      Does (.eyeMonitorSample l.stack l.bundle l.lane n w [(l.lane, e)]) s fun t => t.bt.eyeCounts = [(l, s.now, w, e)] ∧ t.bt.testFirst = s.bt.testFirst ∧ t.evr = s.evr ∧ t.regions = s.regions ∧ s.sameData t) ∧
  (∀ (s : State) (l : VLane) (n w e a w0 e0 : Nat), s.on = true → s.pw.rails = true → l.wf = true → l.isRegion = false → 150 ≤ s.eyeRange l n →
      s.bt.eyeCounts = [(l, a, w0, e0)] → a + 1000000000 ≤ s.now → w0 + w < (e0 + e) * 1000000 →
      Does (.eyeMonitorSample l.stack l.bundle l.lane n w [(l.lane, e)]) s fun t => t.bt.eyeCounts = [] ∧ l ∈ t.bt.testFirst ∧ t.regions = s.regions ∧ s.sameData t ∧
      t.evr = s.evr.offer s.now { code := 0xA004, sev := warn, cls := 0x01, num := l.stack.val, detail := BitVec.ofNat 96 (l.bundle * 2 ^ 15 + l.lane) }) ∧
  (∀ (s : State) (u : Fin 76) (bs : List Byte), s.on = true → (s.ucieMod u.val).up = true → bs.length = 256 → field bs 0xFC 4 = (crc32c (bs.take 0xFC)).toNat →
      field bs 0 2 = (s.ucieMod u.val).count →
      Does (.ucieFlit u bs) s fun t => (t.ucieMod u.val).count = ((s.ucieMod u.val).count + 1) % 65536 ∧ (t.ucieMod u.val).skipping = ((s.ucieMod u.val).skipping && 240 ≤ field bs 2 1) ∧
      kget 0 (t.ucieMod u.val).credits (field bs 3 1 / 64) = kget 0 (s.ucieMod u.val).credits (field bs 3 1 / 64) - field bs 3 1 % 64 ∧ s.sameData t) ∧
  (∀ (s : State) (u : Fin 76) (bs : List Byte), s.on = true → (s.ucieMod u.val).up = true →
      (bs.length ≠ 256 ∨ field bs 0xFC 4 ≠ (crc32c (bs.take 0xFC)).toNat) →
      Does (.ucieFlit u bs) s fun t => (t.ucieMod u.val).count = ((s.ucieMod u.val).count + 1) % 65536 ∧ (t.ucieMod u.val).skipping = true ∧ (t.ucieMod u.val).part = [] ∧ (t.ucieMod u.val).credits = (s.ucieMod u.val).credits ∧ s.sameData t) ∧
  (∀ (s : State) (u : Fin 76) (bs : List Byte), s.on = true → (s.ucieMod u.val).up = true → bs.length = 256 → field bs 0xFC 4 = (crc32c (bs.take 0xFC)).toNat →
      field bs 0 2 ≠ (s.ucieMod u.val).count →
      Does (.ucieFlit u bs) s fun t => (t.ucieMod u.val).count = (field bs 0 2 + 1) % 65536 ∧ (t.ucieMod u.val).skipping = true ∧ (t.ucieMod u.val).part = [] ∧ (t.ucieMod u.val).credits = (s.ucieMod u.val).credits ∧ s.sameData t) ∧
  (∀ (s : State) (k : Fin 8) (h : TileId), s.on = true → s.pw.rails = true → h.val = k.val / 2 → (s.ep (hubEp h)).isolated = true →
      Does (.ucieLinkDown (.mp k)) s fun t => t.die k = { s.die k with selfRef := (s.die k).trained, full := [] } ∧ (∀ u ∈ modulesOf (.mp k), (t.ucieMod u).up = false) ∧ t.parts = s.parts ∧ s.sameData t) ∧
  (∀ (s : State) (h : TileId), s.on = true → s.pw.rails = true → (s.site h).on = true → (s.site h).isolated = false →
      Does (.ucieLinkDown (.site h)) s fun t => (t.site h).isolated = true ∧ (∀ u ∈ modulesOf (.site h), (t.ucieMod u).up = false) ∧ s.sameData t) ∧
  (∀ (s : State) (h : TileId) (d : Int), s.on = true → (s.site h).on = true → (s.site h).isolated = false → d < (s.site h).limit →
      Does (.openSiteTempReport h d) s fun t => t = s.modSite h fun k => { k with lastReport := s.now }) ∧
  (∀ (s : State) (h : TileId) (d : Int), s.on = true → (s.site h).on = true → (s.site h).isolated = false → (s.site h).limit ≤ d →
      Does (.openSiteTempReport h d) s fun t => (t.site h).isolated = true ∧ s.sameData t) ∧
  (∀ (s : State) (h : TileId), s.on = true → (s.site h).on = true → (s.site h).isolated = false → (s.site h).lastReport + 100000000 ≤ s.now →
      Does (.openSiteTempTimeout h) s fun t => (t.site h).isolated = true ∧ s.sameData t) ∧
  (∀ (s : State) (h : TileId), s.now < (s.site h).lastReport + 100000000 →
      Does (.openSiteTempTimeout h) s fun t => t = s) ∧
  (∀ (s : State) (h : TileId) (vc : BitVec 2) (op : POp) (a : BitVec 48) (pl : Payload) (n : Nat), s.on = true → (s.site h).on = true →
      (s.site h).isolated = false → (s.ep (hubEp h)).isolated = false → s.siteOwner h = none →
      Does (.openSitePacket h vc op a pl n) s fun t => t = s.emit (.siteReply h n stNotOwned [])) ∧
  (∀ (s : State) (h : TileId) (vc : BitVec 2) (op : POp) (a : BitVec 48) (pl : Payload) (n : Nat) (p : PartId), s.on = true → (s.site h).on = true →
      (s.site h).isolated = false → (s.ep (hubEp h)).isolated = false → s.siteOwner h = some p → vc ≠ 2 →
      Does (.openSitePacket h vc op a pl n) s fun t => t = s.emit (.siteReply h n stAddress [])) ∧
  (∀ (s : State) (h : TileId) (vc : BitVec 2) (op : POp) (a : BitVec 48) (pl : Payload) (n : Nat) (p : PartId), s.on = true → (s.site h).on = true →
      (s.site h).isolated = false → (s.ep (hubEp h)).isolated = false → s.siteOwner h = some p → vc = 2 → op = .load → s.ops = [] →
      Does (.openSitePacket h vc op a pl n) s fun t => t.nextOp = s.nextOp + 1 ∧ s.sameData t)

/-- An SPDM request is answered ResponseNotReady while Pyhiet restarts, BUSY while another transport is served, UnexpectedRequest before its connection state, and
not at all where it does not arrive. GET_VERSION begins the connection afresh and ends its sessions; GET_CAPABILITIES of SPDM 1.3 or later and
NEGOTIATE_ALGORITHMS take it on; GET_DIGESTS answers the two chain digests, GET_CERTIFICATE a portion of a chain, CHALLENGE of slot 0 a signature by the
attestation key; GET_MEASUREMENTS unsigned answers the number of blocks or one block, InvalidRequest for an index without a block; KEY_EXCHANGE adds an unfinished
session while the transport has fewer than two; FINISH with right verify data finishes the transport's one session and ties a maintainer certificate to this
module's serial, with wrong data it ends it; HEARTBEAT and KEY_UPDATE need a finished session; END_SESSION ends it and closes debug with a maintainer's. The
message codes are the SPDM standard's (log 20). It has a clause that concludes completion (exec answers a next state) for each of: CHALLENGE, GET_DIGESTS,
GET_VERSION, GET_CAPABILITIES, NEGOTIATE_ALGORITHMS, GET_CERTIFICATE, GET_MEASUREMENTS, KEY_EXCHANGE, FINISH, SPDM_HEARTBEAT, KEY_UPDATE, END_SESSION. (R560,
R562, R563, R564, R566, R568, R569) -/
def Obligations.SpdmResponder : Prop :=
  (∀ (s : State) (r : SpdmReq), s.spdmUp r = true → s.pyhDown = true →
      Does (.challenge r 0 []) s fun t => .spdm r.x 0x7F [0x42, 18] ∈ t.out ∧ t.parts = s.parts ∧ s.sameData t) ∧
  (∀ (s : State) (r : SpdmReq), s.spdmUp r = true → s.pyhDown = false → r.busy = true →
      Does (.getDigests r) s fun t => .spdm r.x 0x7F [3, 0] ∈ t.out ∧ t.parts = s.parts ∧ s.sameData t) ∧
  (∀ (s : State) (r : SpdmReq), s.spdmUp r = true → s.pyhDown = false → r.busy = false → r.ses = none → (s.spdmOf r.x).state < 3 →
      Does (.getDigests r) s fun t => .spdm r.x 0x7F [4, 0] ∈ t.out ∧ t.parts = s.parts ∧ s.sameData t) ∧
  (∀ (s : State) (r : SpdmReq), s.spdmUp r = false →
      Does (.getDigests r) s fun t => t = s) ∧
  (∀ (s : State) (r : SpdmReq), s.spdmReady r 0 → r.ses = none →
      Does (.getVersion r) s fun t => (t.spdmOf r.x).state = 1 ∧ (t.spdmOf r.x).sessions = [] ∧ .spdm r.x 0x04 spdmVersions ∈ t.out ∧ t.parts = s.parts ∧ s.sameData t) ∧
  (∀ (s : State) (r : SpdmReq) (v : BitVec 8), s.spdmReady r 1 → 0x13 ≤ v.toNat →
      Does (.getCapabilities r v) s fun t => (t.spdmOf r.x).state = max (s.spdmOf r.x).state 2 ∧ (t.spdmOf r.x).sessions = (s.spdmOf r.x).sessions ∧ t.parts = s.parts ∧ s.sameData t) ∧
  (∀ (s : State) (r : SpdmReq) (v : BitVec 8), s.spdmReady r 1 → v.toNat < 0x13 →
      Does (.getCapabilities r v) s fun t => t.spdmOf r.x = s.spdmOf r.x ∧ .spdm r.x 0x7F [0x41, 0] ∈ t.out ∧ t.parts = s.parts ∧ s.sameData t) ∧
  (∀ (s : State) (r : SpdmReq), s.spdmReady r 2 →
      Does (.negotiateAlgorithms r) s fun t => (t.spdmOf r.x).state = 3 ∧ (t.spdmOf r.x).sessions = (s.spdmOf r.x).sessions ∧ .spdm r.x 0x63 spdmAlgorithms ∈ t.out ∧ t.parts = s.parts ∧ s.sameData t) ∧
  (∀ (s : State) (r : SpdmReq), s.spdmReady r 3 →
      Does (.getDigests r) s fun t => .spdm r.x 0x01 (digest48 (Config.sha384 (s.chain 0)) ++ digest48 (Config.sha384 (s.chain 1))) ∈ t.out ∧ t.spdmOf r.x = s.spdmOf r.x ∧ t.parts = s.parts ∧ s.sameData t) ∧
  (∀ (s : State) (r : SpdmReq) (n : BitVec 8) (o l : BitVec 16) (bs : List Byte), s.spdmReady r 3 → n.toNat ≤ 1 → o.toNat ≤ (s.chain n.toNat).length →
      bs = ((s.chain n.toNat).drop o.toNat).take l.toNat →
      Does (.getCertificate r n o l) s fun t => .spdm r.x 0x02 (leBytes 2 bs.length ++ leBytes 2 ((s.chain n.toNat).length - o.toNat - bs.length) ++ bs) ∈ t.out ∧ t.parts = s.parts ∧ s.sameData t) ∧
  (∀ (s : State) (r : SpdmReq) (n : BitVec 8) (o l : BitVec 16), s.spdmReady r 3 → 1 < n.toNat →
      Does (.getCertificate r n o l) s fun t => .spdm r.x 0x7F [1, 0] ∈ t.out ∧ t.parts = s.parts ∧ s.sameData t) ∧
  (∀ (s : State) (r : SpdmReq) (nc m : List Byte), s.spdmReady r 3 → s.pyh.attKey ≠ 0 → m = digest48 (Config.sha384 (s.chain 0)) ++ nc →
      Does (.challenge r 0 nc) s fun t => .spdm r.x 0x03 (m ++ slice (Config.sign s.pyh.attKey m) 0 96) ∈ t.out ∧ t.parts = s.parts ∧ s.sameData t) ∧
  (∀ (s : State) (r : SpdmReq) (n : BitVec 8) (nc : List Byte), s.spdmReady r 3 → n ≠ 0 →
      Does (.challenge r n nc) s fun t => .spdm r.x 0x7F [1, 0] ∈ t.out ∧ t.parts = s.parts ∧ s.sameData t) ∧
  (∀ (s : State) (r : SpdmReq) (op : BitVec 8) (v nc : List Byte), s.spdmReady r 3 → op ≠ 0 → op ≠ 0xFF → s.measurement r.x op.toNat = some v →
      Does (.getMeasurements r op false nc) s fun t => .spdm r.x 0x60 (op :: v) ∈ t.out ∧ t.parts = s.parts ∧ s.sameData t) ∧
  (∀ (s : State) (r : SpdmReq) (nc : List Byte), s.spdmReady r 3 →
      Does (.getMeasurements r 0 false nc) s fun t => .spdm r.x 0x60 [70] ∈ t.out ∧ t.parts = s.parts ∧ s.sameData t) ∧
  (∀ (s : State) (r : SpdmReq) (op : BitVec 8) (v nc : List Byte) (k : Bool), s.spdmReady r 3 → op ≠ 0 → op ≠ 0xFF → s.measurement r.x op.toNat = none →
      Does (.getMeasurements r op k nc) s fun t => .spdm r.x 0x7F [1, 0] ∈ t.out ∧ t.parts = s.parts ∧ s.sameData t) ∧
  (∀ (s : State) (r : SpdmReq) (i : BitVec 16), s.spdmReady r 3 → r.ses = none → (s.spdmOf r.x).sessions.length < 2 → s.pyh.attKey ≠ 0 →
      Does (.keyExchange r i) s fun t => (t.spdmOf r.x).sessions.length = (s.spdmOf r.x).sessions.length + 1 ∧ ((t.spdmOf r.x).sessions.all fun y => (s.spdmOf r.x).sessions.contains y || (!y.finished && y.peer = none && !y.maintainer && y.id.setWidth 16 = i)) = true ∧ t.free = s.free + 1 ∧ t.parts = s.parts ∧ s.sameData t) ∧
  (∀ (s : State) (r : SpdmReq) (i : BitVec 16), s.spdmReady r 3 → r.ses = none → 2 ≤ (s.spdmOf r.x).sessions.length →
      Does (.keyExchange r i) s fun t => t.spdmOf r.x = s.spdmOf r.x ∧ .spdm r.x 0x7F [0x0A, 0] ∈ t.out ∧ t.parts = s.parts ∧ s.sameData t) ∧
  (∀ (s : State) (r : SpdmReq) (i : BitVec 32) (c : Option PeerCert) (y : Session), s.spdmReady r 3 → r.ses = some i → (s.spdmOf r.x).sessions = [y] →
      y.finished = false →
      Does (.finish r true c) s fun t => (t.spdmOf r.x).sessions = [{ y with finished := true, peer := c, maintainer := c.any fun k => k.maintainerCa && k.serial = s.bt.serial }] ∧ .spdm r.x 0x65 [] ∈ t.out ∧ t.parts = s.parts ∧ s.sameData t) ∧
  (∀ (s : State) (r : SpdmReq) (i : BitVec 32) (c : Option PeerCert) (y : Session), s.spdmReady r 3 → r.ses = some i → (s.spdmOf r.x).sessions = [y] →
      y.finished = false →
      Does (.finish r false c) s fun t => (t.spdmOf r.x).sessions = [] ∧ .spdm r.x 0x7F [6, 0] ∈ t.out ∧ t.parts = s.parts ∧ s.sameData t) ∧
  (∀ (s : State) (r : SpdmReq) (y : Session), s.spdmReady r 3 → s.sessionOf r = some y →
      Does (.spdmHeartbeat r) s fun t => t.spdmOf r.x = s.spdmOf r.x ∧ .spdm r.x 0x68 [] ∈ t.out ∧ t.parts = s.parts ∧ s.sameData t) ∧
  (∀ (s : State) (r : SpdmReq), s.spdmReady r 3 → s.sessionOf r = none →
      Does (.spdmHeartbeat r) s fun t => t.spdmOf r.x = s.spdmOf r.x ∧ .spdm r.x 0x7F [4, 0] ∈ t.out ∧ t.parts = s.parts ∧ s.sameData t) ∧
  (∀ (s : State) (r : SpdmReq) (y : Session) (op : BitVec 8), s.spdmReady r 3 → s.sessionOf r = some y → (s.spdmOf r.x).sessions = [y] →
      (op = 1 ∨ op = 2 ∨ op = 3) →
      Does (.keyUpdate r op) s fun t => (t.spdmOf r.x).sessions = [{ y with keyGen := (if op = 3 then y.keyGen else y.keyGen + 1) }] ∧ .spdm r.x 0x69 [op] ∈ t.out ∧ t.parts = s.parts ∧ s.sameData t) ∧
  (∀ (s : State) (r : SpdmReq) (y : Session), s.spdmReady r 3 → s.sessionOf r = some y → (s.spdmOf r.x).sessions = [y] →
      Does (.endSession r) s fun t => (t.spdmOf r.x).sessions = [] ∧ t.pyh.tempDebug = (s.pyh.tempDebug && !y.maintainer) ∧ .spdm r.x 0x6C [] ∈ t.out ∧ t.parts = s.parts ∧ s.sameData t)

/-- A BIND in a secure session of the port that serves a committed partition fetches the header and is answered with the status its checks find, or with the
number of the bind that then runs; it waits where the page-map loader is away; outside such a session it is UnsupportedRequest. BIND_STATUS of a bind of the port
is answered with its status and pages done, and of another is InvalidRequest. When the decryption of a partition's one running bind ends, its key is erased, and
either its status is the failure's, or every page is offered as bound in one batch. The hashing of a seal's leaves gives its root, or drops the seal where a page
is lost. Signing keeps the 352 bytes of the seal among the partition's seals, with the handle in its period's record where that period waits; nothing is signed
while Pyhiet restarts or without an attestation key. It has a clause that concludes completion (exec answers a next state) for each of: BIND, BIND_STATUS,
BIND_COMPLETE, SEAL_LEAVES_HASHED, SEAL_SIGNED. (R555, R574, R576, R577, R580, R581, R582, R583, R584) -/
def Obligations.BindsAndSeals : Prop :=
  (∀ (s : State) (r : SpdmReq) (q : BitVec 8) (a l : BitVec 64) (f : BitVec 32) (e : List Byte) (p : PartId) (u : PortId), s.spdmReady r 0 → p.val = q.toNat →
      (s.part p).block = .committed → (s.part p).servPort = u → s.doePort r = some u → s.loaderDown = false →
      Does (.bind r q a l f e) s fun t => (∀ st, s.bindCheck p a.toNat l.toNat f.toNat e = .error st → .spdm r.x 0x7E [BitVec.ofNat 8 st] ∈ t.out ∧ t.parts = s.parts) ∧
      (∀ x, s.bindCheck p a.toNat l.toNat f.toNat e = .ok x → (t.part p).binds = (s.part p).binds ++ [x] ∧ t.pyh.bindNo = (s.pyh.bindNo + 1) % 65536 ∧ .spdm r.x 0x7E (leBytes 2 x.no) ∈ t.out) ∧
      .hostRead u a.toNat 0x2000 ∈ t.out ∧ s.sameData t) ∧
  (∀ (s : State) (r : SpdmReq) (q : BitVec 8) (a l : BitVec 64) (f : BitVec 32) (e : List Byte) (p : PartId) (u : PortId), s.spdmReady r 0 → p.val = q.toNat →
      (s.part p).block = .committed → (s.part p).servPort = u → s.doePort r = some u → s.loaderDown = true →
      Does (.bind r q a l f e) s fun t => t.pyh.bindWait = s.pyh.bindWait ++ [⟨r, q, a, l, f, e⟩] ∧ t.parts = s.parts ∧ t.out = s.out ∧ s.sameData t) ∧
  (∀ (s : State) (r : SpdmReq) (q : BitVec 8) (a l : BitVec 64) (f : BitVec 32) (e : List Byte), s.spdmReady r 0 → s.doePort r = none →
      Does (.bind r q a l f e) s fun t => .spdm r.x 0x7F [7, 0xFE] ∈ t.out ∧ t.parts = s.parts ∧ s.sameData t) ∧
  (∀ (s : State) (r : SpdmReq) (n : BitVec 16) (u : PortId) (x : Bind), s.spdmReady r 0 → s.doePort r = some u →
      ((((allParts.filter fun p => ((s.part p).block = .committed || (s.part p).block = .tearing) && (s.part p).servPort = u).flatMap fun p => (s.part p).binds).find? fun y => y.no = n.toNat) = some x) →
      Does (.bindStatus r n) s fun t => .spdm r.x 0x7E (leBytes 1 x.status ++ leBytes 4 x.done) ∈ t.out ∧ t.parts = s.parts ∧ s.sameData t) ∧
  (∀ (s : State) (r : SpdmReq) (n : BitVec 16) (u : PortId), s.spdmReady r 0 → s.doePort r = some u →
      ((((allParts.filter fun p => ((s.part p).block = .committed || (s.part p).block = .tearing) && (s.part p).servPort = u).flatMap fun p => (s.part p).binds).find? fun y => y.no = n.toNat) = none) →
      Does (.bindStatus r n) s fun t => .spdm r.x 0x7F [1, 0] ∈ t.out ∧ t.parts = s.parts ∧ s.sameData t) ∧
  (∀ (s : State) (p : PartId) (x : Bind) (l : List (List Byte × List Byte)) (st : Nat), s.on = true → (s.part p).binds = [x] → x.ended = false → x.key ≠ [] →
      (s.bindPages p x l 0).2.1 = some st →
      Does (.bindComplete p l) s fun t => (t.part p).binds = [{ x with key := [], status := st, done := (s.bindPages p x l 0).1, ended := true }] ∧ t.pm = s.pm ∧ t.cores = s.cores) ∧
  (∀ (s : State) (p : PartId) (x : Bind) (l : List (List Byte × List Byte)), s.on = true → (s.part p).binds = [x] → x.ended = false → x.key ≠ [] →
      (s.bindPages p x l 0).2.1 = none →
      Does (.bindComplete p l) s fun t => (t.part p).binds = [{ x with key := [], done := (s.bindPages p x l 0).1 }] ∧ t.hbm = (s.bindPages p x l 0).2.2.hbm ∧ t.cores = s.cores ∧
      t.pm.waiting = s.pm.waiting ++ [{ src := .bound p x.no, flip := false, recs := (List.range x.pages).map fun i => (x.first + i, boundEntry (s.mapEntry (x.first + i))) }]) ∧
  (∀ (s : State) (p : PartId) (x : Sealing), s.on = true → (s.part p).sealing = [x] → x.hashed = false →
      ((x.pages.any fun q => eLost (s.mapEntry q.1)) = false) → s.ops = [] → (∀ e, (s.ep e).stalled = []) →
      Does (.sealLeavesHashed p x.period) s fun t => (t.part p).sealing = [{ x with hashed := true, root := treeRoot (x.pages.flatMap s.leafHashes).length (x.pages.flatMap s.leafHashes) }] ∧ t.evr = s.evr ∧ s.sameData t) ∧
  (∀ (s : State) (p : PartId) (x : Sealing), s.on = true → (s.part p).sealing = [x] → x.hashed = false →
      ((x.pages.any fun q => eLost (s.mapEntry q.1)) = true) → s.ops = [] → (∀ e, (s.ep e).stalled = []) →
      Does (.sealLeavesHashed p x.period) s fun t => (t.part p).sealing = [] ∧ s.sameData t) ∧
  (∀ (s : State) (p : PartId) (x : Sealing), s.on = true → s.pyhDown = false → s.pyh.attKey ≠ 0 → (s.part p).sealing = [x] → x.hashed = true →
      (s.part p).periods = [] → (s.part p).seals.length < 64 →
      Does (.sealSigned p x.period) s fun t => (t.part p).sealing = [] ∧ (t.part p).seals = (s.part p).seals ++ [⟨x.period, s.sealBytes p x⟩] ∧ s.sameData t) ∧
  (∀ (s : State) (p : PartId) (x : Sealing) (n : Period) (bs : List Byte), s.on = true → s.pyhDown = false → s.pyh.attKey ≠ 0 → (s.part p).sealing = [x] →
      x.hashed = true → (s.part p).periods = [n] → n.no = x.period → n.decided = 0 → bs = s.sealBytes p x →
      Does (.sealSigned p x.period) s fun t => (t.part p).sealing = [] ∧ (t.part p).seals.getLast? = some ⟨x.period, bs⟩ ∧ ((t.part p).periods.find? (fun m => m.no = n.no)).bind (fun m => m.compl) = some { x.compl with handle := BitVec.ofNat 64 (field (Config.sha384 bs) 0 8) } ∧ s.sameData t) ∧
  (∀ (s : State) (p : PartId) (x : Sealing), (s.pyhDown = true ∨ s.pyh.attKey = 0) →
      Does (.sealSigned p x.period) s fun t => t = s)

/-- A control message that is taken (addressed to the endpoint ID, or to the null one) is answered at once with its completion code and data; Set Endpoint ID sets
the endpoint ID, and refuses 0 and 0xFF. A PLDM request addressed to the endpoint ID is answered with what it asks for: SetTID sets the terminus ID and refuses 0
and 0xFF, GetTID returns it, GetPLDMVersion, GetPLDMTypes and GetPLDMCommands tell what is supported, GetPDR returns one of the 98 records, GetSensorReading a
value or that it is unavailable, GetStateSensorReadings the state; an unknown record or sensor is refused by code. GetTID is answered ERROR_NOT_READY while Pyhiet
restarts, and a message that is not taken changes nothing. Each answer raises interrupt 0xAE. Codes are those of the DMTF standards (log 20). It has a clause that
concludes completion (exec answers a next state) for each of: SET_ENDPOINT_ID, GET_ENDPOINT_ID, GET_ENDPOINT_UUID, GET_MCTP_VERSION_SUPPORT,
GET_MESSAGE_TYPE_SUPPORT, GET_VENDOR_DEFINED_MESSAGE_SUPPORT, SETTID, GETTID, GETPLDMVERSION, GETPLDMTYPES, GETPLDMCOMMANDS, GETPDRREPOSITORYINFO, GETPDR,
GETSENSORREADING, GETSTATESENSORREADINGS. (R595, R596, R597, R599, R600) -/
def Obligations.SidebandMessages : Prop :=
  (∀ (s : State) (m : Mctp) (e : BitVec 8), s.takesControl m = true → e ≠ 0 → e ≠ 0xFF →
      Does (.setEndpointId m e) s fun t => t = { s with pyh := { s.pyh with eid := e }, out := .ibi 0xAE :: .mctp 1 [0, 0, e, 0] :: s.out }) ∧
  (∀ (s : State) (m : Mctp) (e : BitVec 8), s.takesControl m = true → (e = 0 ∨ e = 0xFF) →
      Does (.setEndpointId m e) s fun t => t = { s with out := .ibi 0xAE :: .mctp 1 [2] :: s.out }) ∧
  (∀ (s : State) (m : Mctp), s.takesControl m = true →
      Does (.getEndpointId m) s fun t => t = { s with out := .ibi 0xAE :: .mctp 2 [0, s.pyh.eid, 0, 0] :: s.out }) ∧
  (∀ (s : State) (m : Mctp), s.takesControl m = false →
      Does (.getEndpointId m) s fun t => t = s) ∧
  (∀ (s : State) (m : Mctp), s.takesControl m = true →
      Does (.getEndpointUuid m) s fun t => t = { s with out := .ibi 0xAE :: .mctp 3 (0 :: slice (Config.standardBytes 0x103 []) 0 16) :: s.out }) ∧
  (∀ (s : State) (m : Mctp) (y : BitVec 8), s.takesControl m = true → (y = 0xFF ∨ y = 0 ∨ y = 1 ∨ y = 5 ∨ y = 6 ∨ y = 0x7E) →
      Does (.getMctpVersionSupport m y) s fun t => t = { s with out := .ibi 0xAE :: .mctp 4 (0 :: Config.standardBytes 0x104 [y.toNat]) :: s.out }) ∧
  (∀ (s : State) (m : Mctp) (y : BitVec 8), s.takesControl m = true → y ≠ 0xFF → y ≠ 0 → y ≠ 1 → y ≠ 5 → y ≠ 6 → y ≠ 0x7E →
      Does (.getMctpVersionSupport m y) s fun t => t = { s with out := .ibi 0xAE :: .mctp 4 [0x80] :: s.out }) ∧
  (∀ (s : State) (m : Mctp), s.takesControl m = true →
      Does (.getMessageTypeSupport m) s fun t => t = { s with out := .ibi 0xAE :: .mctp 5 [0, 5, 0, 1, 5, 6, 0x7E] :: s.out }) ∧
  (∀ (s : State) (m : Mctp) (k : BitVec 8), s.takesControl m = true →
      Does (.getVendorDefinedMessageSupport m k) s fun t => t = { s with out := .ibi 0xAE :: .mctp 6 (if k = 0 then [0, 0xFF, 0x00, 0x1D, 0xB0] else [2]) :: s.out }) ∧
  (∀ (s : State) (m : Mctp) (e : BitVec 8), s.takes m = true → s.pyhDown = false → e ≠ 0 → e ≠ 0xFF →
      Does (.settid m e) s fun t => t.pyh.tid = e ∧ t.out = .ibi 0xAE :: .pldm 0 1 0 [] :: s.out ∧ t.pyh.eid = s.pyh.eid ∧ t.parts = s.parts ∧ s.sameData t) ∧
  (∀ (s : State) (m : Mctp) (e : BitVec 8), s.takes m = true → s.pyhDown = false → (e = 0 ∨ e = 0xFF) →
      Does (.settid m e) s fun t => t = { s.wakePyh with out := .ibi 0xAE :: .pldm 0 1 2 [] :: s.out }) ∧
  (∀ (s : State) (m : Mctp), s.takes m = true → s.pyhDown = false →
      Does (.gettid m) s fun t => t = { s.wakePyh with out := .ibi 0xAE :: .pldm 0 2 0 [s.pyh.tid] :: s.out }) ∧
  (∀ (s : State) (m : Mctp), s.takes m = true → s.pyhDown = true →
      Does (.gettid m) s fun t => t = { s with out := .ibi 0xAE :: .pldm 0 2 4 [] :: s.out }) ∧
  (∀ (s : State) (m : Mctp), s.takes m = false →
      Does (.gettid m) s fun t => t = s) ∧
  (∀ (s : State) (m : Mctp) (y : BitVec 8), s.takes m = true → s.pyhDown = false →
      Does (.getpldmversion m y) s fun t => t = { s.wakePyh with out := .ibi 0xAE :: (if y = 0 ∨ y = 2 ∨ y = 5 then .pldm 0 3 0 (Config.standardBytes 0x203 [y.toNat]) else .pldm 0 3 0x83 []) :: s.out }) ∧
  (∀ (s : State) (m : Mctp), s.takes m = true → s.pyhDown = false →
      Does (.getpldmtypes m) s fun t => t = { s.wakePyh with out := .ibi 0xAE :: .pldm 0 4 0 [0x25, 0, 0, 0, 0, 0, 0, 0] :: s.out }) ∧
  (∀ (s : State) (m : Mctp) (y : BitVec 8), s.takes m = true → s.pyhDown = false → (y = 0 ∨ y = 2 ∨ y = 5) →
      Does (.getpldmcommands m y) s fun t => t = { s.wakePyh with out := .ibi 0xAE :: .pldm 0 5 0 (leBytes 32 ((pldmCommands y).foldl (fun n k => n + 2 ^ k) 0)) :: s.out }) ∧
  (∀ (s : State) (m : Mctp), s.takes m = true → s.pyhDown = false →
      Does (.getpdrrepositoryinfo m) s fun t => t = { s.wakePyh with out := .ibi 0xAE :: .pldm 2 0x50 0 (leBytes 4 98 ++ Config.standardBytes 0x250 [s.bt.startCount]) :: s.out }) ∧
  (∀ (s : State) (m : Mctp) (h : BitVec 32) (i : Nat), s.takes m = true → s.pyhDown = false → 1 ≤ h.toNat → sensorIds[h.toNat - 1]? = some i →
      Does (.getpdr m h) s fun t => t = { s.wakePyh with out := .ibi 0xAE :: .pldm 2 0x51 0 (Config.standardBytes 0x251 (sensorRow i)) :: s.out }) ∧
  (∀ (s : State) (m : Mctp) (h : BitVec 32), s.takes m = true → s.pyhDown = false → 98 < h.toNat →
      Does (.getpdr m h) s fun t => t = { s.wakePyh with out := .ibi 0xAE :: .pldm 2 0x51 0x82 [] :: s.out }) ∧
  (∀ (s : State) (m : Mctp) (i : BitVec 16) (v : Int), s.takes m = true → s.pyhDown = false → s.sensorValue i.toNat = some (some v) →
      Does (.getsensorreading m i) s fun t => t = { s.wakePyh with out := .ibi 0xAE :: .pldm 2 0x11 0 (0 :: leBytes 4 (BitVec.ofInt 32 v).toNat) :: s.out }) ∧
  (∀ (s : State) (m : Mctp) (i : BitVec 16), s.takes m = true → s.pyhDown = false → s.sensorValue i.toNat = some none →
      Does (.getsensorreading m i) s fun t => t = { s.wakePyh with out := .ibi 0xAE :: .pldm 2 0x11 0 [2] :: s.out }) ∧
  (∀ (s : State) (m : Mctp) (i : BitVec 16), s.takes m = true → s.pyhDown = false → 102 < i.toNat →
      Does (.getsensorreading m i) s fun t => t = { s.wakePyh with out := .ibi 0xAE :: .pldm 2 0x11 0x80 [] :: s.out }) ∧
  (∀ (s : State) (m : Mctp) (i : BitVec 16) (v : Nat), s.takes m = true → s.pyhDown = false → s.stateSensor i.toNat = some v →
      Does (.getstatesensorreadings m i) s fun t => t = { s.wakePyh with out := .ibi 0xAE :: .pldm 2 0x21 0 [1, 0, BitVec.ofNat 8 v] :: s.out }) ∧
  (∀ (s : State) (m : Mctp) (i : BitVec 16), s.takes m = true → s.pyhDown = false → i ≠ 100 → i ≠ 101 →
      Does (.getstatesensorreadings m i) s fun t => t = { s.wakePyh with out := .ibi 0xAE :: .pldm 2 0x21 0x80 [] :: s.out })

/-- A wake and, 1 ms after the last work, a sleep set whether Pyhiet is awake. An armed watchdog, 100 ms or more after its kick, sets its condition and restarts
Pyhiet, which ends every session; a disarmed one waits 250 ms. A boot clears the condition and runs the supplement of the marker if its slot is good, else the
other's; a boot that activates an update moves the marker and the floor where the slot is good. PYHIET_RESTART is answered and its restart begins 1 ms later.
UpdateComponent erases and fills the slot that the running supplement does not occupy, is refused below the floor or for another component, and while an update is
in progress; each piece of the right length is appended; a request unanswered for 60 s drops the update; a slot that fails its check is erased, with an error;
ActivateFirmware moves the marker, or live restarts Pyhiet; CancelUpdate and CancelUpdateComponent erase the slot. It has a clause that concludes completion (exec
answers a next state) for each of: PYHIET_WAKE, PYHIET_SLEEP, WATCHDOG_EXPIRY, PYHIET_BOOT_DONE, PYHIET_RESTART, PYHIET_RESTART_START, UPDATE_COMPONENT,
FIRMWARE_DATA, FIRMWARE_DATA_TIMEOUT, SUPPLEMENT_CHECK, ACTIVATE_FIRMWARE, CANCEL_UPDATE, CANCEL_UPDATE_COMPONENT. (R568, R570, R571, R572, R573, R590, R592,
R602, R605, R606, R607) -/
def Obligations.PyhietAndFirmware : Prop :=
  (∀ (s : State), s.on = true → s.pyhDown = false →
      Does .pyhietWake s fun t => t = { s with pyh := { s.pyh with awake := true, lastWork := s.now, wokeAt := if s.pyh.awake then s.pyh.wokeAt else s.now } }) ∧
  (∀ (s : State), s.on = true → s.pyhDown = false → s.pyh.lastWork + 1000000 ≤ s.now →
      Does .pyhietSleep s fun t => t = { s with pyh := { s.pyh with awake := false } }) ∧
  (∀ (s : State), (s.pyhDown = true ∨ s.now < s.pyh.lastWork + 1000000) →
      Does .pyhietSleep s fun t => t = s) ∧
  (∀ (s : State), s.on = true → s.pyh.up = true → s.pyh.wdDisarmed = false → s.pyh.restarting = false → s.pyh.kickAt + 100000000 ≤ s.now →
      s.pw.phase ≠ .starting → s.pyh.update = none → s.pyh.liveTick = none →
      Does .watchdogExpiry s fun t => t.pyh.wdFault = true ∧ t.pyh.restarting = true ∧ t.pyh.wdDisarmed = false ∧ t.pyh.restartTick = s.now ∧ t.pyh.side.sessions = [] ∧ (∀ q, (t.port q).doe.sessions = []) ∧
      t.pyh.tempDebug = false ∧ t.pyh.marker = s.pyh.marker ∧ t.parts = s.parts ∧ s.sameData t) ∧
  (∀ (s : State), s.pyh.wdDisarmed = true → s.now < s.pyh.restartTick + 250000000 →
      Does .watchdogExpiry s fun t => t = s) ∧
  (∀ (s : State), s.on = true → s.pyh.restarting = true → s.pyh.activating = false →
      Does .pyhietBootDone s fun t => t.pyh.up = true ∧ t.pyh.restarting = false ∧ t.pyh.wdFault = false ∧ t.pyh.wdDisarmed = false ∧ t.pyh.marker = s.pyh.marker ∧
      t.pyh.running = (if s.pyh.slotOk s.pyh.marker then some s.pyh.marker else if s.pyh.slotOk (!s.pyh.marker) then some (!s.pyh.marker) else none) ∧ t.parts = s.parts ∧ s.sameData t) ∧
  (∀ (s : State), s.on = true → s.pyh.restarting = true → s.pyh.activating = true →
      Does .pyhietBootDone s fun t => t.pyh.restarting = false ∧ t.pyh.activating = false ∧ t.pyh.wdDisarmed = false ∧
      (s.pyh.slotOk s.pyh.updSlot = true → t.pyh.running = some s.pyh.updSlot ∧ t.pyh.marker = s.pyh.updSlot ∧ t.pyh.update = none ∧ t.pyh.floor = max s.pyh.floor (field (s.pyh.slot s.pyh.updSlot) 0xC 4) ∧ t.pyh.liveTick = some s.now) ∧ s.sameData t) ∧
  (∀ (s : State) (v : Vendor), s.takes v.m = true → s.pyhDown = false → v.clean = true → s.pyh.restartDue = none →
      Does (.pyhietRestart v) s fun t => t.pyh.restartDue = some (s.now + 1000000) ∧ t.out = .ibi 0xAE :: vendorReply 0x0A v.tag 0 [] :: s.out ∧ t.pyh.restarting = s.pyh.restarting ∧ s.sameData t) ∧
  (∀ (s : State) (v : Vendor), s.takes v.m = true → s.pyhDown = false → v.clean = true → s.pyh.restartDue ≠ none →
      Does (.pyhietRestart v) s fun t => t = { s.wakePyh with out := .ibi 0xAE :: vendorReply 0x0A v.tag 5 [] :: s.out }) ∧
  (∀ (s : State) (k : Nat), s.on = true → s.pyh.restartDue = some k → k ≤ s.now → s.pw.phase ≠ .starting → s.pyh.update = none →
      Does .pyhietRestartStart s fun t => t.pyh.restarting = true ∧ t.pyh.wdDisarmed = true ∧ t.pyh.restartDue = none ∧ t.pyh.side.sessions = [] ∧ t.parts = s.parts ∧ s.sameData t) ∧
  (∀ (s : State) (k : Nat), s.pyh.restartDue = some k → s.now < k →
      Does .pyhietRestartStart s fun t => t = s) ∧
  (∀ (s : State) (m : Mctp) (sp : BitVec 32) (n w : Nat), s.takes m = true → s.pyhDown = false → s.pyh.update = none → 32 ≤ w → n ≤ 196608 →
      s.pyh.floor ≤ sp.toNat → 0 < n →
      Does (.updateComponent m 0x000A 1 sp n w) s fun t => t.pyh.slot s.pyh.updSlot = [] ∧ t.pyh.slot (!s.pyh.updSlot) = s.pyh.slot (!s.pyh.updSlot) ∧ t.pyh.update = some ⟨n, min 1024 w, some s.now, false⟩ ∧
      t.out = .ibi 0xAE :: .pldm 5 0x15 0 (leBytes 4 0 ++ leBytes 4 (min (min 1024 w) n)) :: .ibi 0xAE :: .pldm 5 0x14 0 [0, 0] :: s.out ∧ t.pyh.marker = s.pyh.marker ∧ s.sameData t) ∧
  (∀ (s : State) (m : Mctp) (sp : BitVec 32) (n w : Nat), s.takes m = true → s.pyhDown = false → s.pyh.update = none → 32 ≤ w → n ≤ 196608 →
      sp.toNat < s.pyh.floor →
      Does (.updateComponent m 0x000A 1 sp n w) s fun t => t = { s.wakePyh with out := .ibi 0xAE :: .pldm 5 0x14 0 [1, 2] :: s.out }) ∧
  (∀ (s : State) (m : Mctp) (sp : BitVec 32) (n w : Nat) (c i : BitVec 16), s.takes m = true → s.pyhDown = false → s.pyh.update = none → 32 ≤ w →
      (c ≠ 0x000A ∨ i ≠ 1 ∨ 196608 < n) →
      Does (.updateComponent m c i sp n w) s fun t => t = { s.wakePyh with out := .ibi 0xAE :: .pldm 5 0x14 0 [1, 6] :: s.out }) ∧
  (∀ (s : State) (m : Mctp) (sp : BitVec 32) (n w : Nat) (c i : BitVec 16), s.takes m = true → s.pyhDown = false → s.pyh.update ≠ none →
      Does (.updateComponent m c i sp n w) s fun t => t = { s.wakePyh with out := .ibi 0xAE :: .pldm 5 0x14 0x84 [] :: s.out }) ∧
  (∀ (s : State) (m : Mctp) (d : List Byte) (u : Update), s.takes m = true → s.pyhDown = false → s.pyh.update = some u → u.requested ≠ none →
      d.length = u.next (s.pyh.slot s.pyh.updSlot).length →
      Does (.firmwareData m d) s fun t => t.pyh.slot s.pyh.updSlot = s.pyh.slot s.pyh.updSlot ++ d ∧ t.pyh.slot (!s.pyh.updSlot) = s.pyh.slot (!s.pyh.updSlot) ∧
      t.pyh.update = some { u with requested := if (s.pyh.slot s.pyh.updSlot).length + d.length < u.length then some s.now else none } ∧ s.sameData t) ∧
  (∀ (s : State) (m : Mctp) (d : List Byte) (u : Update), s.pyh.update = some u → d.length ≠ u.next (s.pyh.slot s.pyh.updSlot).length →
      Does (.firmwareData m d) s fun t => t = s) ∧
  (∀ (s : State) (u : Update) (k : Nat), s.on = true → s.pyhDown = false → s.pyh.update = some u → u.requested = some k → k + 60000000000 ≤ s.now →
      Does .firmwareDataTimeout s fun t => t.pyh.update = none ∧ t.pyh.slot s.pyh.updSlot = [] ∧ t.pyh.slot (!s.pyh.updSlot) = s.pyh.slot (!s.pyh.updSlot) ∧ t.out = s.out ∧ s.sameData t) ∧
  (∀ (s : State) (u : Update) (k : Nat), s.pyh.update = some u → u.requested = some k → s.now < k + 60000000000 →
      Does .firmwareDataTimeout s fun t => t = s) ∧
  (∀ (s : State) (u : Update), s.on = true → s.pyhDown = false → s.pyh.update = some u → u.checked = false → u.requested = none →
      u.length ≤ (s.pyh.slot s.pyh.updSlot).length →
      Does .supplementCheck s fun t => t.pyh.update = (if s.pyh.slotOk s.pyh.updSlot then some { u with checked := true } else none) ∧ t.pyh.slot s.pyh.updSlot = (if s.pyh.slotOk s.pyh.updSlot then s.pyh.slot s.pyh.updSlot else []) ∧
      t.evr = (if s.pyh.slotOk s.pyh.updSlot then s.evr else s.evr.offer s.now { code := 0xC003, sev := err, cls := 0x0D, num := 0 }) ∧ t.pyh.marker = s.pyh.marker ∧ s.sameData t) ∧
  (∀ (s : State) (m : Mctp) (u : Update), s.takes m = true → s.pyhDown = false → s.pyh.update = some u → u.checked = true →
      Does (.activateFirmware m false) s fun t => t.pyh.marker = s.pyh.updSlot ∧ t.pyh.floor = max s.pyh.floor (field (s.pyh.slot s.pyh.updSlot) 0xC 4) ∧ t.pyh.update = none ∧ t.pyh.pendNext = true ∧ t.pyh.running = s.pyh.running ∧
      t.out = .ibi 0xAE :: .pldm 5 0x1A 0 [0, 0] :: s.out ∧ s.sameData t) ∧
  (∀ (s : State) (m : Mctp) (u : Update), s.takes m = true → s.pyhDown = false → s.pyh.update = some u → u.checked = true → s.pw.phase ≠ .starting →
      Does (.activateFirmware m true) s fun t => t.pyh.activating = true ∧ t.pyh.restarting = true ∧ t.pyh.wdDisarmed = true ∧ t.pyh.marker = s.pyh.marker ∧ t.pyh.update = some u ∧ t.pyh.side.sessions = [] ∧ s.sameData t) ∧
  (∀ (s : State) (m : Mctp) (k : Bool), s.takes m = true → s.pyhDown = false → s.pyh.update = none →
      Does (.activateFirmware m k) s fun t => t = { s.wakePyh with out := .ibi 0xAE :: .pldm 5 0x1A 0x80 [] :: s.out }) ∧
  (∀ (s : State) (m : Mctp) (k : Bool) (u : Update), s.takes m = true → s.pyhDown = false → s.pyh.update = some u → u.checked = false →
      Does (.activateFirmware m k) s fun t => t = { s.wakePyh with out := .ibi 0xAE :: .pldm 5 0x1A 0x85 [] :: s.out }) ∧
  (∀ (s : State) (m : Mctp), s.takes m = true → s.pyhDown = false → s.pyh.update ≠ none →
      Does (.cancelUpdate m) s fun t => t.pyh.update = none ∧ t.pyh.slot s.pyh.updSlot = [] ∧ t.pyh.slot (!s.pyh.updSlot) = s.pyh.slot (!s.pyh.updSlot) ∧ t.out = .ibi 0xAE :: .pldm 5 0x1D 0 (leBytes 9 0) :: s.out ∧ s.sameData t) ∧
  (∀ (s : State) (m : Mctp), s.takes m = true → s.pyhDown = false → s.pyh.update = none →
      Does (.cancelUpdate m) s fun t => t = { s.wakePyh with out := .ibi 0xAE :: .pldm 5 0x1D 0x80 [] :: s.out }) ∧
  (∀ (s : State) (m : Mctp), s.takes m = true → s.pyhDown = false → s.pyh.update ≠ none →
      Does (.cancelUpdateComponent m) s fun t => t.pyh.update = none ∧ t.pyh.slot s.pyh.updSlot = [] ∧ t.pyh.slot (!s.pyh.updSlot) = s.pyh.slot (!s.pyh.updSlot) ∧ t.out = .ibi 0xAE :: .pldm 5 0x1C 0 [] :: s.out ∧ s.sameData t) ∧
  (∀ (s : State) (m : Mctp), s.takes m = true → s.pyhDown = false → s.pyh.update = none →
      Does (.cancelUpdateComponent m) s fun t => t = { s.wakePyh with out := .ibi 0xAE :: .pldm 5 0x1C 0x80 [] :: s.out })

/-- GET_CONDITIONS returns conditions, module state and restart count; it is malformed where a reserved field is set, and not ready while Pyhiet restarts. RESET
of the module or of a die that is in service in a ready module is answered, and its reset begins 1 ms later: a warm start of the module, or the isolation of a CD.
STEWARD_SET moves the role to a port in service and abandons a block being configured. THERMAL_RESTART clears the restart limit, and is a wrong state outside it.
PATH_SWITCH is answered with the tick T that the holder chooses or has announced, waits for it while the holder awaits the echo, and is a wrong state with no
holder, for the path in use or one with fewer usable lanes, and against a switchover to the other path. HEALTH_READ of the report returns the bytes asked for;
RECORDER_READ returns entries and freezes, or releases, the recorder; RECORDER_CLEAR and DEBUG_UNLOCK need a maintainer session, empty the recorder, and unlock or
lock debug with a warning. That both set the debug field of block 6 is read from R569 (log 71). It has a clause that concludes completion (exec answers a next
state) for each of: GET_CONDITIONS, RESET, SIDEBAND_RESET_START, STEWARD_SET, THERMAL_RESTART, PATH_SWITCH, HEALTH_READ, RECORDER_READ, RECORDER_CLEAR,
DEBUG_UNLOCK. (R129, R476, R521, R569, R602, R603, R614, R618, R624, R626) -/
def Obligations.VendorCommands : Prop :=
  (∀ (s : State) (v : Vendor), s.takes v.m = true → s.pyhDown = false → v.clean = true →
      Does (.getConditions v) s fun t => t = { s.wakePyh with out := .ibi 0xAE :: vendorReply 1 v.tag 0 (leBytes 2 s.conditions.toNat ++ leBytes 1 s.moduleState ++ leBytes 1 s.restartCount) :: s.out }) ∧
  (∀ (s : State) (v : Vendor), s.takes v.m = true → s.pyhDown = false → v.clean = false →
      Does (.getConditions v) s fun t => t = { s with out := .ibi 0xAE :: vendorReply 1 v.tag 1 [] :: s.out }) ∧
  (∀ (s : State) (v : Vendor), s.takes v.m = true → s.pyhDown = true →
      Does (.getConditions v) s fun t => t = { s with out := .ibi 0xAE :: vendorReply 1 v.tag 2 [] :: s.out }) ∧
  (∀ (s : State) (v : Vendor) (d n : BitVec 8) (k : DieId) (w : Bool), s.takes v.m = true → s.pyhDown = false → v.clean = true →
      resetTarget d.toNat n.toNat = some (some (k, w)) → s.pw.phase = .ready → s.dieOut k = false → s.pyh.resetDue = none →
      Does (.reset v d n) s fun t => t.pyh.resetDue = some (d.toNat, n.toNat, s.now + 1000000) ∧ t.out = .ibi 0xAE :: vendorReply 2 v.tag 0 [] :: s.out ∧ t.bt = s.bt ∧ s.sameData t) ∧
  (∀ (s : State) (v : Vendor) (d n : BitVec 8), s.takes v.m = true → s.pyhDown = false → v.clean = true → resetTarget d.toNat n.toNat = none →
      Does (.reset v d n) s fun t => t = { s.wakePyh with out := .ibi 0xAE :: vendorReply 2 v.tag 1 [] :: s.out }) ∧
  (∀ (s : State) (v : Vendor) (d n : BitVec 8) (k : DieId) (w : Bool), s.takes v.m = true → s.pyhDown = false → v.clean = true →
      resetTarget d.toNat n.toNat = some (some (k, w)) → s.pw.phase ≠ .ready →
      Does (.reset v d n) s fun t => t = { s.wakePyh with out := .ibi 0xAE :: vendorReply 2 v.tag 2 [] :: s.out }) ∧
  (∀ (s : State) (v : Vendor), s.takes v.m = true → s.pyhDown = false → v.clean = true →
      (s.pw.phase = .starting ∨ s.pw.phase = .ready ∨ s.pw.phase = .startFailed ∨ s.pw.phase = .held) → s.pyh.resetDue = none →
      Does (.reset v 0 0) s fun t => t.pyh.resetDue = some (0, 0, s.now + 1000000) ∧ t.out = .ibi 0xAE :: vendorReply 2 v.tag 0 [] :: s.out ∧ s.sameData t) ∧
  (∀ (s : State) (d n k : Nat), s.pyh.resetDue = some (d, n, k) → s.now < k →
      Does .sidebandResetStart s fun t => t = s) ∧
  (∀ (s : State) (n k : Nat) (x : StackId), s.on = true → s.pyh.resetDue = some (3, n, k) → k ≤ s.now → n = x.val → s.pw.phase = .ready → s.bt.isolated = [] →
      s.partOfStack x = none →
      Does .sidebandResetStart s fun t => t.pyh.resetDue = none ∧ (t.stack x).cdLost = true ∧ t.bt.isolated.contains (dieClass (.cd x)) = true ∧ t.hbm = s.hbm) ∧
  (∀ (s : State) (k : Nat), s.on = true → s.pyh.resetDue = some (0, 0, k) → k ≤ s.now → s.pw.resetN = true → s.pw.phase = .ready →
      Does .sidebandResetStart s fun t => t.pyh.resetDue = none ∧ t.pw.phase = .starting ∧ t.bt.kind = .warm ∧ t.pw.steward = s.pw.selPin.toFin ∧ (∀ p, t.part p = {})) ∧
  (∀ (s : State) (v : Vendor) (q : BitVec 8) (u : PortId), s.takes v.m = true → s.pyhDown = false → v.clean = true → q.toNat = u.val → (s.port u).oos = false →
      s.dieOut (.hg u) = false → (∀ p, (s.part p).block ≠ .configuring) →
      Does (.stewardSet v q) s fun t => t.pw.steward = u ∧ t.parts = s.parts ∧ t.out = .ibi 0xAE :: vendorReply 3 v.tag 0 [] :: s.out ∧ s.sameData t) ∧
  (∀ (s : State) (v : Vendor) (q : BitVec 8) (u : PortId) (p : PartId), s.takes v.m = true → s.pyhDown = false → v.clean = true → q.toNat = u.val →
      (s.port u).oos = false → s.dieOut (.hg u) = false → (s.part p).block = .configuring → s.pagesOf p = [] →
      (∀ x, x ≠ p → (s.part x).block ≠ .configuring) →
      Does (.stewardSet v q) s fun t => t.pw.steward = u ∧ t.part p = {} ∧ s.sameData t) ∧
  (∀ (s : State) (v : Vendor) (q : BitVec 8), s.takes v.m = true → s.pyhDown = false → v.clean = true → 3 < q.toNat →
      Does (.stewardSet v q) s fun t => t = { s.wakePyh with out := .ibi 0xAE :: vendorReply 3 v.tag 1 [] :: s.out }) ∧
  (∀ (s : State) (v : Vendor) (q : BitVec 8) (u : PortId), s.takes v.m = true → s.pyhDown = false → v.clean = true → q.toNat = u.val → (s.port u).oos = true →
      Does (.stewardSet v q) s fun t => t = { s.wakePyh with out := .ibi 0xAE :: vendorReply 3 v.tag 3 [] :: s.out }) ∧
  (∀ (s : State) (v : Vendor), s.takes v.m = true → s.pyhDown = false → v.clean = true → s.pw.limited = true →
      Does (.thermalRestart v) s fun t => t.pw.limited = false ∧ t.pw.restarts = [] ∧ t.pw.phase = s.pw.phase ∧ t.out = .ibi 0xAE :: vendorReply 4 v.tag 0 [] :: s.out ∧ s.sameData t) ∧
  (∀ (s : State) (v : Vendor), s.takes v.m = true → s.pyhDown = false → v.clean = true → s.pw.limited = false →
      Does (.thermalRestart v) s fun t => t = { s.wakePyh with out := .ibi 0xAE :: vendorReply 4 v.tag 3 [] :: s.out }) ∧
  (∀ (s : State) (v : Vendor) (g w : BitVec 8), s.takes v.m = true → s.pyhDown = false → v.clean = true → (3 < g.toNat ∨ 1 < w.toNat) →
      Does (.pathSwitch v g w) s fun t => t = { s.wakePyh with out := .ibi 0xAE :: vendorReply 5 v.tag 1 [] :: s.out }) ∧
  (∀ (s : State) (v : Vendor) (g w : BitVec 8) (k : GroupNo), s.takes v.m = true → s.pyhDown = false → v.clean = true → g.toNat = k.val → w.toNat ≤ 1 →
      s.pw.phase = .ready → s.leaseOk 0 k = false → s.leaseOk 1 k = false →
      Does (.pathSwitch v g w) s fun t => t.out = .ibi 0xAE :: vendorReply 5 v.tag 3 [] :: s.out ∧ t.stewA = s.stewA ∧ t.stewB = s.stewB ∧ s.sameData t) ∧
  (∀ (s : State) (v : Vendor) (g w : BitVec 8) (k : GroupNo) (h : Fin 2), s.takes v.m = true → s.pyhDown = false → v.clean = true → g.toNat = k.val →
      w.toNat ≤ 1 → s.pw.phase = .ready → s.leaseOk h k = true → s.leaseOk (otherStew h) k = false → ((s.stew h).pend.any (fun x => x.group = k) = false) →
      (hasBit (s.stew h).paths k.val = (w = 1) ∨ (s.stew h).badCount k (!decide (w = 1)) < (s.stew h).badCount k (w = 1)) →
      Does (.pathSwitch v g w) s fun t => t.out = .ibi 0xAE :: vendorReply 5 v.tag 3 [] :: s.out ∧ t.stewA = s.stewA ∧ t.stewB = s.stewB ∧ s.sameData t) ∧
  (∀ (s : State) (v : Vendor) (g w : BitVec 8) (k : GroupNo) (h : Fin 2) (x : Switch), s.takes v.m = true → s.pyhDown = false → v.clean = true →
      g.toNat = k.val → w.toNat ≤ 1 → s.pw.phase = .ready → s.leaseOk h k = true → s.leaseOk (otherStew h) k = false →
      ((s.stew h).pend.find? (fun x => x.group = k) = some x) → x.path ≠ (w = 1) →
      Does (.pathSwitch v g w) s fun t => t.out = .ibi 0xAE :: vendorReply 5 v.tag 3 [] :: s.out ∧ t.stewA = s.stewA ∧ t.stewB = s.stewB ∧ s.sameData t) ∧
  (∀ (s : State) (v : Vendor) (g w : BitVec 8) (k : GroupNo) (h : Fin 2) (x : Switch), s.takes v.m = true → s.pyhDown = false → v.clean = true →
      g.toNat = k.val → w.toNat ≤ 1 → s.pw.phase = .ready → s.leaseOk h k = true → s.leaseOk (otherStew h) k = false →
      ((s.stew h).pend.find? (fun x => x.group = k) = some x) → x.path = (w = 1) → hasBit (s.stew h).echoed k.val = true →
      Does (.pathSwitch v g w) s fun t => t.out = .ibi 0xAE :: vendorReply 5 v.tag 0 (leBytes 8 x.t) :: s.out ∧ t.stewA = s.stewA ∧ t.stewB = s.stewB ∧ s.sameData t) ∧
  (∀ (s : State) (v : Vendor) (g w : BitVec 8) (k : GroupNo) (h : Fin 2), s.takes v.m = true → s.pyhDown = false → v.clean = true → g.toNat = k.val →
      w.toNat ≤ 1 → s.pw.phase = .ready → s.leaseOk h k = true → s.leaseOk (otherStew h) k = false → ((s.stew h).pend.any (fun x => x.group = k) = false) →
      hasBit (s.stew h).paths k.val ≠ (w = 1) → s.standbyReady k = true → (s.stew h).badCount k (w = 1) ≤ (s.stew h).badCount k (!decide (w = 1)) →
      (s.stew h).partnerLost.isSome = true → (s.stew h).asked = [] → (((s.stew h).pend.all fun x => !hasBit (s.stew h).echoed x.group.val) = true) →
      Does (.pathSwitch v g w) s fun t => vendorReply 5 v.tag 0 (leBytes 8 (s.copyNow (stewHub h) + 2000)) ∈ t.out ∧
      (t.stew h).pend.any (fun x => x.group = k && x.path = decide (w = 1) && x.t = s.copyNow (stewHub h) + 2000) = true ∧ hasBit (t.stew h).echoed k.val = true ∧ s.sameData t) ∧
  (∀ (s : State) (v : Vendor) (g w : BitVec 8) (k : GroupNo) (h : Fin 2), s.takes v.m = true → s.pyhDown = false → v.clean = true → g.toNat = k.val →
      w.toNat ≤ 1 → s.pw.phase = .ready → s.leaseOk h k = true → s.leaseOk (otherStew h) k = false → ((s.stew h).pend.any (fun x => x.group = k) = false) →
      hasBit (s.stew h).paths k.val ≠ (w = 1) → s.standbyReady k = true → (s.stew h).badCount k (w = 1) ≤ (s.stew h).badCount k (!decide (w = 1)) →
      (s.stew h).partnerLost = none →
      Does (.pathSwitch v g w) s fun t => t.out = s.out ∧ (k.val, v.tag) ∈ (t.stew h).asked ∧ (t.stew h).pend.any (fun x => x.group = k && x.path = decide (w = 1)) = true ∧
      hasBit (t.stew h).echoed k.val = false ∧ s.sameData t) ∧
  (∀ (s : State) (v : Vendor) (k p : BitVec 8) (o : BitVec 32) (l : BitVec 16), s.takes v.m = true → s.pyhDown = false → v.clean = true → k.toNat = 3 →
      0 < l.toNat → l.toNat ≤ 1024 →
      Does (.healthRead v k p o l) s fun t => t.out = .ibi 0xAE :: vendorReply 6 v.tag 0 ((s.healthReport.drop o.toNat).take l.toNat) :: s.out ∧ s.sameData t) ∧
  (∀ (s : State) (v : Vendor) (k p : BitVec 8) (o : BitVec 32) (l : BitVec 16), s.takes v.m = true → s.pyhDown = false → v.clean = true →
      (3 < k.toNat ∨ l = 0 ∨ 1024 < l.toNat) →
      Does (.healthRead v k p o l) s fun t => t = { s.wakePyh with out := .ibi 0xAE :: vendorReply 6 v.tag 1 [] :: s.out }) ∧
  (∀ (s : State) (v : Vendor) (f : BitVec 16) (n : BitVec 8), s.takes v.m = true → s.pyhDown = false → v.clean = true → n ≠ 0 → n.toNat ≤ 32 →
      Does (.recorderRead v f n 0) s fun t => t.evr = { s.evr with frozen := true, freezeTick := s.now } ∧ t.out = .ibi 0xAE :: vendorReply 7 v.tag 0 (((s.evr.entries.drop f.toNat).take n.toNat).flatMap RecEntry.toBytes) :: s.out ∧ s.sameData t) ∧
  (∀ (s : State) (v : Vendor) (f : BitVec 16) (n : BitVec 8), s.takes v.m = true → s.pyhDown = false → v.clean = true → n ≠ 0 → n.toNat ≤ 32 →
      Does (.recorderRead v f n 1) s fun t => t.evr.frozen = false ∧ t.evr.hold = [] ∧ s.sameData t) ∧
  (∀ (s : State) (v : Vendor) (f : BitVec 16) (n k : BitVec 8), s.takes v.m = true → s.pyhDown = false → v.clean = true → (n = 0 ∨ 32 < n.toNat ∨ 1 < k.toNat) →
      Does (.recorderRead v f n k) s fun t => t = { s.wakePyh with out := .ibi 0xAE :: vendorReply 7 v.tag 1 [] :: s.out }) ∧
  (∀ (s : State) (v : Vendor) (j : Option (BitVec 32)) (x : Session), s.takes v.m = true → s.pyhDown = false → v.clean = true → s.maintainer j = some x →
      s.evr.clearQ = none → s.on = true →
      Does (.recorderClear v j) s fun t => t.evr.entries.length ≤ 1 ∧ t.evr.hold = [] ∧ t.evr.frozen = false ∧ (t.evr.entries.all fun e => e.code = 1 && e.detail = BitVec.ofNat 96 (s.evr.entries.length + s.evr.hold.length + ((x.peer.map PeerCert.digest8).getD 0).toNat * 2 ^ 32)) = true ∧
      t.evr.log = s.evr.log ∧ t.out = .ibi 0xAE :: vendorReply 8 v.tag 0 [] :: s.out ∧ s.sameData t) ∧
  (∀ (s : State) (v : Vendor) (j : Option (BitVec 32)), s.takes v.m = true → s.pyhDown = false → v.clean = true → s.maintainer j = none →
      Does (.recorderClear v j) s fun t => t = { s.wakePyh with out := .ibi 0xAE :: vendorReply 8 v.tag 4 [] :: s.out }) ∧
  (∀ (s : State) (v : Vendor) (j : Option (BitVec 32)) (x : Session), s.takes v.m = true → s.pyhDown = false → v.clean = true → s.maintainer j = some x →
      s.evr.clearQ ≠ none →
      Does (.recorderClear v j) s fun t => t = { s.wakePyh with out := .ibi 0xAE :: vendorReply 8 v.tag 5 [] :: s.out }) ∧
  (∀ (s : State) (v : Vendor) (j : Option (BitVec 32)) (x : Session), s.takes v.m = true → s.pyhDown = false → v.clean = true → s.on = true →
      s.maintainer j = some x →
      Does (.debugUnlock v j 0) s fun t => t.pyh.tempDebug = true ∧ t.pyh.unlockSeen = true ∧ t.out = .ibi 0xAE :: vendorReply 9 v.tag 0 [] :: s.out ∧ t.evr = s.evr.offer s.now { code := 0xC001, sev := warn } ∧ s.sameData t) ∧
  (∀ (s : State) (v : Vendor) (j : Option (BitVec 32)) (x : Session), s.takes v.m = true → s.pyhDown = false → v.clean = true → s.on = true →
      s.maintainer j = some x →
      Does (.debugUnlock v j 1) s fun t => t.pyh.tempDebug = false ∧ t.pyh.unlockSeen = true ∧ t.evr = s.evr.offer s.now { code := 0xC001, sev := warn } ∧ s.sameData t) ∧
  (∀ (s : State) (v : Vendor) (j : Option (BitVec 32)) (f : BitVec 8), s.takes v.m = true → s.pyhDown = false → v.clean = true → s.maintainer j = none →
      f.toNat ≤ 1 →
      Does (.debugUnlock v j f) s fun t => t = { s.wakePyh with out := .ibi 0xAE :: vendorReply 9 v.tag 4 [] :: s.out })

/-- The ten-minute write takes every entry not yet in flash, once in each ten minutes and not while another runs; a write that ends well puts its entries in the
log and marks them, one that fails is counted and recorded; the first waiting fatal entry is written before a flush, and a clear's entry last, behind its marker;
each second the one code with suppressions is reported, and its count returns to zero; a freeze ends one second after the last read, and its queued entries are
placed where there is room; the hourly sample runs once in an hour while Pyhiet runs, and a laser's reading joins the 720 hourly samples kept of it. It has a
clause that concludes completion (exec answers a next state) for each of: FLASH_FLUSH, FLASH_WRITE_DONE, SUPPRESSION_REPORT, FREEZE_TIMEOUT, AGEING_SAMPLE. (R610,
R611, R612, R623, R625, R626, R627, R629) -/
def Obligations.RecorderAndAgeing : Prop :=
  (∀ (s : State), s.on = true → s.evr.flashing = [] → s.now / 600000000000 ≠ s.evr.lastFlush / 600000000000 →
      Does .flashFlush s fun t => t = { s with evr := { s.evr with flashing := s.evr.unflushed, lastFlush := s.now } }) ∧
  (∀ (s : State), (s.evr.flashing ≠ [] ∨ s.now / 600000000000 = s.evr.lastFlush / 600000000000) →
      Does .flashFlush s fun t => t = s) ∧
  (∀ (s : State) (w : BitVec 32) (e : RecEntry) (l : List RecEntry), s.on = true → s.evr.fatalQ = e :: l →
      Does (.flashWriteDone true w) s fun t => t.evr.fatalQ = l ∧ t.evr.flashing = s.evr.flashing ∧ t.evr.log = appendLog s.evr.log [.entry { e with flushed := true }] ∧ t.evr.flushes = satInc s.evr.flushes ∧ s.sameData t) ∧
  (∀ (s : State) (w : BitVec 32) (e : RecEntry) (l : List RecEntry), s.on = true → s.evr.fatalQ = [] → s.evr.flashing = e :: l →
      Does (.flashWriteDone true w) s fun t => t.evr.flashing = [] ∧ t.evr.log = appendLog s.evr.log ((e :: l).map fun x => .entry { x with flushed := true }) ∧ t.evr.flushes = satInc s.evr.flushes ∧
      (∀ x ∈ t.evr.entries, ((e :: l).any fun y => y.seq = x.seq) = true → x.flushed = true) ∧ t.age = s.age.writeDaily ∧ s.sameData t) ∧
  (∀ (s : State) (w : BitVec 32) (e : RecEntry), s.on = true → s.evr.fatalQ = [] → s.evr.flashing = [] → s.evr.clearQ = some e →
      Does (.flashWriteDone true w) s fun t => t.evr.clearQ = none ∧ t.evr.log = appendLog (appendLog s.evr.log [.marker]) [.entry { e with flushed := true }] ∧ s.sameData t) ∧
  (∀ (s : State) (w : BitVec 32) (e : RecEntry) (l : List RecEntry), s.on = true → s.evr.fatalQ = [] → s.evr.flashing = e :: l →
      Does (.flashWriteDone false w) s fun t => t.evr = ({ s.evr with flashing := [], failed := satInc s.evr.failed } : Recorder).offer s.now { code := 4, sev := err, detail := w.setWidth 96 } ∧ t.age = s.age ∧ s.sameData t) ∧
  (∀ (s : State), s.on = true → s.evr.suppressed = [] → s.now / 1000000000 ≠ s.evr.lastSecond →
      Does .suppressionReport s fun t => t = { s with evr := { s.evr with lastSecond := s.now / 1000000000 } }) ∧
  (∀ (s : State), s.now / 1000000000 = s.evr.lastSecond →
      Does .suppressionReport s fun t => t = s) ∧
  (∀ (s : State) (c n : Nat), s.on = true → s.evr.suppressed = [(c, n)] → s.now / 1000000000 ≠ s.evr.lastSecond →
      Does .suppressionReport s fun t => t.evr = ({ s.evr with suppressed := [], lastSecond := s.now / 1000000000 } : Recorder).offer s.now { code := 2, sev := info, detail := BitVec.ofNat 96 (c + n * 2 ^ 32) } ∧ s.sameData t) ∧
  (∀ (s : State), s.on = true → s.evr.frozen = true → s.evr.freezeTick + 1000000000 ≤ s.now → s.readNow = false →
      Does .freezeTimeout s fun t => t.evr.frozen = false ∧ t.evr.hold = [] ∧ (s.evr.entries.length + s.evr.hold.length ≤ 16384 → t.evr.entries = s.evr.entries ++ s.evr.hold) ∧ t.out = s.out ∧ s.sameData t) ∧
  (∀ (s : State), (s.now < s.evr.freezeTick + 1000000000 ∨ s.evr.frozen = false ∨ s.readNow = true) →
      Does .freezeTimeout s fun t => t = s) ∧
  (∀ (s : State) (l : List (EpId × Int)) (u : List (Fin 76 × Int)), s.on = true → s.pyh.up = true → s.pyh.restarting = false →
      s.now / 3600000000000 ≠ s.age.lastHour →
      Does (.ageingSample ⟨l, u⟩) s fun t => t.age.lastHour = s.now / 3600000000000 ∧ t.age.daily = s.age.daily ∧ t.ageBefore = some (s.now, s.age) ∧ s.sameData t) ∧
  (∀ (s : State) (e : EpId) (v : Int), s.on = true → s.pyh.up = true → s.pyh.restarting = false → s.now / 3600000000000 ≠ s.age.lastHour →
      (∀ k, (s.die k).trained = 0) → (∀ x, (s.stack x).cmap = 0) → s.lanes = [] → s.bt.eyes = [] →
      Does (.ageingSample ⟨[(e, v)], []⟩) s fun t => kget [] t.age.hourly (65536 + e.val) = ((s.hourNow, v) :: (kget [] s.age.hourly (65536 + e.val)).filter fun h => h.1 ≠ s.hourNow).take 720) ∧
  (∀ (s : State) (l : List (EpId × Int)) (u : List (Fin 76 × Int)),
      (s.on = false ∨ s.pyh.up = false ∨ s.pyh.restarting = true ∨ s.now / 3600000000000 = s.age.lastHour) →
      Does (.ageingSample ⟨l, u⟩) s fun t => t = s)

/-- From a port whose BAR0 is reached, the steward port alone writes MODULE_CONTROL, whose cleared enable locks debug, RECORDER_LIMIT, THERM_CONFIG, TIME_SOURCE
and PPS_SECONDS: a field given a reserved encoding keeps its value, with a warning for THERM_CONFIG, TIME_SOURCE and PART_TIMING; another time source drops the
lock, and a write of TIME_SOURCE discards a pending PPS_SECONDS. Each port writes its own LINK_SELECT. A write that is not one aligned 8 B write has no effect but
a warning. PART_SHAPE of a free or configuring block is written with its reserved bits zero; of a locked one it is kept, with a warning. The serving port of a
committed block writes PART_IRQ_ENABLE. A write of another port to MODULE_CONTROL or PART_WIN_BASE is ignored, with its warning. A reserved offset of an unused
block is ignored. Action 5 of PART_CONTROL from the serving port asks for every doorbell again. It has a clause that concludes completion (exec answers a next
state) for each of: MODULE_CONTROL, RECORDER_LIMIT, THERM_CONFIG, TIME_SOURCE, PPS_SECONDS, LINK_SELECT, REGISTER_WRITE. (R14, R17, R147, R149, R520, R522, R569,
R623, R631, R632, R634, R646) -/
def Obligations.SetupRegisters : Prop :=
  (∀ (s : State) (t : PortId) (v : BitVec 64), s.barUp t = true → t = s.pw.steward → v.getLsbD 0 = true →
      Does (.moduleControl t v) s fun r => r = { s with pyh := { s.pyh with maintEnable := true } }) ∧
  (∀ (s : State) (t : PortId) (v : BitVec 64), s.barUp t = true → t = s.pw.steward → v.getLsbD 0 = false →
      Does (.moduleControl t v) s fun r => r.pyh.maintEnable = false ∧ r.pyh.tempDebug = false ∧ r.pyh.side = s.pyh.side ∧ r.evr = s.evr ∧ r.parts = s.parts ∧ s.sameData r) ∧
  (∀ (s : State) (t : PortId) (v : BitVec 64), s.barUp t = true → t ≠ s.pw.steward → (s.port t).refuseTick = none →
      Does (.moduleControl t v) s fun r => r.pyh = s.pyh ∧ r.evr = s.evr.offer s.now { code := 0xE003, sev := warn, cls := 0x06, num := (gwEp t).val, detail := writeDetail t 0x20 } ∧ (r.port t).refuseTick = some s.now ∧ s.sameData r) ∧
  (∀ (s : State) (t : PortId) (v : BitVec 64), s.barUp t = true → t = s.pw.steward → 1 ≤ bits v.toNat 8 0 → bits v.toNat 8 0 ≤ 256 → 1 ≤ bits v.toNat 26 16 →
      bits v.toNat 26 16 ≤ 1024 →
      Does (.recorderLimit t v) s fun r => r.evr.rate = bits v.toNat 8 0 ∧ r.evr.burst = bits v.toNat 26 16 ∧ r.evr.entries = s.evr.entries ∧ s.sameData r) ∧
  (∀ (s : State) (t : PortId) (v : BitVec 64), s.barUp t = true → t = s.pw.steward → bits v.toNat 8 0 = 0 → 1 ≤ bits v.toNat 26 16 → bits v.toNat 26 16 ≤ 1024 →
      s.evr.rate < 512 →
      Does (.recorderLimit t v) s fun r => r.evr.rate = s.evr.rate ∧ r.evr.burst = bits v.toNat 26 16 ∧ s.sameData r) ∧
  (∀ (s : State) (t : PortId) (v : BitVec 64), s.barUp t = true → t = s.pw.steward → 80 ≤ bits v.toNat 6 0 → bits v.toNat 6 0 ≤ 95 → 2000 ≤ bits v.toNat 44 32 →
      bits v.toNat 44 32 ≤ 7500 →
      Does (.thermConfig t v) s fun r => r.th.tThr = bits v.toNat 6 0 ∧ r.th.capW = bits v.toNat 44 32 ∧ r.evr = s.evr ∧ s.sameData r) ∧
  (∀ (s : State) (t : PortId) (v : BitVec 64), s.barUp t = true → t = s.pw.steward → bits v.toNat 6 0 < 80 → 2000 ≤ bits v.toNat 44 32 →
      bits v.toNat 44 32 ≤ 7500 → s.th.tThr < 128 →
      Does (.thermConfig t v) s fun r => r.th.tThr = s.th.tThr ∧ r.th.capW = bits v.toNat 44 32 ∧ s.sameData r ∧
      r.evr = s.evr.offer s.now { code := 0xE001, sev := warn, cls := 0x06, num := (gwEp t).val, detail := writeDetail t 0x1000 }) ∧
  (∀ (s : State) (t : PortId) (v : BitVec 64), s.barUp t = true → t = s.pw.steward → bits v.toNat 2 0 ≤ 5 → v.setWidth 3 ≠ s.tm.source →
      Does (.timeSource t v) s fun r => r.tm.source = v.setWidth 3 ∧ r.tm.ppsSec = none ∧ r.tm.locked1 = false ∧ r.tm.lock = (if v.setWidth 3 = (0 : BitVec 3) then .free else .acquire) ∧ r.tm.offset = s.tm.offset ∧ r.now = s.now ∧ r.evr = s.evr ∧ s.sameData r) ∧
  (∀ (s : State) (t : PortId) (v : BitVec 64), s.barUp t = true → t = s.pw.steward → 5 < bits v.toNat 2 0 →
      Does (.timeSource t v) s fun r => r.tm = { s.tm with ppsSec := none } ∧ s.sameData r ∧
      r.evr = s.evr.offer s.now { code := 0xE001, sev := warn, cls := 0x06, num := (gwEp t).val, detail := writeDetail t 0x2000 }) ∧
  (∀ (s : State) (t : PortId) (v : BitVec 64), s.barUp t = true → t = s.pw.steward →
      Does (.ppsSeconds t v) s fun r => r = { s with tm := { s.tm with ppsSec := some v.toNat } }) ∧
  (∀ (s : State) (t : PortId) (v : BitVec 64), s.barUp t = true →
      Does (.linkSelect t v) s fun r => r = s.modPort t fun q => { q with linkSel := v &&& 0x1F1F }) ∧
  (∀ (s : State) (t : PortId) (v : BitVec 64) (off size : Nat) (tb : List Byte), s.barUp t = true → (size ≠ 8 ∨ off % 8 ≠ 0) →
      Does (.registerWrite t off size v tb) s fun r => s.sameData r ∧ r.parts = s.parts ∧ r.tm = s.tm ∧ r.th = s.th ∧ r.ports = s.ports ∧
      r.evr = s.evr.offer s.now { code := 0xE004, sev := warn, cls := 0x06, num := (gwEp t).val, detail := writeDetail t off }) ∧
  (∀ (s : State) (t : PortId) (v : BitVec 64) (p : PartId) (tb : List Byte), s.barUp t = true → s.commitsNow p = false → t = s.pw.steward →
      (s.part p).block = .free ∨ (s.part p).block = .configuring → bits v.toNat 33 32 ≤ 3 →
      Does (.registerWrite t (blockOff p 0x10) 8 v tb) s fun r => (r.part p).block = .configuring ∧ (r.part p).shape = (v &&& 0xF30000FFFF) ∧ (r.part p).timing = (s.part p).timing ∧ (∀ q, q ≠ p → r.part q = s.part q) ∧ r.evr = s.evr ∧ s.sameData r) ∧
  (∀ (s : State) (t : PortId) (v : BitVec 64) (p : PartId) (tb : List Byte), s.barUp t = true → s.commitsNow p = false → t = s.pw.steward →
      (s.part p).block = .committed ∨ (s.part p).block = .tearing →
      Does (.registerWrite t (blockOff p 0x10) 8 v tb) s fun r => r.parts = s.parts ∧ s.sameData r ∧
      r.evr = s.evr.offer s.now { code := 0xE002, sev := warn, cls := 0x06, num := (gwEp t).val, detail := writeDetail t (blockOff p 0x10) }) ∧
  (∀ (s : State) (t : PortId) (v : BitVec 64) (p : PartId) (tb : List Byte), s.barUp t = true → s.commitsNow p = false → t = s.pw.steward →
      (s.part p).block = .configuring → bits v.toNat 41 32 < 2 → bits v.toNat 3 0 ≤ 12 → bits (s.part p).timing.toNat 41 32 < 1024 →
      Does (.registerWrite t (blockOff p 0x18) 8 v tb) s fun r => bits (r.part p).timing.toNat 41 32 = bits (s.part p).timing.toNat 41 32 ∧ bits (r.part p).timing.toNat 3 0 = bits v.toNat 3 0 ∧ (r.part p).shape = (s.part p).shape ∧ s.sameData r ∧
      r.evr = s.evr.offer s.now { code := 0xE001, sev := warn, cls := 0x06, num := (gwEp t).val, detail := writeDetail t (blockOff p 0x18) }) ∧
  (∀ (s : State) (t : PortId) (v : BitVec 64) (p : PartId) (tb : List Byte), s.barUp t = true → (s.part p).block = .committed → t = (s.part p).servPort →
      Does (.registerWrite t (blockOff p 0x50) 8 v tb) s fun r => (r.part p).irq = v ∧ (r.part p).block = .committed ∧ (r.part p).shape = (s.part p).shape ∧ r.evr = s.evr ∧ s.sameData r) ∧
  (∀ (s : State) (t : PortId) (v : BitVec 64) (p : PartId) (tb : List Byte), s.barUp t = true → t ≠ s.pw.steward → (s.port t).refuseTick = none →
      Does (.registerWrite t (blockOff p 0x28) 8 v tb) s fun r => r.parts = s.parts ∧ r.evr = s.evr.offer s.now { code := 0xE003, sev := warn, cls := 0x06, num := (gwEp t).val, detail := writeDetail t (blockOff p 0x28) } ∧ (r.port t).refuseTick = some s.now ∧ s.sameData r) ∧
  (∀ (s : State) (t : PortId) (v : BitVec 64) (off : Nat) (tb : List Byte), s.barUp t = true → off % 8 = 0 → 0x5000 ≤ off → off < 0x10000 →
      Does (.registerWrite t off 8 v tb) s fun r => r = s) ∧
  (∀ (s : State) (t : PortId) (v : BitVec 64) (p : PartId) (tb : List Byte), s.barUp t = true → t = (s.part p).servPort → (s.part p).block = .committed →
      Does (.registerWrite t (blockOff p 0x08) 8 5 tb) s fun r => (r.part p).lostLines = 0xFF ∧ (r.part p).wakeAt = some s.now ∧ s.sameData r)

/-- Where a command stands at the front of the queue, a step answers what exec answers for it from the state with the queue's rest; where none waits, a step is
one Milestone tick. The queue and the tick on an empty queue are the model's own form of a block that takes commands (log 1), over the 1 ns tick of the fixed
domain. (R9) -/
def Obligations.StepsAndQueue : Prop :=
  (∀ (s : State) (c : Instr) (r : List Instr), s.pending = c :: r →
      step s = exec c { s with pending := r }) ∧
  (∀ (s : State), s.pending = [] →
      step s = .next (tick s))

/-- From every state whatever, a step that takes the front command leaves exactly the rest of the queue, whatever the command does, and a tick leaves the queue
empty; no command adds to the queue. The queue is the model's own (log 1). (R9) -/
def Obligations.QueueOrder : Prop :=
  (∀ (s t : State) (c : Instr) (r : List Instr), s.pending = c :: r → step s = .next t →
      t.pending = r) ∧
  (∀ (s t : State), s.pending = [] → step s = .next t →
      t.pending = [])

/-- At reset a read of the setup map through any port gives the reset value of the table for every register that has one: the recorder limits, the thermal
configuration and caps, the time block, the fabric status, the gateway block's counts, and for the steward port the whole block of each partition, which is free;
the module is off, not ready, steward port 0; both memories are in canonical form and nothing waits. That the module is off with J-power present at reset is the
model's choice (log 7). (R522, R633, R634, R635, R636, R637, R638, R639, R641, R642) -/
def Obligations.ResetState : Prop :=
  (∀ (t : PortId),
      State.reset.readReg t 0x0020 = 0 ∧ State.reset.readReg t 0x0028 = 0x400010 ∧ (State.reset.readReg t 0x0010).setWidth 32 = 0) ∧
  (∀ (t : PortId),
      State.reset.readReg t 0x1000 = 0x1D4C0000005F ∧ State.reset.readReg t 0x1010 = 0x6464646464646464 ∧
      State.reset.readReg t 0x1018 = 0x6464646464646464 ∧ State.reset.readReg t 0x1020 = 0) ∧
  (∀ (t : PortId),
      State.reset.readReg t 0x2000 = 0 ∧ State.reset.readReg t 0x2008 = 0 ∧ State.reset.readReg t 0x2010 = 0 ∧ State.reset.readReg t 0x2018 = 0) ∧
  (∀ (t : PortId),
      State.reset.readReg t 0x3000 = 0 ∧ State.reset.readReg t 0x3008 = 0 ∧ State.reset.readReg t 0x3018 = 0 ∧ State.reset.readReg t 0x4008 = 0 ∧
      State.reset.readReg t 0x4018 = 0) ∧
  (∀ (p : PartId),
      (State.reset.part p).block = .free ∧
      ∀ reg ∈ [0x00, 0x08, 0x10, 0x20, 0x28, 0x30, 0x38, 0x40, 0x48, 0x50, 0x58, 0x60, 0x68], State.reset.readReg 0 (0x10000 + 0x1000 * p.val + reg) = 0) ∧
  (∀ (p : PartId),
      State.reset.readReg 0 (0x10000 + 0x1000 * p.val + 0x18) = 0x1400000006) ∧
  (State.reset.MemOk ∧ State.reset.pending = [] ∧ State.reset.pw.phase = .off)

/-- From every state whose byte memories are in canonical form (addresses strictly rising, no byte equal to what an unlisted address reads as), whatever the rest
of the state holds, a step that answers a next state leaves them in canonical form: every store, atomic, copy, fill, march test, clear, image load, kill of a die
and quarantine of a frame keeps it. The form is the model's (log 9). (R313, R329, R344, R358) -/
def Obligations.StepKeepsMemories : Prop :=
  (∀ (s t : State), s.MemOk → step s = .next t →
      t.MemOk)

/-- For every 64-bit word: the instruction that it spells for a convoy has exactly that word, with no bit dropped; every instruction of a core, with every operand
at every value, is spelled by its word; and a word spells no instruction exactly where its major and minor opcode are reserved by the opcode tables. (R248, R249,
R251, R255, R257, R258, R259, R260, R261, R262, R266, R269) -/
def Obligations.WordsRoundTrip : Prop :=
  (∀ (u : Cv) (e : Ecc) (w : BitVec 64) (i : Instr), instrOfWord u e w = some i →
      wordOf i = some w) ∧
  (∀ (i : Instr) (w : BitVec 64), wordOf i = some w →
      ∃ (u : Cv) (e : Ecc), instrOfWord u e w = some i) ∧
  (∀ (u : Cv) (e : Ecc) (w : BitVec 64),
      (instrOfWord u e w = none ↔ reservedWord w = true))

/-- Stack s, logical cluster c and core n of the cluster, each in its range, name one core, whose global number is s · 1536 + c · 16 + n, from 0 to 24,575; and
every core's stack, cluster and number are those of its global number. (R28) -/
def Obligations.NumbersOfCores : Prop :=
  (∀ (s c n : Nat), s < 16 → c < 96 → n < 16 →
      ∃ g : CoreId, g.val = s * 1536 + c * 16 + n ∧ (coreStack g).val = s ∧ (coreCluster g).val = c ∧ (coreNo g).val = n) ∧
  (∀ (g : CoreId),
      g.val = (coreStack g).val * 1536 + (coreCluster g).val * 16 + (coreNo g).val ∧ g.val ≤ 24575 ∧
      (coreStack g).val = g.val / 1536 ∧ (coreCluster g).val = g.val % 1536 / 16 ∧ (coreNo g).val = g.val % 16)
end

