-- ==== Sys2Proof/Laws/Float.lean ====
section
/-!
SUPPORT. The integer square root that the roots of R289 are taken by: Newton's iteration from above ends at the floor of the root.
-/

namespace Sys2Proof.Machine

/-- Twice the mean of two numbers bounds their product. -/
theorem four_mul_le (a b : Nat) : 4 * (a * b) ≤ (a + b) * (a + b) := by
  rcases Nat.le_total a b with h | h <;> obtain ⟨c, rfl⟩ := Nat.exists_eq_add_of_le h <;>
    simp only [Nat.add_mul, Nat.mul_add, Nat.mul_comm c] <;> omega

/-- A step of the iteration stays at or above the root. -/
theorem isqrt_step_above (n x : Nat) (hx : 0 < x) : n < ((x + n / x) / 2 + 1) * ((x + n / x) / 2 + 1) := by
  have hq : n < x * (n / x + 1) := by
    have := Nat.lt_mul_div_succ n hx
    simpa [Nat.mul_comm] using this
  have h4 := four_mul_le x (n / x + 1)
  have hm : (x + (n / x + 1)) * (x + (n / x + 1)) ≤ (2 * ((x + n / x) / 2 + 1)) * (2 * ((x + n / x) / 2 + 1)) :=
    Nat.mul_le_mul (by omega) (by omega)
  have h2 : ∀ y : Nat, (2 * y) * (2 * y) = 4 * (y * y) := fun y => by
    rw [Nat.mul_mul_mul_comm]
  rw [h2] at hm
  omega

/-- Where a step does not go down, the root is reached. -/
theorem isqrt_step_stop (n x : Nat) (hx : 0 < x) (h : x ≤ (x + n / x) / 2) : x * x ≤ n :=
  (Nat.le_div_iff_mul_le hx).1 (by omega)

/-- The squares of two numbers in order. -/
theorem le_of_sq_lt {a b : Nat} (h : a * a < (b + 1) * (b + 1)) : a ≤ b := by
  apply Nat.le_of_not_lt
  intro hb
  have := Nat.mul_le_mul hb hb
  simp only [Nat.succ_eq_add_one] at this
  omega

/-- A step from x above the root s comes to within half the distance, and one more. -/
theorem isqrt_step_near (n s x : Nat) (hs : s * s ≤ n) (hn : n < (s + 1) * (s + 1)) (hx : 0 < x) (hsx : s ≤ x) :
    (x + n / x) / 2 ≤ s + ((x - s) / 2 + 1) := by
  have h : n / x ≤ s + 2 := by
    rcases Nat.eq_zero_or_pos s with rfl | h0
    · have := Nat.div_le_self n x
      omega
    · have h1 : n / x ≤ n / s := Nat.div_le_div_left hsx h0
      have h2 : n / s < s + 3 := by
        apply Nat.div_lt_of_lt_mul
        simp only [Nat.add_mul, Nat.mul_add] at hn ⊢
        omega
      omega
  omega

/-- Newton's iteration, started within 2^k + 2 above the root and given k + 5 steps, ends at the root. -/
theorem isqrtStep_spec (n s : Nat) (h0 : 0 < s) (hs : s * s ≤ n) (hn : n < (s + 1) * (s + 1)) :
    ∀ (f k x : Nat), 0 < x → s ≤ x → ((x ≤ s + 2 ^ k + 2 ∧ k + 5 ≤ f) ∨ x < s + f) → isqrtStep f n x = s := by
  intro f
  induction f with
  | zero =>
    intro k x hx hsx h
    omega
  | succ f ih =>
    intro k x hx hsx h
    simp only [isqrtStep]
    have hsy : s ≤ (x + n / x) / 2 := le_of_sq_lt (Nat.lt_of_le_of_lt hs (isqrt_step_above n x hx))
    have hnear := isqrt_step_near n s x hs hn hx hsx
    split
    · rename_i hlt
      have hy : 0 < (x + n / x) / 2 := by omega
      apply ih (k - 1) _ hy hsy
      rcases h with ⟨h1, h2⟩ | h
      · rcases k with _ | k
        · right
          omega
        · left
          have : 2 ^ (k + 1) = 2 * 2 ^ k := Nat.pow_succ'
          simp only [Nat.add_sub_cancel]
          omega
      · right
        omega
    · rename_i hge
      have := isqrt_step_stop n x hx (Nat.le_of_not_lt hge)
      exact Nat.le_antisymm (le_of_sq_lt (Nat.lt_of_le_of_lt this hn)) hsx

/-- Every number has an integer square root. -/
theorem exists_root (n : Nat) : ∃ s, s * s ≤ n ∧ n < (s + 1) * (s + 1) := by
  induction n with
  | zero => exact ⟨0, by omega, by omega⟩
  | succ n ih =>
    obtain ⟨s, h1, h2⟩ := ih
    by_cases h : n + 1 < (s + 1) * (s + 1)
    · exact ⟨s, by omega, h⟩
    · exact ⟨s + 1, by omega, by simp only [Nat.add_mul, Nat.mul_add] at *; omega⟩

/-- The integer square root is the floor of the root. -/
theorem isqrt_spec (n : Nat) : isqrt n * isqrt n ≤ n ∧ n < (isqrt n + 1) * (isqrt n + 1) := by
  obtain ⟨s, h1, h2⟩ := exists_root n
  unfold isqrt
  split
  · rename_i h
    subst h
    omega
  · rename_i h
    have hs : 0 < s := by
      apply Nat.pos_of_ne_zero
      rintro rfl
      omega
    have hl : n < 2 ^ (n.log2 + 1) := Nat.lt_log2_self
    have hx : n < 2 ^ (n.log2 / 2 + 1) * 2 ^ (n.log2 / 2 + 1) := by
      rw [← Nat.pow_add]
      exact Nat.lt_of_lt_of_le hl (Nat.pow_le_pow_right (by omega) (by omega))
    have hsx : s ≤ 2 ^ (n.log2 / 2 + 1) := by
      apply Nat.le_of_not_lt
      intro hb
      have := Nat.mul_le_mul (Nat.le_of_lt hb) (Nat.le_of_lt hb)
      omega
    have hr : isqrtStep (n.log2 + 8) n (2 ^ (n.log2 / 2 + 1)) = s :=
      isqrtStep_spec n s hs h1 h2 _ (n.log2 / 2 + 1) _ (Nat.pow_pos (by omega)) hsx (.inl (by omega))
    rw [hr]
    exact ⟨h1, h2⟩

end Sys2Proof.Machine
end

