-- ==== Sys2Proof/Laws/Maps.lean ====
section
/-!
SUPPORT. Sparse maps and byte memories: reading after writing, and that every memory operation keeps the canonical form.
-/

namespace Sys2Proof.Machine

/-! ### Reading after writing -/

theorem kget_kdel {α : Type} (d : α) (m : KMap α) (n k : Nat) : kget d (kdel m n) k = if k = n then d else kget d m k := by
  induction m with
  | nil => simp [kdel, kget]
  | cons c r ih =>
    unfold kdel at *
    by_cases h : c.1 = n
    · simp only [List.filter_cons, h, ne_eq, not_true_eq_false, decide_false, Bool.false_eq_true, ↓reduceIte, ih, kget]
      split <;> rename_i hk
      · rfl
      · rw [if_neg (fun e => hk e.symm)]
    · simp only [List.filter_cons, h, ne_eq, not_false_eq_true, decide_true, ↓reduceIte, kget, ih]
      by_cases hc : c.1 = k
      · have : k ≠ n := fun e => h (hc.trans e)
        simp [hc, this]
      · simp [hc]

theorem kget_kins {α : Type} (d : α) (m : KMap α) (n : Nat) (x : α) (k : Nat) : kget d (kins m n x) k = if k = n then x else kget d m k := by
  induction m with
  | nil =>
    simp only [kins, kget]
    by_cases h : n = k
    · simp [h]
    · simp [h, Ne.symm h]
  | cons c r ih =>
    obtain ⟨a, v⟩ := c
    simp only [kins]
    split
    · simp only [kget]
      by_cases h : n = k
      · simp [h]
      · simp [h, Ne.symm h]
    · split
      · rename_i h1 h2
        subst h2
        simp only [kget]
        by_cases h : a = k
        · simp [h]
        · simp [h, Ne.symm h]
      · rename_i h1 h2
        simp only [kget, ih]
        by_cases h : a = k
        · have : k ≠ n := fun e => h2 (h.trans e)
          simp [h, this]
        · simp [h]

@[simp] theorem kget_kput {α : Type} [DecidableEq α] (d : α) (m : KMap α) (n : Nat) (x : α) (k : Nat) :
    kget d (kput d m n x) k = if k = n then x else kget d m k := by
  unfold kput
  split
  · rename_i h; rw [kget_kdel, h]
  · rw [kget_kins]

@[simp] theorem kget_kmod {α : Type} [DecidableEq α] (d : α) (m : KMap α) (n : Nat) (f : α → α) (k : Nat) :
    kget d (kmod d m n f) k = if k = n then f (kget d m n) else kget d m k := by
  simp [kmod]

@[simp] theorem memGet_memPut (m : Mem) (a : Nat) (b : Byte) (k : Nat) : memGet (memPut m a b) k = if k = a then b else memGet m k := by
  simp [memGet, memPut]

/-- Changing the elements whose key satisfies a test, where the change keeps the default, changes what is read at those keys. -/
theorem kget_kmapIf {α : Type} [DecidableEq α] (d : α) (m : KMap α) (f : Nat → Bool) (g : α → α) (hd : g d = d) (k : Nat) :
    kget d (kmapIf d m f g) k = if f k then g (kget d m k) else kget d m k := by
  induction m with
  | nil => simp [kmapIf, kget, hd]
  | cons c r ih =>
    obtain ⟨a, v⟩ := c
    change kget d (if f a then (if g v = d then kdel (kmapIf d r f g) a else (a, g v) :: kmapIf d r f g)
      else (a, v) :: kmapIf d r f g) k = _
    by_cases ha : a = k
    · subst ha
      by_cases hf : f a
      · by_cases hg : g v = d
        · simp [hf, hg, kget_kdel, kget]
        · simp [hf, hg, kget]
      · simp [hf, kget]
    · split
      · split
        · rw [kget_kdel, if_neg (Ne.symm ha), ih]; simp [kget, ha]
        · simp [kget, ha, ih]
      · simp [kget, ha, ih]

/-! ### The canonical form -/

theorem rising_cons {α : Type} (c : Nat × α) (m : KMap α) : rising (c :: m) = true ↔ (∀ x ∈ m, c.1 < x.1) ∧ rising m = true := by
  induction m generalizing c with
  | nil => simp [rising]
  | cons b r ih =>
    simp only [rising, Bool.and_eq_true, decide_eq_true_eq, List.mem_cons, forall_eq_or_imp]
    constructor
    · rintro ⟨h, hr⟩
      exact ⟨⟨h, fun x hx => Nat.lt_trans h (((ih b).1 hr).1 x hx)⟩, hr⟩
    · rintro ⟨⟨h, _⟩, hr⟩
      exact ⟨h, hr⟩

theorem rising_filter {α : Type} (f : Nat × α → Bool) (m : KMap α) (h : rising m = true) : rising (m.filter f) = true := by
  induction m with
  | nil => rfl
  | cons c r ih =>
    rw [rising_cons] at h
    simp only [List.filter_cons]
    split
    · rw [rising_cons]
      exact ⟨fun x hx => h.1 x ((List.mem_filter.1 hx).1), ih h.2⟩
    · exact ih h.2

theorem canonical_filter {α : Type} [DecidableEq α] (d : α) (f : Nat × α → Bool) (m : KMap α) (h : canonical d m = true) :
    canonical d (m.filter f) = true := by
  simp only [canonical, Bool.and_eq_true, List.all_eq_true] at *
  exact ⟨rising_filter f m h.1, fun x hx => h.2 x ((List.mem_filter.1 hx).1)⟩

theorem mem_kins {α : Type} (m : KMap α) (n : Nat) (x : α) (c : Nat × α) (h : c ∈ kins m n x) : c = (n, x) ∨ c ∈ m := by
  induction m with
  | nil => simpa [kins] using h
  | cons a r ih =>
    obtain ⟨k, v⟩ := a
    simp only [kins] at h
    split at h
    · simpa using h
    · split at h
      · rcases List.mem_cons.1 h with h | h
        · exact .inl h
        · exact .inr (List.mem_cons_of_mem _ h)
      · rcases List.mem_cons.1 h with h | h
        · exact .inr (h ▸ List.mem_cons_self ..)
        · exact (ih h).imp_right (List.mem_cons_of_mem _)

theorem rising_kins {α : Type} (m : KMap α) (n : Nat) (x : α) (h : rising m = true) : rising (kins m n x) = true := by
  induction m with
  | nil => rfl
  | cons a r ih =>
    obtain ⟨k, v⟩ := a
    rw [rising_cons] at h
    simp only [kins]
    split
    · rename_i hk
      rw [rising_cons, rising_cons]
      refine ⟨fun c hc => ?_, h⟩
      rcases List.mem_cons.1 hc with rfl | hc
      · exact hk
      · exact Nat.lt_trans hk (h.1 c hc)
    · split
      · rename_i h1 h2
        subst h2
        rw [rising_cons]
        exact h
      · rename_i h1 h2
        rw [rising_cons]
        refine ⟨fun c hc => ?_, ih h.2⟩
        rcases mem_kins r n x c hc with rfl | hc
        · show k < n; omega
        · exact h.1 c hc

theorem canonical_kput {α : Type} [DecidableEq α] (d : α) (m : KMap α) (n : Nat) (x : α) (h : canonical d m = true) :
    canonical d (kput d m n x) = true := by
  unfold kput
  split
  · exact canonical_filter d _ m h
  · rename_i hx
    simp only [canonical, Bool.and_eq_true, List.all_eq_true] at *
    refine ⟨rising_kins m n x h.1, fun c hc => ?_⟩
    rcases mem_kins m n x c hc with rfl | hc
    · simpa using hx
    · exact h.2 c hc

theorem Memory.wf_memPut (m : Mem) (a : Nat) (b : Byte) (h : Memory.wf m = true) : Memory.wf (memPut m a b) = true :=
  canonical_kput _ _ _ _ h

theorem Memory.wf_memWrite (m : Mem) (a : Nat) (bs : List Byte) (h : Memory.wf m = true) : Memory.wf (memWrite m a bs) = true := by
  induction bs generalizing m a with
  | nil => exact h
  | cons b r ih => exact ih _ _ (Memory.wf_memPut m a b h)

theorem Memory.wf_memWriteEn (m : Mem) (a : Nat) (bs : List (Bool × Byte)) (h : Memory.wf m = true) :
    Memory.wf (memWriteEn m a bs) = true := by
  induction bs generalizing m a with
  | nil => exact h
  | cons b r ih =>
    obtain ⟨e, b⟩ := b
    simp only [memWriteEn]
    apply ih
    split
    · exact Memory.wf_memPut m a b h
    · exact h

theorem Memory.wf_memZero (m : Mem) (lo n : Nat) (h : Memory.wf m = true) : Memory.wf (memZero m lo n) = true :=
  canonical_filter _ _ m h

end Sys2Proof.Machine
end

