-- ==== Sys2Proof/Laws/State.lean ====
section
/-!
SUPPORT. What each named update of State leaves as it was: one lemma for each field and update, and what the element it changes reads after it.
-/

namespace Sys2Proof.Machine


/-! ### modEp -/

@[simp] theorem State.modEp_now (s : State) (e : EpId) (f : EpState → EpState) : (s.modEp e f).now = s.now := rfl
@[simp] theorem State.modEp_on (s : State) (e : EpId) (f : EpState → EpState) : (s.modEp e f).on = s.on := rfl
@[simp] theorem State.modEp_pw (s : State) (e : EpId) (f : EpState → EpState) : (s.modEp e f).pw = s.pw := rfl
@[simp] theorem State.modEp_th (s : State) (e : EpId) (f : EpState → EpState) : (s.modEp e f).th = s.th := rfl
@[simp] theorem State.modEp_tm (s : State) (e : EpId) (f : EpState → EpState) : (s.modEp e f).tm = s.tm := rfl
@[simp] theorem State.modEp_bt (s : State) (e : EpId) (f : EpState → EpState) : (s.modEp e f).bt = s.bt := rfl
@[simp] theorem State.modEp_stks (s : State) (e : EpId) (f : EpState → EpState) : (s.modEp e f).stks = s.stks := rfl
@[simp] theorem State.modEp_regions (s : State) (e : EpId) (f : EpState → EpState) : (s.modEp e f).regions = s.regions := rfl
@[simp] theorem State.modEp_clusters (s : State) (e : EpId) (f : EpState → EpState) : (s.modEp e f).clusters = s.clusters := rfl
@[simp] theorem State.modEp_cores (s : State) (e : EpId) (f : EpState → EpState) : (s.modEp e f).cores = s.cores := rfl
@[simp] theorem State.modEp_dies (s : State) (e : EpId) (f : EpState → EpState) : (s.modEp e f).dies = s.dies := rfl
@[simp] theorem State.modEp_links (s : State) (e : EpId) (f : EpState → EpState) : (s.modEp e f).links = s.links := rfl
@[simp] theorem State.modEp_lanes (s : State) (e : EpId) (f : EpState → EpState) : (s.modEp e f).lanes = s.lanes := rfl
@[simp] theorem State.modEp_hbm (s : State) (e : EpId) (f : EpState → EpState) : (s.modEp e f).hbm = s.hbm := rfl
@[simp] theorem State.modEp_ml (s : State) (e : EpId) (f : EpState → EpState) : (s.modEp e f).ml = s.ml := rfl
@[simp] theorem State.modEp_mlBad (s : State) (e : EpId) (f : EpState → EpState) : (s.modEp e f).mlBad = s.mlBad := rfl
@[simp] theorem State.modEp_hbmBad (s : State) (e : EpId) (f : EpState → EpState) : (s.modEp e f).hbmBad = s.hbmBad := rfl
@[simp] theorem State.modEp_pm (s : State) (e : EpId) (f : EpState → EpState) : (s.modEp e f).pm = s.pm := rfl
@[simp] theorem State.modEp_ops (s : State) (e : EpId) (f : EpState → EpState) : (s.modEp e f).ops = s.ops := rfl
@[simp] theorem State.modEp_tails (s : State) (e : EpId) (f : EpState → EpState) : (s.modEp e f).tails = s.tails := rfl
@[simp] theorem State.modEp_nextOp (s : State) (e : EpId) (f : EpState → EpState) : (s.modEp e f).nextOp = s.nextOp := rfl
@[simp] theorem State.modEp_parts (s : State) (e : EpId) (f : EpState → EpState) : (s.modEp e f).parts = s.parts := rfl
@[simp] theorem State.modEp_ports (s : State) (e : EpId) (f : EpState → EpState) : (s.modEp e f).ports = s.ports := rfl
@[simp] theorem State.modEp_stewA (s : State) (e : EpId) (f : EpState → EpState) : (s.modEp e f).stewA = s.stewA := rfl
@[simp] theorem State.modEp_stewB (s : State) (e : EpId) (f : EpState → EpState) : (s.modEp e f).stewB = s.stewB := rfl
@[simp] theorem State.modEp_groups (s : State) (e : EpId) (f : EpState → EpState) : (s.modEp e f).groups = s.groups := rfl
@[simp] theorem State.modEp_holder (s : State) (e : EpId) (f : EpState → EpState) : (s.modEp e f).holder = s.holder := rfl
@[simp] theorem State.modEp_ucie (s : State) (e : EpId) (f : EpState → EpState) : (s.modEp e f).ucie = s.ucie := rfl
@[simp] theorem State.modEp_ringSeg (s : State) (e : EpId) (f : EpState → EpState) : (s.modEp e f).ringSeg = s.ringSeg := rfl
@[simp] theorem State.modEp_sites (s : State) (e : EpId) (f : EpState → EpState) : (s.modEp e f).sites = s.sites := rfl
@[simp] theorem State.modEp_evr (s : State) (e : EpId) (f : EpState → EpState) : (s.modEp e f).evr = s.evr := rfl
@[simp] theorem State.modEp_age (s : State) (e : EpId) (f : EpState → EpState) : (s.modEp e f).age = s.age := rfl
@[simp] theorem State.modEp_ageBefore (s : State) (e : EpId) (f : EpState → EpState) : (s.modEp e f).ageBefore = s.ageBefore := rfl
@[simp] theorem State.modEp_pyh (s : State) (e : EpId) (f : EpState → EpState) : (s.modEp e f).pyh = s.pyh := rfl
@[simp] theorem State.modEp_out (s : State) (e : EpId) (f : EpState → EpState) : (s.modEp e f).out = s.out := rfl
@[simp] theorem State.modEp_free (s : State) (e : EpId) (f : EpState → EpState) : (s.modEp e f).free = s.free := rfl
@[simp] theorem State.modEp_pending (s : State) (e : EpId) (f : EpState → EpState) : (s.modEp e f).pending = s.pending := rfl

/-! ### modStack -/

@[simp] theorem State.modStack_now (s : State) (x : StackId) (f : Stack → Stack) : (s.modStack x f).now = s.now := rfl
@[simp] theorem State.modStack_on (s : State) (x : StackId) (f : Stack → Stack) : (s.modStack x f).on = s.on := rfl
@[simp] theorem State.modStack_pw (s : State) (x : StackId) (f : Stack → Stack) : (s.modStack x f).pw = s.pw := rfl
@[simp] theorem State.modStack_th (s : State) (x : StackId) (f : Stack → Stack) : (s.modStack x f).th = s.th := rfl
@[simp] theorem State.modStack_tm (s : State) (x : StackId) (f : Stack → Stack) : (s.modStack x f).tm = s.tm := rfl
@[simp] theorem State.modStack_bt (s : State) (x : StackId) (f : Stack → Stack) : (s.modStack x f).bt = s.bt := rfl
@[simp] theorem State.modStack_regions (s : State) (x : StackId) (f : Stack → Stack) : (s.modStack x f).regions = s.regions := rfl
@[simp] theorem State.modStack_clusters (s : State) (x : StackId) (f : Stack → Stack) : (s.modStack x f).clusters = s.clusters := rfl
@[simp] theorem State.modStack_cores (s : State) (x : StackId) (f : Stack → Stack) : (s.modStack x f).cores = s.cores := rfl
@[simp] theorem State.modStack_eps (s : State) (x : StackId) (f : Stack → Stack) : (s.modStack x f).eps = s.eps := rfl
@[simp] theorem State.modStack_dies (s : State) (x : StackId) (f : Stack → Stack) : (s.modStack x f).dies = s.dies := rfl
@[simp] theorem State.modStack_links (s : State) (x : StackId) (f : Stack → Stack) : (s.modStack x f).links = s.links := rfl
@[simp] theorem State.modStack_lanes (s : State) (x : StackId) (f : Stack → Stack) : (s.modStack x f).lanes = s.lanes := rfl
@[simp] theorem State.modStack_hbm (s : State) (x : StackId) (f : Stack → Stack) : (s.modStack x f).hbm = s.hbm := rfl
@[simp] theorem State.modStack_ml (s : State) (x : StackId) (f : Stack → Stack) : (s.modStack x f).ml = s.ml := rfl
@[simp] theorem State.modStack_mlBad (s : State) (x : StackId) (f : Stack → Stack) : (s.modStack x f).mlBad = s.mlBad := rfl
@[simp] theorem State.modStack_hbmBad (s : State) (x : StackId) (f : Stack → Stack) : (s.modStack x f).hbmBad = s.hbmBad := rfl
@[simp] theorem State.modStack_pm (s : State) (x : StackId) (f : Stack → Stack) : (s.modStack x f).pm = s.pm := rfl
@[simp] theorem State.modStack_ops (s : State) (x : StackId) (f : Stack → Stack) : (s.modStack x f).ops = s.ops := rfl
@[simp] theorem State.modStack_tails (s : State) (x : StackId) (f : Stack → Stack) : (s.modStack x f).tails = s.tails := rfl
@[simp] theorem State.modStack_nextOp (s : State) (x : StackId) (f : Stack → Stack) : (s.modStack x f).nextOp = s.nextOp := rfl
@[simp] theorem State.modStack_parts (s : State) (x : StackId) (f : Stack → Stack) : (s.modStack x f).parts = s.parts := rfl
@[simp] theorem State.modStack_ports (s : State) (x : StackId) (f : Stack → Stack) : (s.modStack x f).ports = s.ports := rfl
@[simp] theorem State.modStack_stewA (s : State) (x : StackId) (f : Stack → Stack) : (s.modStack x f).stewA = s.stewA := rfl
@[simp] theorem State.modStack_stewB (s : State) (x : StackId) (f : Stack → Stack) : (s.modStack x f).stewB = s.stewB := rfl
@[simp] theorem State.modStack_groups (s : State) (x : StackId) (f : Stack → Stack) : (s.modStack x f).groups = s.groups := rfl
@[simp] theorem State.modStack_holder (s : State) (x : StackId) (f : Stack → Stack) : (s.modStack x f).holder = s.holder := rfl
@[simp] theorem State.modStack_ucie (s : State) (x : StackId) (f : Stack → Stack) : (s.modStack x f).ucie = s.ucie := rfl
@[simp] theorem State.modStack_ringSeg (s : State) (x : StackId) (f : Stack → Stack) : (s.modStack x f).ringSeg = s.ringSeg := rfl
@[simp] theorem State.modStack_sites (s : State) (x : StackId) (f : Stack → Stack) : (s.modStack x f).sites = s.sites := rfl
@[simp] theorem State.modStack_evr (s : State) (x : StackId) (f : Stack → Stack) : (s.modStack x f).evr = s.evr := rfl
@[simp] theorem State.modStack_age (s : State) (x : StackId) (f : Stack → Stack) : (s.modStack x f).age = s.age := rfl
@[simp] theorem State.modStack_ageBefore (s : State) (x : StackId) (f : Stack → Stack) : (s.modStack x f).ageBefore = s.ageBefore := rfl
@[simp] theorem State.modStack_pyh (s : State) (x : StackId) (f : Stack → Stack) : (s.modStack x f).pyh = s.pyh := rfl
@[simp] theorem State.modStack_out (s : State) (x : StackId) (f : Stack → Stack) : (s.modStack x f).out = s.out := rfl
@[simp] theorem State.modStack_free (s : State) (x : StackId) (f : Stack → Stack) : (s.modStack x f).free = s.free := rfl
@[simp] theorem State.modStack_pending (s : State) (x : StackId) (f : Stack → Stack) : (s.modStack x f).pending = s.pending := rfl

/-! ### modRegion -/

@[simp] theorem State.modRegion_now (s : State) (x : StackId) (p : RegionNo) (f : Region → Region) : (s.modRegion x p f).now = s.now := rfl
@[simp] theorem State.modRegion_on (s : State) (x : StackId) (p : RegionNo) (f : Region → Region) : (s.modRegion x p f).on = s.on := rfl
@[simp] theorem State.modRegion_pw (s : State) (x : StackId) (p : RegionNo) (f : Region → Region) : (s.modRegion x p f).pw = s.pw := rfl
@[simp] theorem State.modRegion_th (s : State) (x : StackId) (p : RegionNo) (f : Region → Region) : (s.modRegion x p f).th = s.th := rfl
@[simp] theorem State.modRegion_tm (s : State) (x : StackId) (p : RegionNo) (f : Region → Region) : (s.modRegion x p f).tm = s.tm := rfl
@[simp] theorem State.modRegion_bt (s : State) (x : StackId) (p : RegionNo) (f : Region → Region) : (s.modRegion x p f).bt = s.bt := rfl
@[simp] theorem State.modRegion_stks (s : State) (x : StackId) (p : RegionNo) (f : Region → Region) : (s.modRegion x p f).stks = s.stks := rfl
@[simp] theorem State.modRegion_clusters (s : State) (x : StackId) (p : RegionNo) (f : Region → Region) : (s.modRegion x p f).clusters = s.clusters := rfl
@[simp] theorem State.modRegion_cores (s : State) (x : StackId) (p : RegionNo) (f : Region → Region) : (s.modRegion x p f).cores = s.cores := rfl
@[simp] theorem State.modRegion_eps (s : State) (x : StackId) (p : RegionNo) (f : Region → Region) : (s.modRegion x p f).eps = s.eps := rfl
@[simp] theorem State.modRegion_dies (s : State) (x : StackId) (p : RegionNo) (f : Region → Region) : (s.modRegion x p f).dies = s.dies := rfl
@[simp] theorem State.modRegion_links (s : State) (x : StackId) (p : RegionNo) (f : Region → Region) : (s.modRegion x p f).links = s.links := rfl
@[simp] theorem State.modRegion_lanes (s : State) (x : StackId) (p : RegionNo) (f : Region → Region) : (s.modRegion x p f).lanes = s.lanes := rfl
@[simp] theorem State.modRegion_hbm (s : State) (x : StackId) (p : RegionNo) (f : Region → Region) : (s.modRegion x p f).hbm = s.hbm := rfl
@[simp] theorem State.modRegion_ml (s : State) (x : StackId) (p : RegionNo) (f : Region → Region) : (s.modRegion x p f).ml = s.ml := rfl
@[simp] theorem State.modRegion_mlBad (s : State) (x : StackId) (p : RegionNo) (f : Region → Region) : (s.modRegion x p f).mlBad = s.mlBad := rfl
@[simp] theorem State.modRegion_hbmBad (s : State) (x : StackId) (p : RegionNo) (f : Region → Region) : (s.modRegion x p f).hbmBad = s.hbmBad := rfl
@[simp] theorem State.modRegion_pm (s : State) (x : StackId) (p : RegionNo) (f : Region → Region) : (s.modRegion x p f).pm = s.pm := rfl
@[simp] theorem State.modRegion_ops (s : State) (x : StackId) (p : RegionNo) (f : Region → Region) : (s.modRegion x p f).ops = s.ops := rfl
@[simp] theorem State.modRegion_tails (s : State) (x : StackId) (p : RegionNo) (f : Region → Region) : (s.modRegion x p f).tails = s.tails := rfl
@[simp] theorem State.modRegion_nextOp (s : State) (x : StackId) (p : RegionNo) (f : Region → Region) : (s.modRegion x p f).nextOp = s.nextOp := rfl
@[simp] theorem State.modRegion_parts (s : State) (x : StackId) (p : RegionNo) (f : Region → Region) : (s.modRegion x p f).parts = s.parts := rfl
@[simp] theorem State.modRegion_ports (s : State) (x : StackId) (p : RegionNo) (f : Region → Region) : (s.modRegion x p f).ports = s.ports := rfl
@[simp] theorem State.modRegion_stewA (s : State) (x : StackId) (p : RegionNo) (f : Region → Region) : (s.modRegion x p f).stewA = s.stewA := rfl
@[simp] theorem State.modRegion_stewB (s : State) (x : StackId) (p : RegionNo) (f : Region → Region) : (s.modRegion x p f).stewB = s.stewB := rfl
@[simp] theorem State.modRegion_groups (s : State) (x : StackId) (p : RegionNo) (f : Region → Region) : (s.modRegion x p f).groups = s.groups := rfl
@[simp] theorem State.modRegion_holder (s : State) (x : StackId) (p : RegionNo) (f : Region → Region) : (s.modRegion x p f).holder = s.holder := rfl
@[simp] theorem State.modRegion_ucie (s : State) (x : StackId) (p : RegionNo) (f : Region → Region) : (s.modRegion x p f).ucie = s.ucie := rfl
@[simp] theorem State.modRegion_ringSeg (s : State) (x : StackId) (p : RegionNo) (f : Region → Region) : (s.modRegion x p f).ringSeg = s.ringSeg := rfl
@[simp] theorem State.modRegion_sites (s : State) (x : StackId) (p : RegionNo) (f : Region → Region) : (s.modRegion x p f).sites = s.sites := rfl
@[simp] theorem State.modRegion_evr (s : State) (x : StackId) (p : RegionNo) (f : Region → Region) : (s.modRegion x p f).evr = s.evr := rfl
@[simp] theorem State.modRegion_age (s : State) (x : StackId) (p : RegionNo) (f : Region → Region) : (s.modRegion x p f).age = s.age := rfl
@[simp] theorem State.modRegion_ageBefore (s : State) (x : StackId) (p : RegionNo) (f : Region → Region) : (s.modRegion x p f).ageBefore = s.ageBefore := rfl
@[simp] theorem State.modRegion_pyh (s : State) (x : StackId) (p : RegionNo) (f : Region → Region) : (s.modRegion x p f).pyh = s.pyh := rfl
@[simp] theorem State.modRegion_out (s : State) (x : StackId) (p : RegionNo) (f : Region → Region) : (s.modRegion x p f).out = s.out := rfl
@[simp] theorem State.modRegion_free (s : State) (x : StackId) (p : RegionNo) (f : Region → Region) : (s.modRegion x p f).free = s.free := rfl
@[simp] theorem State.modRegion_pending (s : State) (x : StackId) (p : RegionNo) (f : Region → Region) : (s.modRegion x p f).pending = s.pending := rfl

/-! ### modCluster -/

@[simp] theorem State.modCluster_now (s : State) (x : StackId) (c : ClusterNo) (f : Cluster → Cluster) : (s.modCluster x c f).now = s.now := rfl
@[simp] theorem State.modCluster_on (s : State) (x : StackId) (c : ClusterNo) (f : Cluster → Cluster) : (s.modCluster x c f).on = s.on := rfl
@[simp] theorem State.modCluster_pw (s : State) (x : StackId) (c : ClusterNo) (f : Cluster → Cluster) : (s.modCluster x c f).pw = s.pw := rfl
@[simp] theorem State.modCluster_th (s : State) (x : StackId) (c : ClusterNo) (f : Cluster → Cluster) : (s.modCluster x c f).th = s.th := rfl
@[simp] theorem State.modCluster_tm (s : State) (x : StackId) (c : ClusterNo) (f : Cluster → Cluster) : (s.modCluster x c f).tm = s.tm := rfl
@[simp] theorem State.modCluster_bt (s : State) (x : StackId) (c : ClusterNo) (f : Cluster → Cluster) : (s.modCluster x c f).bt = s.bt := rfl
@[simp] theorem State.modCluster_stks (s : State) (x : StackId) (c : ClusterNo) (f : Cluster → Cluster) : (s.modCluster x c f).stks = s.stks := rfl
@[simp] theorem State.modCluster_regions (s : State) (x : StackId) (c : ClusterNo) (f : Cluster → Cluster) : (s.modCluster x c f).regions = s.regions := rfl
@[simp] theorem State.modCluster_cores (s : State) (x : StackId) (c : ClusterNo) (f : Cluster → Cluster) : (s.modCluster x c f).cores = s.cores := rfl
@[simp] theorem State.modCluster_eps (s : State) (x : StackId) (c : ClusterNo) (f : Cluster → Cluster) : (s.modCluster x c f).eps = s.eps := rfl
@[simp] theorem State.modCluster_dies (s : State) (x : StackId) (c : ClusterNo) (f : Cluster → Cluster) : (s.modCluster x c f).dies = s.dies := rfl
@[simp] theorem State.modCluster_links (s : State) (x : StackId) (c : ClusterNo) (f : Cluster → Cluster) : (s.modCluster x c f).links = s.links := rfl
@[simp] theorem State.modCluster_lanes (s : State) (x : StackId) (c : ClusterNo) (f : Cluster → Cluster) : (s.modCluster x c f).lanes = s.lanes := rfl
@[simp] theorem State.modCluster_hbm (s : State) (x : StackId) (c : ClusterNo) (f : Cluster → Cluster) : (s.modCluster x c f).hbm = s.hbm := rfl
@[simp] theorem State.modCluster_ml (s : State) (x : StackId) (c : ClusterNo) (f : Cluster → Cluster) : (s.modCluster x c f).ml = s.ml := rfl
@[simp] theorem State.modCluster_mlBad (s : State) (x : StackId) (c : ClusterNo) (f : Cluster → Cluster) : (s.modCluster x c f).mlBad = s.mlBad := rfl
@[simp] theorem State.modCluster_hbmBad (s : State) (x : StackId) (c : ClusterNo) (f : Cluster → Cluster) : (s.modCluster x c f).hbmBad = s.hbmBad := rfl
@[simp] theorem State.modCluster_pm (s : State) (x : StackId) (c : ClusterNo) (f : Cluster → Cluster) : (s.modCluster x c f).pm = s.pm := rfl
@[simp] theorem State.modCluster_ops (s : State) (x : StackId) (c : ClusterNo) (f : Cluster → Cluster) : (s.modCluster x c f).ops = s.ops := rfl
@[simp] theorem State.modCluster_tails (s : State) (x : StackId) (c : ClusterNo) (f : Cluster → Cluster) : (s.modCluster x c f).tails = s.tails := rfl
@[simp] theorem State.modCluster_nextOp (s : State) (x : StackId) (c : ClusterNo) (f : Cluster → Cluster) : (s.modCluster x c f).nextOp = s.nextOp := rfl
@[simp] theorem State.modCluster_parts (s : State) (x : StackId) (c : ClusterNo) (f : Cluster → Cluster) : (s.modCluster x c f).parts = s.parts := rfl
@[simp] theorem State.modCluster_ports (s : State) (x : StackId) (c : ClusterNo) (f : Cluster → Cluster) : (s.modCluster x c f).ports = s.ports := rfl
@[simp] theorem State.modCluster_stewA (s : State) (x : StackId) (c : ClusterNo) (f : Cluster → Cluster) : (s.modCluster x c f).stewA = s.stewA := rfl
@[simp] theorem State.modCluster_stewB (s : State) (x : StackId) (c : ClusterNo) (f : Cluster → Cluster) : (s.modCluster x c f).stewB = s.stewB := rfl
@[simp] theorem State.modCluster_groups (s : State) (x : StackId) (c : ClusterNo) (f : Cluster → Cluster) : (s.modCluster x c f).groups = s.groups := rfl
@[simp] theorem State.modCluster_holder (s : State) (x : StackId) (c : ClusterNo) (f : Cluster → Cluster) : (s.modCluster x c f).holder = s.holder := rfl
@[simp] theorem State.modCluster_ucie (s : State) (x : StackId) (c : ClusterNo) (f : Cluster → Cluster) : (s.modCluster x c f).ucie = s.ucie := rfl
@[simp] theorem State.modCluster_ringSeg (s : State) (x : StackId) (c : ClusterNo) (f : Cluster → Cluster) : (s.modCluster x c f).ringSeg = s.ringSeg := rfl
@[simp] theorem State.modCluster_sites (s : State) (x : StackId) (c : ClusterNo) (f : Cluster → Cluster) : (s.modCluster x c f).sites = s.sites := rfl
@[simp] theorem State.modCluster_evr (s : State) (x : StackId) (c : ClusterNo) (f : Cluster → Cluster) : (s.modCluster x c f).evr = s.evr := rfl
@[simp] theorem State.modCluster_age (s : State) (x : StackId) (c : ClusterNo) (f : Cluster → Cluster) : (s.modCluster x c f).age = s.age := rfl
@[simp] theorem State.modCluster_ageBefore (s : State) (x : StackId) (c : ClusterNo) (f : Cluster → Cluster) : (s.modCluster x c f).ageBefore = s.ageBefore := rfl
@[simp] theorem State.modCluster_pyh (s : State) (x : StackId) (c : ClusterNo) (f : Cluster → Cluster) : (s.modCluster x c f).pyh = s.pyh := rfl
@[simp] theorem State.modCluster_out (s : State) (x : StackId) (c : ClusterNo) (f : Cluster → Cluster) : (s.modCluster x c f).out = s.out := rfl
@[simp] theorem State.modCluster_free (s : State) (x : StackId) (c : ClusterNo) (f : Cluster → Cluster) : (s.modCluster x c f).free = s.free := rfl
@[simp] theorem State.modCluster_pending (s : State) (x : StackId) (c : ClusterNo) (f : Cluster → Cluster) : (s.modCluster x c f).pending = s.pending := rfl

/-! ### modCore -/

@[simp] theorem State.modCore_now (s : State) (g : CoreId) (f : Core → Core) : (s.modCore g f).now = s.now := rfl
@[simp] theorem State.modCore_on (s : State) (g : CoreId) (f : Core → Core) : (s.modCore g f).on = s.on := rfl
@[simp] theorem State.modCore_pw (s : State) (g : CoreId) (f : Core → Core) : (s.modCore g f).pw = s.pw := rfl
@[simp] theorem State.modCore_th (s : State) (g : CoreId) (f : Core → Core) : (s.modCore g f).th = s.th := rfl
@[simp] theorem State.modCore_tm (s : State) (g : CoreId) (f : Core → Core) : (s.modCore g f).tm = s.tm := rfl
@[simp] theorem State.modCore_bt (s : State) (g : CoreId) (f : Core → Core) : (s.modCore g f).bt = s.bt := rfl
@[simp] theorem State.modCore_stks (s : State) (g : CoreId) (f : Core → Core) : (s.modCore g f).stks = s.stks := rfl
@[simp] theorem State.modCore_regions (s : State) (g : CoreId) (f : Core → Core) : (s.modCore g f).regions = s.regions := rfl
@[simp] theorem State.modCore_clusters (s : State) (g : CoreId) (f : Core → Core) : (s.modCore g f).clusters = s.clusters := rfl
@[simp] theorem State.modCore_eps (s : State) (g : CoreId) (f : Core → Core) : (s.modCore g f).eps = s.eps := rfl
@[simp] theorem State.modCore_dies (s : State) (g : CoreId) (f : Core → Core) : (s.modCore g f).dies = s.dies := rfl
@[simp] theorem State.modCore_links (s : State) (g : CoreId) (f : Core → Core) : (s.modCore g f).links = s.links := rfl
@[simp] theorem State.modCore_lanes (s : State) (g : CoreId) (f : Core → Core) : (s.modCore g f).lanes = s.lanes := rfl
@[simp] theorem State.modCore_hbm (s : State) (g : CoreId) (f : Core → Core) : (s.modCore g f).hbm = s.hbm := rfl
@[simp] theorem State.modCore_ml (s : State) (g : CoreId) (f : Core → Core) : (s.modCore g f).ml = s.ml := rfl
@[simp] theorem State.modCore_mlBad (s : State) (g : CoreId) (f : Core → Core) : (s.modCore g f).mlBad = s.mlBad := rfl
@[simp] theorem State.modCore_hbmBad (s : State) (g : CoreId) (f : Core → Core) : (s.modCore g f).hbmBad = s.hbmBad := rfl
@[simp] theorem State.modCore_pm (s : State) (g : CoreId) (f : Core → Core) : (s.modCore g f).pm = s.pm := rfl
@[simp] theorem State.modCore_ops (s : State) (g : CoreId) (f : Core → Core) : (s.modCore g f).ops = s.ops := rfl
@[simp] theorem State.modCore_tails (s : State) (g : CoreId) (f : Core → Core) : (s.modCore g f).tails = s.tails := rfl
@[simp] theorem State.modCore_nextOp (s : State) (g : CoreId) (f : Core → Core) : (s.modCore g f).nextOp = s.nextOp := rfl
@[simp] theorem State.modCore_parts (s : State) (g : CoreId) (f : Core → Core) : (s.modCore g f).parts = s.parts := rfl
@[simp] theorem State.modCore_ports (s : State) (g : CoreId) (f : Core → Core) : (s.modCore g f).ports = s.ports := rfl
@[simp] theorem State.modCore_stewA (s : State) (g : CoreId) (f : Core → Core) : (s.modCore g f).stewA = s.stewA := rfl
@[simp] theorem State.modCore_stewB (s : State) (g : CoreId) (f : Core → Core) : (s.modCore g f).stewB = s.stewB := rfl
@[simp] theorem State.modCore_groups (s : State) (g : CoreId) (f : Core → Core) : (s.modCore g f).groups = s.groups := rfl
@[simp] theorem State.modCore_holder (s : State) (g : CoreId) (f : Core → Core) : (s.modCore g f).holder = s.holder := rfl
@[simp] theorem State.modCore_ucie (s : State) (g : CoreId) (f : Core → Core) : (s.modCore g f).ucie = s.ucie := rfl
@[simp] theorem State.modCore_ringSeg (s : State) (g : CoreId) (f : Core → Core) : (s.modCore g f).ringSeg = s.ringSeg := rfl
@[simp] theorem State.modCore_sites (s : State) (g : CoreId) (f : Core → Core) : (s.modCore g f).sites = s.sites := rfl
@[simp] theorem State.modCore_evr (s : State) (g : CoreId) (f : Core → Core) : (s.modCore g f).evr = s.evr := rfl
@[simp] theorem State.modCore_age (s : State) (g : CoreId) (f : Core → Core) : (s.modCore g f).age = s.age := rfl
@[simp] theorem State.modCore_ageBefore (s : State) (g : CoreId) (f : Core → Core) : (s.modCore g f).ageBefore = s.ageBefore := rfl
@[simp] theorem State.modCore_pyh (s : State) (g : CoreId) (f : Core → Core) : (s.modCore g f).pyh = s.pyh := rfl
@[simp] theorem State.modCore_out (s : State) (g : CoreId) (f : Core → Core) : (s.modCore g f).out = s.out := rfl
@[simp] theorem State.modCore_free (s : State) (g : CoreId) (f : Core → Core) : (s.modCore g f).free = s.free := rfl
@[simp] theorem State.modCore_pending (s : State) (g : CoreId) (f : Core → Core) : (s.modCore g f).pending = s.pending := rfl

/-! ### modCv -/

@[simp] theorem State.modCv_now (s : State) (u : Cv) (f : Convoy → Convoy) : (s.modCv u f).now = s.now := rfl
@[simp] theorem State.modCv_on (s : State) (u : Cv) (f : Convoy → Convoy) : (s.modCv u f).on = s.on := rfl
@[simp] theorem State.modCv_pw (s : State) (u : Cv) (f : Convoy → Convoy) : (s.modCv u f).pw = s.pw := rfl
@[simp] theorem State.modCv_th (s : State) (u : Cv) (f : Convoy → Convoy) : (s.modCv u f).th = s.th := rfl
@[simp] theorem State.modCv_tm (s : State) (u : Cv) (f : Convoy → Convoy) : (s.modCv u f).tm = s.tm := rfl
@[simp] theorem State.modCv_bt (s : State) (u : Cv) (f : Convoy → Convoy) : (s.modCv u f).bt = s.bt := rfl
@[simp] theorem State.modCv_stks (s : State) (u : Cv) (f : Convoy → Convoy) : (s.modCv u f).stks = s.stks := rfl
@[simp] theorem State.modCv_regions (s : State) (u : Cv) (f : Convoy → Convoy) : (s.modCv u f).regions = s.regions := rfl
@[simp] theorem State.modCv_clusters (s : State) (u : Cv) (f : Convoy → Convoy) : (s.modCv u f).clusters = s.clusters := rfl
@[simp] theorem State.modCv_eps (s : State) (u : Cv) (f : Convoy → Convoy) : (s.modCv u f).eps = s.eps := rfl
@[simp] theorem State.modCv_dies (s : State) (u : Cv) (f : Convoy → Convoy) : (s.modCv u f).dies = s.dies := rfl
@[simp] theorem State.modCv_links (s : State) (u : Cv) (f : Convoy → Convoy) : (s.modCv u f).links = s.links := rfl
@[simp] theorem State.modCv_lanes (s : State) (u : Cv) (f : Convoy → Convoy) : (s.modCv u f).lanes = s.lanes := rfl
@[simp] theorem State.modCv_hbm (s : State) (u : Cv) (f : Convoy → Convoy) : (s.modCv u f).hbm = s.hbm := rfl
@[simp] theorem State.modCv_ml (s : State) (u : Cv) (f : Convoy → Convoy) : (s.modCv u f).ml = s.ml := rfl
@[simp] theorem State.modCv_mlBad (s : State) (u : Cv) (f : Convoy → Convoy) : (s.modCv u f).mlBad = s.mlBad := rfl
@[simp] theorem State.modCv_hbmBad (s : State) (u : Cv) (f : Convoy → Convoy) : (s.modCv u f).hbmBad = s.hbmBad := rfl
@[simp] theorem State.modCv_pm (s : State) (u : Cv) (f : Convoy → Convoy) : (s.modCv u f).pm = s.pm := rfl
@[simp] theorem State.modCv_ops (s : State) (u : Cv) (f : Convoy → Convoy) : (s.modCv u f).ops = s.ops := rfl
@[simp] theorem State.modCv_tails (s : State) (u : Cv) (f : Convoy → Convoy) : (s.modCv u f).tails = s.tails := rfl
@[simp] theorem State.modCv_nextOp (s : State) (u : Cv) (f : Convoy → Convoy) : (s.modCv u f).nextOp = s.nextOp := rfl
@[simp] theorem State.modCv_parts (s : State) (u : Cv) (f : Convoy → Convoy) : (s.modCv u f).parts = s.parts := rfl
@[simp] theorem State.modCv_ports (s : State) (u : Cv) (f : Convoy → Convoy) : (s.modCv u f).ports = s.ports := rfl
@[simp] theorem State.modCv_stewA (s : State) (u : Cv) (f : Convoy → Convoy) : (s.modCv u f).stewA = s.stewA := rfl
@[simp] theorem State.modCv_stewB (s : State) (u : Cv) (f : Convoy → Convoy) : (s.modCv u f).stewB = s.stewB := rfl
@[simp] theorem State.modCv_groups (s : State) (u : Cv) (f : Convoy → Convoy) : (s.modCv u f).groups = s.groups := rfl
@[simp] theorem State.modCv_holder (s : State) (u : Cv) (f : Convoy → Convoy) : (s.modCv u f).holder = s.holder := rfl
@[simp] theorem State.modCv_ucie (s : State) (u : Cv) (f : Convoy → Convoy) : (s.modCv u f).ucie = s.ucie := rfl
@[simp] theorem State.modCv_ringSeg (s : State) (u : Cv) (f : Convoy → Convoy) : (s.modCv u f).ringSeg = s.ringSeg := rfl
@[simp] theorem State.modCv_sites (s : State) (u : Cv) (f : Convoy → Convoy) : (s.modCv u f).sites = s.sites := rfl
@[simp] theorem State.modCv_evr (s : State) (u : Cv) (f : Convoy → Convoy) : (s.modCv u f).evr = s.evr := rfl
@[simp] theorem State.modCv_age (s : State) (u : Cv) (f : Convoy → Convoy) : (s.modCv u f).age = s.age := rfl
@[simp] theorem State.modCv_ageBefore (s : State) (u : Cv) (f : Convoy → Convoy) : (s.modCv u f).ageBefore = s.ageBefore := rfl
@[simp] theorem State.modCv_pyh (s : State) (u : Cv) (f : Convoy → Convoy) : (s.modCv u f).pyh = s.pyh := rfl
@[simp] theorem State.modCv_out (s : State) (u : Cv) (f : Convoy → Convoy) : (s.modCv u f).out = s.out := rfl
@[simp] theorem State.modCv_free (s : State) (u : Cv) (f : Convoy → Convoy) : (s.modCv u f).free = s.free := rfl
@[simp] theorem State.modCv_pending (s : State) (u : Cv) (f : Convoy → Convoy) : (s.modCv u f).pending = s.pending := rfl

/-! ### modDie -/

@[simp] theorem State.modDie_now (s : State) (k : Fin 8) (f : PortDie → PortDie) : (s.modDie k f).now = s.now := rfl
@[simp] theorem State.modDie_on (s : State) (k : Fin 8) (f : PortDie → PortDie) : (s.modDie k f).on = s.on := rfl
@[simp] theorem State.modDie_pw (s : State) (k : Fin 8) (f : PortDie → PortDie) : (s.modDie k f).pw = s.pw := rfl
@[simp] theorem State.modDie_th (s : State) (k : Fin 8) (f : PortDie → PortDie) : (s.modDie k f).th = s.th := rfl
@[simp] theorem State.modDie_tm (s : State) (k : Fin 8) (f : PortDie → PortDie) : (s.modDie k f).tm = s.tm := rfl
@[simp] theorem State.modDie_bt (s : State) (k : Fin 8) (f : PortDie → PortDie) : (s.modDie k f).bt = s.bt := rfl
@[simp] theorem State.modDie_stks (s : State) (k : Fin 8) (f : PortDie → PortDie) : (s.modDie k f).stks = s.stks := rfl
@[simp] theorem State.modDie_regions (s : State) (k : Fin 8) (f : PortDie → PortDie) : (s.modDie k f).regions = s.regions := rfl
@[simp] theorem State.modDie_clusters (s : State) (k : Fin 8) (f : PortDie → PortDie) : (s.modDie k f).clusters = s.clusters := rfl
@[simp] theorem State.modDie_cores (s : State) (k : Fin 8) (f : PortDie → PortDie) : (s.modDie k f).cores = s.cores := rfl
@[simp] theorem State.modDie_eps (s : State) (k : Fin 8) (f : PortDie → PortDie) : (s.modDie k f).eps = s.eps := rfl
@[simp] theorem State.modDie_links (s : State) (k : Fin 8) (f : PortDie → PortDie) : (s.modDie k f).links = s.links := rfl
@[simp] theorem State.modDie_lanes (s : State) (k : Fin 8) (f : PortDie → PortDie) : (s.modDie k f).lanes = s.lanes := rfl
@[simp] theorem State.modDie_hbm (s : State) (k : Fin 8) (f : PortDie → PortDie) : (s.modDie k f).hbm = s.hbm := rfl
@[simp] theorem State.modDie_ml (s : State) (k : Fin 8) (f : PortDie → PortDie) : (s.modDie k f).ml = s.ml := rfl
@[simp] theorem State.modDie_mlBad (s : State) (k : Fin 8) (f : PortDie → PortDie) : (s.modDie k f).mlBad = s.mlBad := rfl
@[simp] theorem State.modDie_hbmBad (s : State) (k : Fin 8) (f : PortDie → PortDie) : (s.modDie k f).hbmBad = s.hbmBad := rfl
@[simp] theorem State.modDie_pm (s : State) (k : Fin 8) (f : PortDie → PortDie) : (s.modDie k f).pm = s.pm := rfl
@[simp] theorem State.modDie_ops (s : State) (k : Fin 8) (f : PortDie → PortDie) : (s.modDie k f).ops = s.ops := rfl
@[simp] theorem State.modDie_tails (s : State) (k : Fin 8) (f : PortDie → PortDie) : (s.modDie k f).tails = s.tails := rfl
@[simp] theorem State.modDie_nextOp (s : State) (k : Fin 8) (f : PortDie → PortDie) : (s.modDie k f).nextOp = s.nextOp := rfl
@[simp] theorem State.modDie_parts (s : State) (k : Fin 8) (f : PortDie → PortDie) : (s.modDie k f).parts = s.parts := rfl
@[simp] theorem State.modDie_ports (s : State) (k : Fin 8) (f : PortDie → PortDie) : (s.modDie k f).ports = s.ports := rfl
@[simp] theorem State.modDie_stewA (s : State) (k : Fin 8) (f : PortDie → PortDie) : (s.modDie k f).stewA = s.stewA := rfl
@[simp] theorem State.modDie_stewB (s : State) (k : Fin 8) (f : PortDie → PortDie) : (s.modDie k f).stewB = s.stewB := rfl
@[simp] theorem State.modDie_groups (s : State) (k : Fin 8) (f : PortDie → PortDie) : (s.modDie k f).groups = s.groups := rfl
@[simp] theorem State.modDie_holder (s : State) (k : Fin 8) (f : PortDie → PortDie) : (s.modDie k f).holder = s.holder := rfl
@[simp] theorem State.modDie_ucie (s : State) (k : Fin 8) (f : PortDie → PortDie) : (s.modDie k f).ucie = s.ucie := rfl
@[simp] theorem State.modDie_ringSeg (s : State) (k : Fin 8) (f : PortDie → PortDie) : (s.modDie k f).ringSeg = s.ringSeg := rfl
@[simp] theorem State.modDie_sites (s : State) (k : Fin 8) (f : PortDie → PortDie) : (s.modDie k f).sites = s.sites := rfl
@[simp] theorem State.modDie_evr (s : State) (k : Fin 8) (f : PortDie → PortDie) : (s.modDie k f).evr = s.evr := rfl
@[simp] theorem State.modDie_age (s : State) (k : Fin 8) (f : PortDie → PortDie) : (s.modDie k f).age = s.age := rfl
@[simp] theorem State.modDie_ageBefore (s : State) (k : Fin 8) (f : PortDie → PortDie) : (s.modDie k f).ageBefore = s.ageBefore := rfl
@[simp] theorem State.modDie_pyh (s : State) (k : Fin 8) (f : PortDie → PortDie) : (s.modDie k f).pyh = s.pyh := rfl
@[simp] theorem State.modDie_out (s : State) (k : Fin 8) (f : PortDie → PortDie) : (s.modDie k f).out = s.out := rfl
@[simp] theorem State.modDie_free (s : State) (k : Fin 8) (f : PortDie → PortDie) : (s.modDie k f).free = s.free := rfl
@[simp] theorem State.modDie_pending (s : State) (k : Fin 8) (f : PortDie → PortDie) : (s.modDie k f).pending = s.pending := rfl

/-! ### modLink -/

@[simp] theorem State.modLink_now (s : State) (i j : EpId) (f : Link → Link) : (s.modLink i j f).now = s.now := rfl
@[simp] theorem State.modLink_on (s : State) (i j : EpId) (f : Link → Link) : (s.modLink i j f).on = s.on := rfl
@[simp] theorem State.modLink_pw (s : State) (i j : EpId) (f : Link → Link) : (s.modLink i j f).pw = s.pw := rfl
@[simp] theorem State.modLink_th (s : State) (i j : EpId) (f : Link → Link) : (s.modLink i j f).th = s.th := rfl
@[simp] theorem State.modLink_tm (s : State) (i j : EpId) (f : Link → Link) : (s.modLink i j f).tm = s.tm := rfl
@[simp] theorem State.modLink_bt (s : State) (i j : EpId) (f : Link → Link) : (s.modLink i j f).bt = s.bt := rfl
@[simp] theorem State.modLink_stks (s : State) (i j : EpId) (f : Link → Link) : (s.modLink i j f).stks = s.stks := rfl
@[simp] theorem State.modLink_regions (s : State) (i j : EpId) (f : Link → Link) : (s.modLink i j f).regions = s.regions := rfl
@[simp] theorem State.modLink_clusters (s : State) (i j : EpId) (f : Link → Link) : (s.modLink i j f).clusters = s.clusters := rfl
@[simp] theorem State.modLink_cores (s : State) (i j : EpId) (f : Link → Link) : (s.modLink i j f).cores = s.cores := rfl
@[simp] theorem State.modLink_eps (s : State) (i j : EpId) (f : Link → Link) : (s.modLink i j f).eps = s.eps := rfl
@[simp] theorem State.modLink_dies (s : State) (i j : EpId) (f : Link → Link) : (s.modLink i j f).dies = s.dies := rfl
@[simp] theorem State.modLink_lanes (s : State) (i j : EpId) (f : Link → Link) : (s.modLink i j f).lanes = s.lanes := rfl
@[simp] theorem State.modLink_hbm (s : State) (i j : EpId) (f : Link → Link) : (s.modLink i j f).hbm = s.hbm := rfl
@[simp] theorem State.modLink_ml (s : State) (i j : EpId) (f : Link → Link) : (s.modLink i j f).ml = s.ml := rfl
@[simp] theorem State.modLink_mlBad (s : State) (i j : EpId) (f : Link → Link) : (s.modLink i j f).mlBad = s.mlBad := rfl
@[simp] theorem State.modLink_hbmBad (s : State) (i j : EpId) (f : Link → Link) : (s.modLink i j f).hbmBad = s.hbmBad := rfl
@[simp] theorem State.modLink_pm (s : State) (i j : EpId) (f : Link → Link) : (s.modLink i j f).pm = s.pm := rfl
@[simp] theorem State.modLink_ops (s : State) (i j : EpId) (f : Link → Link) : (s.modLink i j f).ops = s.ops := rfl
@[simp] theorem State.modLink_tails (s : State) (i j : EpId) (f : Link → Link) : (s.modLink i j f).tails = s.tails := rfl
@[simp] theorem State.modLink_nextOp (s : State) (i j : EpId) (f : Link → Link) : (s.modLink i j f).nextOp = s.nextOp := rfl
@[simp] theorem State.modLink_parts (s : State) (i j : EpId) (f : Link → Link) : (s.modLink i j f).parts = s.parts := rfl
@[simp] theorem State.modLink_ports (s : State) (i j : EpId) (f : Link → Link) : (s.modLink i j f).ports = s.ports := rfl
@[simp] theorem State.modLink_stewA (s : State) (i j : EpId) (f : Link → Link) : (s.modLink i j f).stewA = s.stewA := rfl
@[simp] theorem State.modLink_stewB (s : State) (i j : EpId) (f : Link → Link) : (s.modLink i j f).stewB = s.stewB := rfl
@[simp] theorem State.modLink_groups (s : State) (i j : EpId) (f : Link → Link) : (s.modLink i j f).groups = s.groups := rfl
@[simp] theorem State.modLink_holder (s : State) (i j : EpId) (f : Link → Link) : (s.modLink i j f).holder = s.holder := rfl
@[simp] theorem State.modLink_ucie (s : State) (i j : EpId) (f : Link → Link) : (s.modLink i j f).ucie = s.ucie := rfl
@[simp] theorem State.modLink_ringSeg (s : State) (i j : EpId) (f : Link → Link) : (s.modLink i j f).ringSeg = s.ringSeg := rfl
@[simp] theorem State.modLink_sites (s : State) (i j : EpId) (f : Link → Link) : (s.modLink i j f).sites = s.sites := rfl
@[simp] theorem State.modLink_evr (s : State) (i j : EpId) (f : Link → Link) : (s.modLink i j f).evr = s.evr := rfl
@[simp] theorem State.modLink_age (s : State) (i j : EpId) (f : Link → Link) : (s.modLink i j f).age = s.age := rfl
@[simp] theorem State.modLink_ageBefore (s : State) (i j : EpId) (f : Link → Link) : (s.modLink i j f).ageBefore = s.ageBefore := rfl
@[simp] theorem State.modLink_pyh (s : State) (i j : EpId) (f : Link → Link) : (s.modLink i j f).pyh = s.pyh := rfl
@[simp] theorem State.modLink_out (s : State) (i j : EpId) (f : Link → Link) : (s.modLink i j f).out = s.out := rfl
@[simp] theorem State.modLink_free (s : State) (i j : EpId) (f : Link → Link) : (s.modLink i j f).free = s.free := rfl
@[simp] theorem State.modLink_pending (s : State) (i j : EpId) (f : Link → Link) : (s.modLink i j f).pending = s.pending := rfl

/-! ### modLane -/

@[simp] theorem State.modLane_now (s : State) (l : LaneId) (f : Lane → Lane) : (s.modLane l f).now = s.now := rfl
@[simp] theorem State.modLane_on (s : State) (l : LaneId) (f : Lane → Lane) : (s.modLane l f).on = s.on := rfl
@[simp] theorem State.modLane_pw (s : State) (l : LaneId) (f : Lane → Lane) : (s.modLane l f).pw = s.pw := rfl
@[simp] theorem State.modLane_th (s : State) (l : LaneId) (f : Lane → Lane) : (s.modLane l f).th = s.th := rfl
@[simp] theorem State.modLane_tm (s : State) (l : LaneId) (f : Lane → Lane) : (s.modLane l f).tm = s.tm := rfl
@[simp] theorem State.modLane_bt (s : State) (l : LaneId) (f : Lane → Lane) : (s.modLane l f).bt = s.bt := rfl
@[simp] theorem State.modLane_stks (s : State) (l : LaneId) (f : Lane → Lane) : (s.modLane l f).stks = s.stks := rfl
@[simp] theorem State.modLane_regions (s : State) (l : LaneId) (f : Lane → Lane) : (s.modLane l f).regions = s.regions := rfl
@[simp] theorem State.modLane_clusters (s : State) (l : LaneId) (f : Lane → Lane) : (s.modLane l f).clusters = s.clusters := rfl
@[simp] theorem State.modLane_cores (s : State) (l : LaneId) (f : Lane → Lane) : (s.modLane l f).cores = s.cores := rfl
@[simp] theorem State.modLane_eps (s : State) (l : LaneId) (f : Lane → Lane) : (s.modLane l f).eps = s.eps := rfl
@[simp] theorem State.modLane_dies (s : State) (l : LaneId) (f : Lane → Lane) : (s.modLane l f).dies = s.dies := rfl
@[simp] theorem State.modLane_links (s : State) (l : LaneId) (f : Lane → Lane) : (s.modLane l f).links = s.links := rfl
@[simp] theorem State.modLane_hbm (s : State) (l : LaneId) (f : Lane → Lane) : (s.modLane l f).hbm = s.hbm := rfl
@[simp] theorem State.modLane_ml (s : State) (l : LaneId) (f : Lane → Lane) : (s.modLane l f).ml = s.ml := rfl
@[simp] theorem State.modLane_mlBad (s : State) (l : LaneId) (f : Lane → Lane) : (s.modLane l f).mlBad = s.mlBad := rfl
@[simp] theorem State.modLane_hbmBad (s : State) (l : LaneId) (f : Lane → Lane) : (s.modLane l f).hbmBad = s.hbmBad := rfl
@[simp] theorem State.modLane_pm (s : State) (l : LaneId) (f : Lane → Lane) : (s.modLane l f).pm = s.pm := rfl
@[simp] theorem State.modLane_ops (s : State) (l : LaneId) (f : Lane → Lane) : (s.modLane l f).ops = s.ops := rfl
@[simp] theorem State.modLane_tails (s : State) (l : LaneId) (f : Lane → Lane) : (s.modLane l f).tails = s.tails := rfl
@[simp] theorem State.modLane_nextOp (s : State) (l : LaneId) (f : Lane → Lane) : (s.modLane l f).nextOp = s.nextOp := rfl
@[simp] theorem State.modLane_parts (s : State) (l : LaneId) (f : Lane → Lane) : (s.modLane l f).parts = s.parts := rfl
@[simp] theorem State.modLane_ports (s : State) (l : LaneId) (f : Lane → Lane) : (s.modLane l f).ports = s.ports := rfl
@[simp] theorem State.modLane_stewA (s : State) (l : LaneId) (f : Lane → Lane) : (s.modLane l f).stewA = s.stewA := rfl
@[simp] theorem State.modLane_stewB (s : State) (l : LaneId) (f : Lane → Lane) : (s.modLane l f).stewB = s.stewB := rfl
@[simp] theorem State.modLane_groups (s : State) (l : LaneId) (f : Lane → Lane) : (s.modLane l f).groups = s.groups := rfl
@[simp] theorem State.modLane_holder (s : State) (l : LaneId) (f : Lane → Lane) : (s.modLane l f).holder = s.holder := rfl
@[simp] theorem State.modLane_ucie (s : State) (l : LaneId) (f : Lane → Lane) : (s.modLane l f).ucie = s.ucie := rfl
@[simp] theorem State.modLane_ringSeg (s : State) (l : LaneId) (f : Lane → Lane) : (s.modLane l f).ringSeg = s.ringSeg := rfl
@[simp] theorem State.modLane_sites (s : State) (l : LaneId) (f : Lane → Lane) : (s.modLane l f).sites = s.sites := rfl
@[simp] theorem State.modLane_evr (s : State) (l : LaneId) (f : Lane → Lane) : (s.modLane l f).evr = s.evr := rfl
@[simp] theorem State.modLane_age (s : State) (l : LaneId) (f : Lane → Lane) : (s.modLane l f).age = s.age := rfl
@[simp] theorem State.modLane_ageBefore (s : State) (l : LaneId) (f : Lane → Lane) : (s.modLane l f).ageBefore = s.ageBefore := rfl
@[simp] theorem State.modLane_pyh (s : State) (l : LaneId) (f : Lane → Lane) : (s.modLane l f).pyh = s.pyh := rfl
@[simp] theorem State.modLane_out (s : State) (l : LaneId) (f : Lane → Lane) : (s.modLane l f).out = s.out := rfl
@[simp] theorem State.modLane_free (s : State) (l : LaneId) (f : Lane → Lane) : (s.modLane l f).free = s.free := rfl
@[simp] theorem State.modLane_pending (s : State) (l : LaneId) (f : Lane → Lane) : (s.modLane l f).pending = s.pending := rfl

/-! ### modPart -/

@[simp] theorem State.modPart_now (s : State) (p : PartId) (f : Part → Part) : (s.modPart p f).now = s.now := rfl
@[simp] theorem State.modPart_on (s : State) (p : PartId) (f : Part → Part) : (s.modPart p f).on = s.on := rfl
@[simp] theorem State.modPart_pw (s : State) (p : PartId) (f : Part → Part) : (s.modPart p f).pw = s.pw := rfl
@[simp] theorem State.modPart_th (s : State) (p : PartId) (f : Part → Part) : (s.modPart p f).th = s.th := rfl
@[simp] theorem State.modPart_tm (s : State) (p : PartId) (f : Part → Part) : (s.modPart p f).tm = s.tm := rfl
@[simp] theorem State.modPart_bt (s : State) (p : PartId) (f : Part → Part) : (s.modPart p f).bt = s.bt := rfl
@[simp] theorem State.modPart_stks (s : State) (p : PartId) (f : Part → Part) : (s.modPart p f).stks = s.stks := rfl
@[simp] theorem State.modPart_regions (s : State) (p : PartId) (f : Part → Part) : (s.modPart p f).regions = s.regions := rfl
@[simp] theorem State.modPart_clusters (s : State) (p : PartId) (f : Part → Part) : (s.modPart p f).clusters = s.clusters := rfl
@[simp] theorem State.modPart_cores (s : State) (p : PartId) (f : Part → Part) : (s.modPart p f).cores = s.cores := rfl
@[simp] theorem State.modPart_eps (s : State) (p : PartId) (f : Part → Part) : (s.modPart p f).eps = s.eps := rfl
@[simp] theorem State.modPart_dies (s : State) (p : PartId) (f : Part → Part) : (s.modPart p f).dies = s.dies := rfl
@[simp] theorem State.modPart_links (s : State) (p : PartId) (f : Part → Part) : (s.modPart p f).links = s.links := rfl
@[simp] theorem State.modPart_lanes (s : State) (p : PartId) (f : Part → Part) : (s.modPart p f).lanes = s.lanes := rfl
@[simp] theorem State.modPart_hbm (s : State) (p : PartId) (f : Part → Part) : (s.modPart p f).hbm = s.hbm := rfl
@[simp] theorem State.modPart_ml (s : State) (p : PartId) (f : Part → Part) : (s.modPart p f).ml = s.ml := rfl
@[simp] theorem State.modPart_mlBad (s : State) (p : PartId) (f : Part → Part) : (s.modPart p f).mlBad = s.mlBad := rfl
@[simp] theorem State.modPart_hbmBad (s : State) (p : PartId) (f : Part → Part) : (s.modPart p f).hbmBad = s.hbmBad := rfl
@[simp] theorem State.modPart_pm (s : State) (p : PartId) (f : Part → Part) : (s.modPart p f).pm = s.pm := rfl
@[simp] theorem State.modPart_ops (s : State) (p : PartId) (f : Part → Part) : (s.modPart p f).ops = s.ops := rfl
@[simp] theorem State.modPart_tails (s : State) (p : PartId) (f : Part → Part) : (s.modPart p f).tails = s.tails := rfl
@[simp] theorem State.modPart_nextOp (s : State) (p : PartId) (f : Part → Part) : (s.modPart p f).nextOp = s.nextOp := rfl
@[simp] theorem State.modPart_ports (s : State) (p : PartId) (f : Part → Part) : (s.modPart p f).ports = s.ports := rfl
@[simp] theorem State.modPart_stewA (s : State) (p : PartId) (f : Part → Part) : (s.modPart p f).stewA = s.stewA := rfl
@[simp] theorem State.modPart_stewB (s : State) (p : PartId) (f : Part → Part) : (s.modPart p f).stewB = s.stewB := rfl
@[simp] theorem State.modPart_groups (s : State) (p : PartId) (f : Part → Part) : (s.modPart p f).groups = s.groups := rfl
@[simp] theorem State.modPart_holder (s : State) (p : PartId) (f : Part → Part) : (s.modPart p f).holder = s.holder := rfl
@[simp] theorem State.modPart_ucie (s : State) (p : PartId) (f : Part → Part) : (s.modPart p f).ucie = s.ucie := rfl
@[simp] theorem State.modPart_ringSeg (s : State) (p : PartId) (f : Part → Part) : (s.modPart p f).ringSeg = s.ringSeg := rfl
@[simp] theorem State.modPart_sites (s : State) (p : PartId) (f : Part → Part) : (s.modPart p f).sites = s.sites := rfl
@[simp] theorem State.modPart_evr (s : State) (p : PartId) (f : Part → Part) : (s.modPart p f).evr = s.evr := rfl
@[simp] theorem State.modPart_age (s : State) (p : PartId) (f : Part → Part) : (s.modPart p f).age = s.age := rfl
@[simp] theorem State.modPart_ageBefore (s : State) (p : PartId) (f : Part → Part) : (s.modPart p f).ageBefore = s.ageBefore := rfl
@[simp] theorem State.modPart_pyh (s : State) (p : PartId) (f : Part → Part) : (s.modPart p f).pyh = s.pyh := rfl
@[simp] theorem State.modPart_out (s : State) (p : PartId) (f : Part → Part) : (s.modPart p f).out = s.out := rfl
@[simp] theorem State.modPart_free (s : State) (p : PartId) (f : Part → Part) : (s.modPart p f).free = s.free := rfl
@[simp] theorem State.modPart_pending (s : State) (p : PartId) (f : Part → Part) : (s.modPart p f).pending = s.pending := rfl

/-! ### modPort -/

@[simp] theorem State.modPort_now (s : State) (t : PortId) (f : Port → Port) : (s.modPort t f).now = s.now := rfl
@[simp] theorem State.modPort_on (s : State) (t : PortId) (f : Port → Port) : (s.modPort t f).on = s.on := rfl
@[simp] theorem State.modPort_pw (s : State) (t : PortId) (f : Port → Port) : (s.modPort t f).pw = s.pw := rfl
@[simp] theorem State.modPort_th (s : State) (t : PortId) (f : Port → Port) : (s.modPort t f).th = s.th := rfl
@[simp] theorem State.modPort_tm (s : State) (t : PortId) (f : Port → Port) : (s.modPort t f).tm = s.tm := rfl
@[simp] theorem State.modPort_bt (s : State) (t : PortId) (f : Port → Port) : (s.modPort t f).bt = s.bt := rfl
@[simp] theorem State.modPort_stks (s : State) (t : PortId) (f : Port → Port) : (s.modPort t f).stks = s.stks := rfl
@[simp] theorem State.modPort_regions (s : State) (t : PortId) (f : Port → Port) : (s.modPort t f).regions = s.regions := rfl
@[simp] theorem State.modPort_clusters (s : State) (t : PortId) (f : Port → Port) : (s.modPort t f).clusters = s.clusters := rfl
@[simp] theorem State.modPort_cores (s : State) (t : PortId) (f : Port → Port) : (s.modPort t f).cores = s.cores := rfl
@[simp] theorem State.modPort_eps (s : State) (t : PortId) (f : Port → Port) : (s.modPort t f).eps = s.eps := rfl
@[simp] theorem State.modPort_dies (s : State) (t : PortId) (f : Port → Port) : (s.modPort t f).dies = s.dies := rfl
@[simp] theorem State.modPort_links (s : State) (t : PortId) (f : Port → Port) : (s.modPort t f).links = s.links := rfl
@[simp] theorem State.modPort_lanes (s : State) (t : PortId) (f : Port → Port) : (s.modPort t f).lanes = s.lanes := rfl
@[simp] theorem State.modPort_hbm (s : State) (t : PortId) (f : Port → Port) : (s.modPort t f).hbm = s.hbm := rfl
@[simp] theorem State.modPort_ml (s : State) (t : PortId) (f : Port → Port) : (s.modPort t f).ml = s.ml := rfl
@[simp] theorem State.modPort_mlBad (s : State) (t : PortId) (f : Port → Port) : (s.modPort t f).mlBad = s.mlBad := rfl
@[simp] theorem State.modPort_hbmBad (s : State) (t : PortId) (f : Port → Port) : (s.modPort t f).hbmBad = s.hbmBad := rfl
@[simp] theorem State.modPort_pm (s : State) (t : PortId) (f : Port → Port) : (s.modPort t f).pm = s.pm := rfl
@[simp] theorem State.modPort_ops (s : State) (t : PortId) (f : Port → Port) : (s.modPort t f).ops = s.ops := rfl
@[simp] theorem State.modPort_tails (s : State) (t : PortId) (f : Port → Port) : (s.modPort t f).tails = s.tails := rfl
@[simp] theorem State.modPort_nextOp (s : State) (t : PortId) (f : Port → Port) : (s.modPort t f).nextOp = s.nextOp := rfl
@[simp] theorem State.modPort_parts (s : State) (t : PortId) (f : Port → Port) : (s.modPort t f).parts = s.parts := rfl
@[simp] theorem State.modPort_stewA (s : State) (t : PortId) (f : Port → Port) : (s.modPort t f).stewA = s.stewA := rfl
@[simp] theorem State.modPort_stewB (s : State) (t : PortId) (f : Port → Port) : (s.modPort t f).stewB = s.stewB := rfl
@[simp] theorem State.modPort_groups (s : State) (t : PortId) (f : Port → Port) : (s.modPort t f).groups = s.groups := rfl
@[simp] theorem State.modPort_holder (s : State) (t : PortId) (f : Port → Port) : (s.modPort t f).holder = s.holder := rfl
@[simp] theorem State.modPort_ucie (s : State) (t : PortId) (f : Port → Port) : (s.modPort t f).ucie = s.ucie := rfl
@[simp] theorem State.modPort_ringSeg (s : State) (t : PortId) (f : Port → Port) : (s.modPort t f).ringSeg = s.ringSeg := rfl
@[simp] theorem State.modPort_sites (s : State) (t : PortId) (f : Port → Port) : (s.modPort t f).sites = s.sites := rfl
@[simp] theorem State.modPort_evr (s : State) (t : PortId) (f : Port → Port) : (s.modPort t f).evr = s.evr := rfl
@[simp] theorem State.modPort_age (s : State) (t : PortId) (f : Port → Port) : (s.modPort t f).age = s.age := rfl
@[simp] theorem State.modPort_ageBefore (s : State) (t : PortId) (f : Port → Port) : (s.modPort t f).ageBefore = s.ageBefore := rfl
@[simp] theorem State.modPort_pyh (s : State) (t : PortId) (f : Port → Port) : (s.modPort t f).pyh = s.pyh := rfl
@[simp] theorem State.modPort_out (s : State) (t : PortId) (f : Port → Port) : (s.modPort t f).out = s.out := rfl
@[simp] theorem State.modPort_free (s : State) (t : PortId) (f : Port → Port) : (s.modPort t f).free = s.free := rfl
@[simp] theorem State.modPort_pending (s : State) (t : PortId) (f : Port → Port) : (s.modPort t f).pending = s.pending := rfl

/-! ### modSite -/

@[simp] theorem State.modSite_now (s : State) (t : TileId) (f : OpenSite → OpenSite) : (s.modSite t f).now = s.now := rfl
@[simp] theorem State.modSite_on (s : State) (t : TileId) (f : OpenSite → OpenSite) : (s.modSite t f).on = s.on := rfl
@[simp] theorem State.modSite_pw (s : State) (t : TileId) (f : OpenSite → OpenSite) : (s.modSite t f).pw = s.pw := rfl
@[simp] theorem State.modSite_th (s : State) (t : TileId) (f : OpenSite → OpenSite) : (s.modSite t f).th = s.th := rfl
@[simp] theorem State.modSite_tm (s : State) (t : TileId) (f : OpenSite → OpenSite) : (s.modSite t f).tm = s.tm := rfl
@[simp] theorem State.modSite_bt (s : State) (t : TileId) (f : OpenSite → OpenSite) : (s.modSite t f).bt = s.bt := rfl
@[simp] theorem State.modSite_stks (s : State) (t : TileId) (f : OpenSite → OpenSite) : (s.modSite t f).stks = s.stks := rfl
@[simp] theorem State.modSite_regions (s : State) (t : TileId) (f : OpenSite → OpenSite) : (s.modSite t f).regions = s.regions := rfl
@[simp] theorem State.modSite_clusters (s : State) (t : TileId) (f : OpenSite → OpenSite) : (s.modSite t f).clusters = s.clusters := rfl
@[simp] theorem State.modSite_cores (s : State) (t : TileId) (f : OpenSite → OpenSite) : (s.modSite t f).cores = s.cores := rfl
@[simp] theorem State.modSite_eps (s : State) (t : TileId) (f : OpenSite → OpenSite) : (s.modSite t f).eps = s.eps := rfl
@[simp] theorem State.modSite_dies (s : State) (t : TileId) (f : OpenSite → OpenSite) : (s.modSite t f).dies = s.dies := rfl
@[simp] theorem State.modSite_links (s : State) (t : TileId) (f : OpenSite → OpenSite) : (s.modSite t f).links = s.links := rfl
@[simp] theorem State.modSite_lanes (s : State) (t : TileId) (f : OpenSite → OpenSite) : (s.modSite t f).lanes = s.lanes := rfl
@[simp] theorem State.modSite_hbm (s : State) (t : TileId) (f : OpenSite → OpenSite) : (s.modSite t f).hbm = s.hbm := rfl
@[simp] theorem State.modSite_ml (s : State) (t : TileId) (f : OpenSite → OpenSite) : (s.modSite t f).ml = s.ml := rfl
@[simp] theorem State.modSite_mlBad (s : State) (t : TileId) (f : OpenSite → OpenSite) : (s.modSite t f).mlBad = s.mlBad := rfl
@[simp] theorem State.modSite_hbmBad (s : State) (t : TileId) (f : OpenSite → OpenSite) : (s.modSite t f).hbmBad = s.hbmBad := rfl
@[simp] theorem State.modSite_pm (s : State) (t : TileId) (f : OpenSite → OpenSite) : (s.modSite t f).pm = s.pm := rfl
@[simp] theorem State.modSite_ops (s : State) (t : TileId) (f : OpenSite → OpenSite) : (s.modSite t f).ops = s.ops := rfl
@[simp] theorem State.modSite_tails (s : State) (t : TileId) (f : OpenSite → OpenSite) : (s.modSite t f).tails = s.tails := rfl
@[simp] theorem State.modSite_nextOp (s : State) (t : TileId) (f : OpenSite → OpenSite) : (s.modSite t f).nextOp = s.nextOp := rfl
@[simp] theorem State.modSite_parts (s : State) (t : TileId) (f : OpenSite → OpenSite) : (s.modSite t f).parts = s.parts := rfl
@[simp] theorem State.modSite_ports (s : State) (t : TileId) (f : OpenSite → OpenSite) : (s.modSite t f).ports = s.ports := rfl
@[simp] theorem State.modSite_stewA (s : State) (t : TileId) (f : OpenSite → OpenSite) : (s.modSite t f).stewA = s.stewA := rfl
@[simp] theorem State.modSite_stewB (s : State) (t : TileId) (f : OpenSite → OpenSite) : (s.modSite t f).stewB = s.stewB := rfl
@[simp] theorem State.modSite_groups (s : State) (t : TileId) (f : OpenSite → OpenSite) : (s.modSite t f).groups = s.groups := rfl
@[simp] theorem State.modSite_holder (s : State) (t : TileId) (f : OpenSite → OpenSite) : (s.modSite t f).holder = s.holder := rfl
@[simp] theorem State.modSite_ucie (s : State) (t : TileId) (f : OpenSite → OpenSite) : (s.modSite t f).ucie = s.ucie := rfl
@[simp] theorem State.modSite_ringSeg (s : State) (t : TileId) (f : OpenSite → OpenSite) : (s.modSite t f).ringSeg = s.ringSeg := rfl
@[simp] theorem State.modSite_evr (s : State) (t : TileId) (f : OpenSite → OpenSite) : (s.modSite t f).evr = s.evr := rfl
@[simp] theorem State.modSite_age (s : State) (t : TileId) (f : OpenSite → OpenSite) : (s.modSite t f).age = s.age := rfl
@[simp] theorem State.modSite_ageBefore (s : State) (t : TileId) (f : OpenSite → OpenSite) : (s.modSite t f).ageBefore = s.ageBefore := rfl
@[simp] theorem State.modSite_pyh (s : State) (t : TileId) (f : OpenSite → OpenSite) : (s.modSite t f).pyh = s.pyh := rfl
@[simp] theorem State.modSite_out (s : State) (t : TileId) (f : OpenSite → OpenSite) : (s.modSite t f).out = s.out := rfl
@[simp] theorem State.modSite_free (s : State) (t : TileId) (f : OpenSite → OpenSite) : (s.modSite t f).free = s.free := rfl
@[simp] theorem State.modSite_pending (s : State) (t : TileId) (f : OpenSite → OpenSite) : (s.modSite t f).pending = s.pending := rfl

/-! ### modUcie -/

@[simp] theorem State.modUcie_now (s : State) (u : Nat) (f : Ucie → Ucie) : (s.modUcie u f).now = s.now := rfl
@[simp] theorem State.modUcie_on (s : State) (u : Nat) (f : Ucie → Ucie) : (s.modUcie u f).on = s.on := rfl
@[simp] theorem State.modUcie_pw (s : State) (u : Nat) (f : Ucie → Ucie) : (s.modUcie u f).pw = s.pw := rfl
@[simp] theorem State.modUcie_th (s : State) (u : Nat) (f : Ucie → Ucie) : (s.modUcie u f).th = s.th := rfl
@[simp] theorem State.modUcie_tm (s : State) (u : Nat) (f : Ucie → Ucie) : (s.modUcie u f).tm = s.tm := rfl
@[simp] theorem State.modUcie_bt (s : State) (u : Nat) (f : Ucie → Ucie) : (s.modUcie u f).bt = s.bt := rfl
@[simp] theorem State.modUcie_stks (s : State) (u : Nat) (f : Ucie → Ucie) : (s.modUcie u f).stks = s.stks := rfl
@[simp] theorem State.modUcie_regions (s : State) (u : Nat) (f : Ucie → Ucie) : (s.modUcie u f).regions = s.regions := rfl
@[simp] theorem State.modUcie_clusters (s : State) (u : Nat) (f : Ucie → Ucie) : (s.modUcie u f).clusters = s.clusters := rfl
@[simp] theorem State.modUcie_cores (s : State) (u : Nat) (f : Ucie → Ucie) : (s.modUcie u f).cores = s.cores := rfl
@[simp] theorem State.modUcie_eps (s : State) (u : Nat) (f : Ucie → Ucie) : (s.modUcie u f).eps = s.eps := rfl
@[simp] theorem State.modUcie_dies (s : State) (u : Nat) (f : Ucie → Ucie) : (s.modUcie u f).dies = s.dies := rfl
@[simp] theorem State.modUcie_links (s : State) (u : Nat) (f : Ucie → Ucie) : (s.modUcie u f).links = s.links := rfl
@[simp] theorem State.modUcie_lanes (s : State) (u : Nat) (f : Ucie → Ucie) : (s.modUcie u f).lanes = s.lanes := rfl
@[simp] theorem State.modUcie_hbm (s : State) (u : Nat) (f : Ucie → Ucie) : (s.modUcie u f).hbm = s.hbm := rfl
@[simp] theorem State.modUcie_ml (s : State) (u : Nat) (f : Ucie → Ucie) : (s.modUcie u f).ml = s.ml := rfl
@[simp] theorem State.modUcie_mlBad (s : State) (u : Nat) (f : Ucie → Ucie) : (s.modUcie u f).mlBad = s.mlBad := rfl
@[simp] theorem State.modUcie_hbmBad (s : State) (u : Nat) (f : Ucie → Ucie) : (s.modUcie u f).hbmBad = s.hbmBad := rfl
@[simp] theorem State.modUcie_pm (s : State) (u : Nat) (f : Ucie → Ucie) : (s.modUcie u f).pm = s.pm := rfl
@[simp] theorem State.modUcie_ops (s : State) (u : Nat) (f : Ucie → Ucie) : (s.modUcie u f).ops = s.ops := rfl
@[simp] theorem State.modUcie_tails (s : State) (u : Nat) (f : Ucie → Ucie) : (s.modUcie u f).tails = s.tails := rfl
@[simp] theorem State.modUcie_nextOp (s : State) (u : Nat) (f : Ucie → Ucie) : (s.modUcie u f).nextOp = s.nextOp := rfl
@[simp] theorem State.modUcie_parts (s : State) (u : Nat) (f : Ucie → Ucie) : (s.modUcie u f).parts = s.parts := rfl
@[simp] theorem State.modUcie_ports (s : State) (u : Nat) (f : Ucie → Ucie) : (s.modUcie u f).ports = s.ports := rfl
@[simp] theorem State.modUcie_stewA (s : State) (u : Nat) (f : Ucie → Ucie) : (s.modUcie u f).stewA = s.stewA := rfl
@[simp] theorem State.modUcie_stewB (s : State) (u : Nat) (f : Ucie → Ucie) : (s.modUcie u f).stewB = s.stewB := rfl
@[simp] theorem State.modUcie_groups (s : State) (u : Nat) (f : Ucie → Ucie) : (s.modUcie u f).groups = s.groups := rfl
@[simp] theorem State.modUcie_holder (s : State) (u : Nat) (f : Ucie → Ucie) : (s.modUcie u f).holder = s.holder := rfl
@[simp] theorem State.modUcie_ringSeg (s : State) (u : Nat) (f : Ucie → Ucie) : (s.modUcie u f).ringSeg = s.ringSeg := rfl
@[simp] theorem State.modUcie_sites (s : State) (u : Nat) (f : Ucie → Ucie) : (s.modUcie u f).sites = s.sites := rfl
@[simp] theorem State.modUcie_evr (s : State) (u : Nat) (f : Ucie → Ucie) : (s.modUcie u f).evr = s.evr := rfl
@[simp] theorem State.modUcie_age (s : State) (u : Nat) (f : Ucie → Ucie) : (s.modUcie u f).age = s.age := rfl
@[simp] theorem State.modUcie_ageBefore (s : State) (u : Nat) (f : Ucie → Ucie) : (s.modUcie u f).ageBefore = s.ageBefore := rfl
@[simp] theorem State.modUcie_pyh (s : State) (u : Nat) (f : Ucie → Ucie) : (s.modUcie u f).pyh = s.pyh := rfl
@[simp] theorem State.modUcie_out (s : State) (u : Nat) (f : Ucie → Ucie) : (s.modUcie u f).out = s.out := rfl
@[simp] theorem State.modUcie_free (s : State) (u : Nat) (f : Ucie → Ucie) : (s.modUcie u f).free = s.free := rfl
@[simp] theorem State.modUcie_pending (s : State) (u : Nat) (f : Ucie → Ucie) : (s.modUcie u f).pending = s.pending := rfl

/-! ### emit -/

@[simp] theorem State.emit_now (s : State) (o : Output) : (s.emit o).now = s.now := rfl
@[simp] theorem State.emit_on (s : State) (o : Output) : (s.emit o).on = s.on := rfl
@[simp] theorem State.emit_pw (s : State) (o : Output) : (s.emit o).pw = s.pw := rfl
@[simp] theorem State.emit_th (s : State) (o : Output) : (s.emit o).th = s.th := rfl
@[simp] theorem State.emit_tm (s : State) (o : Output) : (s.emit o).tm = s.tm := rfl
@[simp] theorem State.emit_bt (s : State) (o : Output) : (s.emit o).bt = s.bt := rfl
@[simp] theorem State.emit_stks (s : State) (o : Output) : (s.emit o).stks = s.stks := rfl
@[simp] theorem State.emit_regions (s : State) (o : Output) : (s.emit o).regions = s.regions := rfl
@[simp] theorem State.emit_clusters (s : State) (o : Output) : (s.emit o).clusters = s.clusters := rfl
@[simp] theorem State.emit_cores (s : State) (o : Output) : (s.emit o).cores = s.cores := rfl
@[simp] theorem State.emit_eps (s : State) (o : Output) : (s.emit o).eps = s.eps := rfl
@[simp] theorem State.emit_dies (s : State) (o : Output) : (s.emit o).dies = s.dies := rfl
@[simp] theorem State.emit_links (s : State) (o : Output) : (s.emit o).links = s.links := rfl
@[simp] theorem State.emit_lanes (s : State) (o : Output) : (s.emit o).lanes = s.lanes := rfl
@[simp] theorem State.emit_hbm (s : State) (o : Output) : (s.emit o).hbm = s.hbm := rfl
@[simp] theorem State.emit_ml (s : State) (o : Output) : (s.emit o).ml = s.ml := rfl
@[simp] theorem State.emit_mlBad (s : State) (o : Output) : (s.emit o).mlBad = s.mlBad := rfl
@[simp] theorem State.emit_hbmBad (s : State) (o : Output) : (s.emit o).hbmBad = s.hbmBad := rfl
@[simp] theorem State.emit_pm (s : State) (o : Output) : (s.emit o).pm = s.pm := rfl
@[simp] theorem State.emit_ops (s : State) (o : Output) : (s.emit o).ops = s.ops := rfl
@[simp] theorem State.emit_tails (s : State) (o : Output) : (s.emit o).tails = s.tails := rfl
@[simp] theorem State.emit_nextOp (s : State) (o : Output) : (s.emit o).nextOp = s.nextOp := rfl
@[simp] theorem State.emit_parts (s : State) (o : Output) : (s.emit o).parts = s.parts := rfl
@[simp] theorem State.emit_ports (s : State) (o : Output) : (s.emit o).ports = s.ports := rfl
@[simp] theorem State.emit_stewA (s : State) (o : Output) : (s.emit o).stewA = s.stewA := rfl
@[simp] theorem State.emit_stewB (s : State) (o : Output) : (s.emit o).stewB = s.stewB := rfl
@[simp] theorem State.emit_groups (s : State) (o : Output) : (s.emit o).groups = s.groups := rfl
@[simp] theorem State.emit_holder (s : State) (o : Output) : (s.emit o).holder = s.holder := rfl
@[simp] theorem State.emit_ucie (s : State) (o : Output) : (s.emit o).ucie = s.ucie := rfl
@[simp] theorem State.emit_ringSeg (s : State) (o : Output) : (s.emit o).ringSeg = s.ringSeg := rfl
@[simp] theorem State.emit_sites (s : State) (o : Output) : (s.emit o).sites = s.sites := rfl
@[simp] theorem State.emit_evr (s : State) (o : Output) : (s.emit o).evr = s.evr := rfl
@[simp] theorem State.emit_age (s : State) (o : Output) : (s.emit o).age = s.age := rfl
@[simp] theorem State.emit_ageBefore (s : State) (o : Output) : (s.emit o).ageBefore = s.ageBefore := rfl
@[simp] theorem State.emit_pyh (s : State) (o : Output) : (s.emit o).pyh = s.pyh := rfl
@[simp] theorem State.emit_free (s : State) (o : Output) : (s.emit o).free = s.free := rfl
@[simp] theorem State.emit_pending (s : State) (o : Output) : (s.emit o).pending = s.pending := rfl

/-! ### tookFree -/

@[simp] theorem State.tookFree_now (s : State)  : (s.tookFree ).now = s.now := rfl
@[simp] theorem State.tookFree_on (s : State)  : (s.tookFree ).on = s.on := rfl
@[simp] theorem State.tookFree_pw (s : State)  : (s.tookFree ).pw = s.pw := rfl
@[simp] theorem State.tookFree_th (s : State)  : (s.tookFree ).th = s.th := rfl
@[simp] theorem State.tookFree_tm (s : State)  : (s.tookFree ).tm = s.tm := rfl
@[simp] theorem State.tookFree_bt (s : State)  : (s.tookFree ).bt = s.bt := rfl
@[simp] theorem State.tookFree_stks (s : State)  : (s.tookFree ).stks = s.stks := rfl
@[simp] theorem State.tookFree_regions (s : State)  : (s.tookFree ).regions = s.regions := rfl
@[simp] theorem State.tookFree_clusters (s : State)  : (s.tookFree ).clusters = s.clusters := rfl
@[simp] theorem State.tookFree_cores (s : State)  : (s.tookFree ).cores = s.cores := rfl
@[simp] theorem State.tookFree_eps (s : State)  : (s.tookFree ).eps = s.eps := rfl
@[simp] theorem State.tookFree_dies (s : State)  : (s.tookFree ).dies = s.dies := rfl
@[simp] theorem State.tookFree_links (s : State)  : (s.tookFree ).links = s.links := rfl
@[simp] theorem State.tookFree_lanes (s : State)  : (s.tookFree ).lanes = s.lanes := rfl
@[simp] theorem State.tookFree_hbm (s : State)  : (s.tookFree ).hbm = s.hbm := rfl
@[simp] theorem State.tookFree_ml (s : State)  : (s.tookFree ).ml = s.ml := rfl
@[simp] theorem State.tookFree_mlBad (s : State)  : (s.tookFree ).mlBad = s.mlBad := rfl
@[simp] theorem State.tookFree_hbmBad (s : State)  : (s.tookFree ).hbmBad = s.hbmBad := rfl
@[simp] theorem State.tookFree_pm (s : State)  : (s.tookFree ).pm = s.pm := rfl
@[simp] theorem State.tookFree_ops (s : State)  : (s.tookFree ).ops = s.ops := rfl
@[simp] theorem State.tookFree_tails (s : State)  : (s.tookFree ).tails = s.tails := rfl
@[simp] theorem State.tookFree_nextOp (s : State)  : (s.tookFree ).nextOp = s.nextOp := rfl
@[simp] theorem State.tookFree_parts (s : State)  : (s.tookFree ).parts = s.parts := rfl
@[simp] theorem State.tookFree_ports (s : State)  : (s.tookFree ).ports = s.ports := rfl
@[simp] theorem State.tookFree_stewA (s : State)  : (s.tookFree ).stewA = s.stewA := rfl
@[simp] theorem State.tookFree_stewB (s : State)  : (s.tookFree ).stewB = s.stewB := rfl
@[simp] theorem State.tookFree_groups (s : State)  : (s.tookFree ).groups = s.groups := rfl
@[simp] theorem State.tookFree_holder (s : State)  : (s.tookFree ).holder = s.holder := rfl
@[simp] theorem State.tookFree_ucie (s : State)  : (s.tookFree ).ucie = s.ucie := rfl
@[simp] theorem State.tookFree_ringSeg (s : State)  : (s.tookFree ).ringSeg = s.ringSeg := rfl
@[simp] theorem State.tookFree_sites (s : State)  : (s.tookFree ).sites = s.sites := rfl
@[simp] theorem State.tookFree_evr (s : State)  : (s.tookFree ).evr = s.evr := rfl
@[simp] theorem State.tookFree_age (s : State)  : (s.tookFree ).age = s.age := rfl
@[simp] theorem State.tookFree_ageBefore (s : State)  : (s.tookFree ).ageBefore = s.ageBefore := rfl
@[simp] theorem State.tookFree_pyh (s : State)  : (s.tookFree ).pyh = s.pyh := rfl
@[simp] theorem State.tookFree_out (s : State)  : (s.tookFree ).out = s.out := rfl
@[simp] theorem State.tookFree_pending (s : State)  : (s.tookFree ).pending = s.pending := rfl

/-! ### Interrupts and events -/

/-- A property of both branches holds of a conditional. -/
theorem ite_ind {α : Type} (P : α → Prop) (c : Prop) [Decidable c] (a b : α) (ha : P a) (hb : P b) : P (if c then a else b) := by
  split <;> assumption

/-- An interrupt changes Pyhiet's fields and what is sent, and nothing else. -/
theorem State.ibi_eq (s : State) (e1 : Bool) : s.ibi e1 = { s with pyh := (s.ibi e1).pyh, out := (s.ibi e1).out } :=
  ite_ind (fun r : State => r = { s with pyh := r.pyh, out := r.out }) _ _ _ rfl
    (ite_ind (fun r : State => r = { s with pyh := r.pyh, out := r.out }) _ _ _ rfl rfl)

/-- Recording changes the recorder, and by its interrupt Pyhiet's fields and what is sent. -/
theorem State.record_eq (s : State) (v : Ev) :
    s.record v = { s with evr := (s.record v).evr, pyh := (s.record v).pyh, out := (s.record v).out } := by
  unfold State.record
  split
  · dsimp only
    split
    · rw [State.ibi_eq]
    · rfl
  · rfl

@[simp] theorem State.ibi_now (s : State) (e1 : Bool) : (s.ibi e1).now = s.now := by rw [State.ibi_eq]
@[simp] theorem State.ibi_on (s : State) (e1 : Bool) : (s.ibi e1).on = s.on := by rw [State.ibi_eq]
@[simp] theorem State.ibi_pw (s : State) (e1 : Bool) : (s.ibi e1).pw = s.pw := by rw [State.ibi_eq]
@[simp] theorem State.ibi_th (s : State) (e1 : Bool) : (s.ibi e1).th = s.th := by rw [State.ibi_eq]
@[simp] theorem State.ibi_tm (s : State) (e1 : Bool) : (s.ibi e1).tm = s.tm := by rw [State.ibi_eq]
@[simp] theorem State.ibi_bt (s : State) (e1 : Bool) : (s.ibi e1).bt = s.bt := by rw [State.ibi_eq]
@[simp] theorem State.ibi_stks (s : State) (e1 : Bool) : (s.ibi e1).stks = s.stks := by rw [State.ibi_eq]
@[simp] theorem State.ibi_regions (s : State) (e1 : Bool) : (s.ibi e1).regions = s.regions := by rw [State.ibi_eq]
@[simp] theorem State.ibi_clusters (s : State) (e1 : Bool) : (s.ibi e1).clusters = s.clusters := by rw [State.ibi_eq]
@[simp] theorem State.ibi_cores (s : State) (e1 : Bool) : (s.ibi e1).cores = s.cores := by rw [State.ibi_eq]
@[simp] theorem State.ibi_eps (s : State) (e1 : Bool) : (s.ibi e1).eps = s.eps := by rw [State.ibi_eq]
@[simp] theorem State.ibi_dies (s : State) (e1 : Bool) : (s.ibi e1).dies = s.dies := by rw [State.ibi_eq]
@[simp] theorem State.ibi_links (s : State) (e1 : Bool) : (s.ibi e1).links = s.links := by rw [State.ibi_eq]
@[simp] theorem State.ibi_lanes (s : State) (e1 : Bool) : (s.ibi e1).lanes = s.lanes := by rw [State.ibi_eq]
@[simp] theorem State.ibi_hbm (s : State) (e1 : Bool) : (s.ibi e1).hbm = s.hbm := by rw [State.ibi_eq]
@[simp] theorem State.ibi_ml (s : State) (e1 : Bool) : (s.ibi e1).ml = s.ml := by rw [State.ibi_eq]
@[simp] theorem State.ibi_mlBad (s : State) (e1 : Bool) : (s.ibi e1).mlBad = s.mlBad := by rw [State.ibi_eq]
@[simp] theorem State.ibi_hbmBad (s : State) (e1 : Bool) : (s.ibi e1).hbmBad = s.hbmBad := by rw [State.ibi_eq]
@[simp] theorem State.ibi_pm (s : State) (e1 : Bool) : (s.ibi e1).pm = s.pm := by rw [State.ibi_eq]
@[simp] theorem State.ibi_ops (s : State) (e1 : Bool) : (s.ibi e1).ops = s.ops := by rw [State.ibi_eq]
@[simp] theorem State.ibi_tails (s : State) (e1 : Bool) : (s.ibi e1).tails = s.tails := by rw [State.ibi_eq]
@[simp] theorem State.ibi_nextOp (s : State) (e1 : Bool) : (s.ibi e1).nextOp = s.nextOp := by rw [State.ibi_eq]
@[simp] theorem State.ibi_parts (s : State) (e1 : Bool) : (s.ibi e1).parts = s.parts := by rw [State.ibi_eq]
@[simp] theorem State.ibi_ports (s : State) (e1 : Bool) : (s.ibi e1).ports = s.ports := by rw [State.ibi_eq]
@[simp] theorem State.ibi_stewA (s : State) (e1 : Bool) : (s.ibi e1).stewA = s.stewA := by rw [State.ibi_eq]
@[simp] theorem State.ibi_stewB (s : State) (e1 : Bool) : (s.ibi e1).stewB = s.stewB := by rw [State.ibi_eq]
@[simp] theorem State.ibi_groups (s : State) (e1 : Bool) : (s.ibi e1).groups = s.groups := by rw [State.ibi_eq]
@[simp] theorem State.ibi_holder (s : State) (e1 : Bool) : (s.ibi e1).holder = s.holder := by rw [State.ibi_eq]
@[simp] theorem State.ibi_ucie (s : State) (e1 : Bool) : (s.ibi e1).ucie = s.ucie := by rw [State.ibi_eq]
@[simp] theorem State.ibi_ringSeg (s : State) (e1 : Bool) : (s.ibi e1).ringSeg = s.ringSeg := by rw [State.ibi_eq]
@[simp] theorem State.ibi_sites (s : State) (e1 : Bool) : (s.ibi e1).sites = s.sites := by rw [State.ibi_eq]
@[simp] theorem State.ibi_evr (s : State) (e1 : Bool) : (s.ibi e1).evr = s.evr := by rw [State.ibi_eq]
@[simp] theorem State.ibi_age (s : State) (e1 : Bool) : (s.ibi e1).age = s.age := by rw [State.ibi_eq]
@[simp] theorem State.ibi_ageBefore (s : State) (e1 : Bool) : (s.ibi e1).ageBefore = s.ageBefore := by rw [State.ibi_eq]
@[simp] theorem State.ibi_free (s : State) (e1 : Bool) : (s.ibi e1).free = s.free := by rw [State.ibi_eq]
@[simp] theorem State.ibi_pending (s : State) (e1 : Bool) : (s.ibi e1).pending = s.pending := by rw [State.ibi_eq]
@[simp] theorem State.record_now (s : State) (v : Ev) : (s.record v).now = s.now := by rw [State.record_eq]
@[simp] theorem State.record_on (s : State) (v : Ev) : (s.record v).on = s.on := by rw [State.record_eq]
@[simp] theorem State.record_pw (s : State) (v : Ev) : (s.record v).pw = s.pw := by rw [State.record_eq]
@[simp] theorem State.record_th (s : State) (v : Ev) : (s.record v).th = s.th := by rw [State.record_eq]
@[simp] theorem State.record_tm (s : State) (v : Ev) : (s.record v).tm = s.tm := by rw [State.record_eq]
@[simp] theorem State.record_bt (s : State) (v : Ev) : (s.record v).bt = s.bt := by rw [State.record_eq]
@[simp] theorem State.record_stks (s : State) (v : Ev) : (s.record v).stks = s.stks := by rw [State.record_eq]
@[simp] theorem State.record_regions (s : State) (v : Ev) : (s.record v).regions = s.regions := by rw [State.record_eq]
@[simp] theorem State.record_clusters (s : State) (v : Ev) : (s.record v).clusters = s.clusters := by rw [State.record_eq]
@[simp] theorem State.record_cores (s : State) (v : Ev) : (s.record v).cores = s.cores := by rw [State.record_eq]
@[simp] theorem State.record_eps (s : State) (v : Ev) : (s.record v).eps = s.eps := by rw [State.record_eq]
@[simp] theorem State.record_dies (s : State) (v : Ev) : (s.record v).dies = s.dies := by rw [State.record_eq]
@[simp] theorem State.record_links (s : State) (v : Ev) : (s.record v).links = s.links := by rw [State.record_eq]
@[simp] theorem State.record_lanes (s : State) (v : Ev) : (s.record v).lanes = s.lanes := by rw [State.record_eq]
@[simp] theorem State.record_hbm (s : State) (v : Ev) : (s.record v).hbm = s.hbm := by rw [State.record_eq]
@[simp] theorem State.record_ml (s : State) (v : Ev) : (s.record v).ml = s.ml := by rw [State.record_eq]
@[simp] theorem State.record_mlBad (s : State) (v : Ev) : (s.record v).mlBad = s.mlBad := by rw [State.record_eq]
@[simp] theorem State.record_hbmBad (s : State) (v : Ev) : (s.record v).hbmBad = s.hbmBad := by rw [State.record_eq]
@[simp] theorem State.record_pm (s : State) (v : Ev) : (s.record v).pm = s.pm := by rw [State.record_eq]
@[simp] theorem State.record_ops (s : State) (v : Ev) : (s.record v).ops = s.ops := by rw [State.record_eq]
@[simp] theorem State.record_tails (s : State) (v : Ev) : (s.record v).tails = s.tails := by rw [State.record_eq]
@[simp] theorem State.record_nextOp (s : State) (v : Ev) : (s.record v).nextOp = s.nextOp := by rw [State.record_eq]
@[simp] theorem State.record_parts (s : State) (v : Ev) : (s.record v).parts = s.parts := by rw [State.record_eq]
@[simp] theorem State.record_ports (s : State) (v : Ev) : (s.record v).ports = s.ports := by rw [State.record_eq]
@[simp] theorem State.record_stewA (s : State) (v : Ev) : (s.record v).stewA = s.stewA := by rw [State.record_eq]
@[simp] theorem State.record_stewB (s : State) (v : Ev) : (s.record v).stewB = s.stewB := by rw [State.record_eq]
@[simp] theorem State.record_groups (s : State) (v : Ev) : (s.record v).groups = s.groups := by rw [State.record_eq]
@[simp] theorem State.record_holder (s : State) (v : Ev) : (s.record v).holder = s.holder := by rw [State.record_eq]
@[simp] theorem State.record_ucie (s : State) (v : Ev) : (s.record v).ucie = s.ucie := by rw [State.record_eq]
@[simp] theorem State.record_ringSeg (s : State) (v : Ev) : (s.record v).ringSeg = s.ringSeg := by rw [State.record_eq]
@[simp] theorem State.record_sites (s : State) (v : Ev) : (s.record v).sites = s.sites := by rw [State.record_eq]
@[simp] theorem State.record_age (s : State) (v : Ev) : (s.record v).age = s.age := by rw [State.record_eq]
@[simp] theorem State.record_ageBefore (s : State) (v : Ev) : (s.record v).ageBefore = s.ageBefore := by rw [State.record_eq]
@[simp] theorem State.record_free (s : State) (v : Ev) : (s.record v).free = s.free := by rw [State.record_eq]
@[simp] theorem State.record_pending (s : State) (v : Ev) : (s.record v).pending = s.pending := by rw [State.record_eq]
@[simp] theorem State.ev_now (s : State) (code : BitVec 16) (sev : Fin 4) (cls : BitVec 8) (num : Nat) (part : Option PartId)
    (detail : BitVec 96) : (s.ev code sev cls num part detail).now = s.now := State.record_now s _
@[simp] theorem State.ev_on (s : State) (code : BitVec 16) (sev : Fin 4) (cls : BitVec 8) (num : Nat) (part : Option PartId)
    (detail : BitVec 96) : (s.ev code sev cls num part detail).on = s.on := State.record_on s _
@[simp] theorem State.ev_pw (s : State) (code : BitVec 16) (sev : Fin 4) (cls : BitVec 8) (num : Nat) (part : Option PartId)
    (detail : BitVec 96) : (s.ev code sev cls num part detail).pw = s.pw := State.record_pw s _
@[simp] theorem State.ev_th (s : State) (code : BitVec 16) (sev : Fin 4) (cls : BitVec 8) (num : Nat) (part : Option PartId)
    (detail : BitVec 96) : (s.ev code sev cls num part detail).th = s.th := State.record_th s _
@[simp] theorem State.ev_tm (s : State) (code : BitVec 16) (sev : Fin 4) (cls : BitVec 8) (num : Nat) (part : Option PartId)
    (detail : BitVec 96) : (s.ev code sev cls num part detail).tm = s.tm := State.record_tm s _
@[simp] theorem State.ev_bt (s : State) (code : BitVec 16) (sev : Fin 4) (cls : BitVec 8) (num : Nat) (part : Option PartId)
    (detail : BitVec 96) : (s.ev code sev cls num part detail).bt = s.bt := State.record_bt s _
@[simp] theorem State.ev_stks (s : State) (code : BitVec 16) (sev : Fin 4) (cls : BitVec 8) (num : Nat) (part : Option PartId)
    (detail : BitVec 96) : (s.ev code sev cls num part detail).stks = s.stks := State.record_stks s _
@[simp] theorem State.ev_regions (s : State) (code : BitVec 16) (sev : Fin 4) (cls : BitVec 8) (num : Nat) (part : Option PartId)
    (detail : BitVec 96) : (s.ev code sev cls num part detail).regions = s.regions := State.record_regions s _
@[simp] theorem State.ev_clusters (s : State) (code : BitVec 16) (sev : Fin 4) (cls : BitVec 8) (num : Nat) (part : Option PartId)
    (detail : BitVec 96) : (s.ev code sev cls num part detail).clusters = s.clusters := State.record_clusters s _
@[simp] theorem State.ev_cores (s : State) (code : BitVec 16) (sev : Fin 4) (cls : BitVec 8) (num : Nat) (part : Option PartId)
    (detail : BitVec 96) : (s.ev code sev cls num part detail).cores = s.cores := State.record_cores s _
@[simp] theorem State.ev_eps (s : State) (code : BitVec 16) (sev : Fin 4) (cls : BitVec 8) (num : Nat) (part : Option PartId)
    (detail : BitVec 96) : (s.ev code sev cls num part detail).eps = s.eps := State.record_eps s _
@[simp] theorem State.ev_dies (s : State) (code : BitVec 16) (sev : Fin 4) (cls : BitVec 8) (num : Nat) (part : Option PartId)
    (detail : BitVec 96) : (s.ev code sev cls num part detail).dies = s.dies := State.record_dies s _
@[simp] theorem State.ev_links (s : State) (code : BitVec 16) (sev : Fin 4) (cls : BitVec 8) (num : Nat) (part : Option PartId)
    (detail : BitVec 96) : (s.ev code sev cls num part detail).links = s.links := State.record_links s _
@[simp] theorem State.ev_lanes (s : State) (code : BitVec 16) (sev : Fin 4) (cls : BitVec 8) (num : Nat) (part : Option PartId)
    (detail : BitVec 96) : (s.ev code sev cls num part detail).lanes = s.lanes := State.record_lanes s _
@[simp] theorem State.ev_hbm (s : State) (code : BitVec 16) (sev : Fin 4) (cls : BitVec 8) (num : Nat) (part : Option PartId)
    (detail : BitVec 96) : (s.ev code sev cls num part detail).hbm = s.hbm := State.record_hbm s _
@[simp] theorem State.ev_ml (s : State) (code : BitVec 16) (sev : Fin 4) (cls : BitVec 8) (num : Nat) (part : Option PartId)
    (detail : BitVec 96) : (s.ev code sev cls num part detail).ml = s.ml := State.record_ml s _
@[simp] theorem State.ev_mlBad (s : State) (code : BitVec 16) (sev : Fin 4) (cls : BitVec 8) (num : Nat) (part : Option PartId)
    (detail : BitVec 96) : (s.ev code sev cls num part detail).mlBad = s.mlBad := State.record_mlBad s _
@[simp] theorem State.ev_hbmBad (s : State) (code : BitVec 16) (sev : Fin 4) (cls : BitVec 8) (num : Nat) (part : Option PartId)
    (detail : BitVec 96) : (s.ev code sev cls num part detail).hbmBad = s.hbmBad := State.record_hbmBad s _
@[simp] theorem State.ev_pm (s : State) (code : BitVec 16) (sev : Fin 4) (cls : BitVec 8) (num : Nat) (part : Option PartId)
    (detail : BitVec 96) : (s.ev code sev cls num part detail).pm = s.pm := State.record_pm s _
@[simp] theorem State.ev_ops (s : State) (code : BitVec 16) (sev : Fin 4) (cls : BitVec 8) (num : Nat) (part : Option PartId)
    (detail : BitVec 96) : (s.ev code sev cls num part detail).ops = s.ops := State.record_ops s _
@[simp] theorem State.ev_tails (s : State) (code : BitVec 16) (sev : Fin 4) (cls : BitVec 8) (num : Nat) (part : Option PartId)
    (detail : BitVec 96) : (s.ev code sev cls num part detail).tails = s.tails := State.record_tails s _
@[simp] theorem State.ev_nextOp (s : State) (code : BitVec 16) (sev : Fin 4) (cls : BitVec 8) (num : Nat) (part : Option PartId)
    (detail : BitVec 96) : (s.ev code sev cls num part detail).nextOp = s.nextOp := State.record_nextOp s _
@[simp] theorem State.ev_parts (s : State) (code : BitVec 16) (sev : Fin 4) (cls : BitVec 8) (num : Nat) (part : Option PartId)
    (detail : BitVec 96) : (s.ev code sev cls num part detail).parts = s.parts := State.record_parts s _
@[simp] theorem State.ev_ports (s : State) (code : BitVec 16) (sev : Fin 4) (cls : BitVec 8) (num : Nat) (part : Option PartId)
    (detail : BitVec 96) : (s.ev code sev cls num part detail).ports = s.ports := State.record_ports s _
@[simp] theorem State.ev_stewA (s : State) (code : BitVec 16) (sev : Fin 4) (cls : BitVec 8) (num : Nat) (part : Option PartId)
    (detail : BitVec 96) : (s.ev code sev cls num part detail).stewA = s.stewA := State.record_stewA s _
@[simp] theorem State.ev_stewB (s : State) (code : BitVec 16) (sev : Fin 4) (cls : BitVec 8) (num : Nat) (part : Option PartId)
    (detail : BitVec 96) : (s.ev code sev cls num part detail).stewB = s.stewB := State.record_stewB s _
@[simp] theorem State.ev_groups (s : State) (code : BitVec 16) (sev : Fin 4) (cls : BitVec 8) (num : Nat) (part : Option PartId)
    (detail : BitVec 96) : (s.ev code sev cls num part detail).groups = s.groups := State.record_groups s _
@[simp] theorem State.ev_holder (s : State) (code : BitVec 16) (sev : Fin 4) (cls : BitVec 8) (num : Nat) (part : Option PartId)
    (detail : BitVec 96) : (s.ev code sev cls num part detail).holder = s.holder := State.record_holder s _
@[simp] theorem State.ev_ucie (s : State) (code : BitVec 16) (sev : Fin 4) (cls : BitVec 8) (num : Nat) (part : Option PartId)
    (detail : BitVec 96) : (s.ev code sev cls num part detail).ucie = s.ucie := State.record_ucie s _
@[simp] theorem State.ev_ringSeg (s : State) (code : BitVec 16) (sev : Fin 4) (cls : BitVec 8) (num : Nat) (part : Option PartId)
    (detail : BitVec 96) : (s.ev code sev cls num part detail).ringSeg = s.ringSeg := State.record_ringSeg s _
@[simp] theorem State.ev_sites (s : State) (code : BitVec 16) (sev : Fin 4) (cls : BitVec 8) (num : Nat) (part : Option PartId)
    (detail : BitVec 96) : (s.ev code sev cls num part detail).sites = s.sites := State.record_sites s _
@[simp] theorem State.ev_age (s : State) (code : BitVec 16) (sev : Fin 4) (cls : BitVec 8) (num : Nat) (part : Option PartId)
    (detail : BitVec 96) : (s.ev code sev cls num part detail).age = s.age := State.record_age s _
@[simp] theorem State.ev_ageBefore (s : State) (code : BitVec 16) (sev : Fin 4) (cls : BitVec 8) (num : Nat) (part : Option PartId)
    (detail : BitVec 96) : (s.ev code sev cls num part detail).ageBefore = s.ageBefore := State.record_ageBefore s _
@[simp] theorem State.ev_free (s : State) (code : BitVec 16) (sev : Fin 4) (cls : BitVec 8) (num : Nat) (part : Option PartId)
    (detail : BitVec 96) : (s.ev code sev cls num part detail).free = s.free := State.record_free s _
@[simp] theorem State.ev_pending (s : State) (code : BitVec 16) (sev : Fin 4) (cls : BitVec 8) (num : Nat) (part : Option PartId)
    (detail : BitVec 96) : (s.ev code sev cls num part detail).pending = s.pending := State.record_pending s _

/-! ### Elements -/

@[simp] theorem State.ep_modEp (s : State) (e : EpId) (f : EpState → EpState) : (s.modEp e f).ep e = f (s.ep e) := by
  simp [State.ep, State.modEp]
theorem State.ep_modEp_ne (s : State) {a b : EpId} (f : EpState → EpState) (h : b ≠ a) : (s.modEp a f).ep b = s.ep b := by
  simp [State.ep, State.modEp, Fin.val_inj, h]
@[simp] theorem State.stack_modStack (s : State) (x : StackId) (f : Stack → Stack) : (s.modStack x f).stack x = f (s.stack x) := by
  simp [State.stack, State.modStack]
theorem State.stack_modStack_ne (s : State) {a b : StackId} (f : Stack → Stack) (h : b ≠ a) : (s.modStack a f).stack b = s.stack b := by
  simp [State.stack, State.modStack, Fin.val_inj, h]
@[simp] theorem State.core_modCore (s : State) (g : CoreId) (f : Core → Core) : (s.modCore g f).core g = f (s.core g) := by
  simp [State.core, State.modCore]
theorem State.core_modCore_ne (s : State) {a b : CoreId} (f : Core → Core) (h : b ≠ a) : (s.modCore a f).core b = s.core b := by
  simp [State.core, State.modCore, Fin.val_inj, h]
@[simp] theorem State.die_modDie (s : State) (k : Fin 8) (f : PortDie → PortDie) : (s.modDie k f).die k = f (s.die k) := by
  simp [State.die, State.modDie]
theorem State.die_modDie_ne (s : State) {a b : Fin 8} (f : PortDie → PortDie) (h : b ≠ a) : (s.modDie a f).die b = s.die b := by
  simp [State.die, State.modDie, Fin.val_inj, h]
@[simp] theorem State.part_modPart (s : State) (p : PartId) (f : Part → Part) : (s.modPart p f).part p = f (s.part p) := by
  simp [State.part, State.modPart]
theorem State.part_modPart_ne (s : State) {a b : PartId} (f : Part → Part) (h : b ≠ a) : (s.modPart a f).part b = s.part b := by
  simp [State.part, State.modPart, Fin.val_inj, h]
@[simp] theorem State.port_modPort (s : State) (t : PortId) (f : Port → Port) : (s.modPort t f).port t = f (s.port t) := by
  simp [State.port, State.modPort]
theorem State.port_modPort_ne (s : State) {a b : PortId} (f : Port → Port) (h : b ≠ a) : (s.modPort a f).port b = s.port b := by
  simp [State.port, State.modPort, Fin.val_inj, h]
@[simp] theorem State.site_modSite (s : State) (t : TileId) (f : OpenSite → OpenSite) : (s.modSite t f).site t = f (s.site t) := by
  simp [State.site, State.modSite]
theorem State.site_modSite_ne (s : State) {a b : TileId} (f : OpenSite → OpenSite) (h : b ≠ a) : (s.modSite a f).site b = s.site b := by
  simp [State.site, State.modSite, Fin.val_inj, h]
@[simp] theorem State.region_modRegion (s : State) (x : StackId) (p : RegionNo) (f : Region → Region) : (s.modRegion x p f).region x p = f (s.region x p) := by
  simp [State.region, State.modRegion]
@[simp] theorem State.cluster_modCluster (s : State) (x : StackId) (c : ClusterNo) (f : Cluster → Cluster) : (s.modCluster x c f).cluster x c = f (s.cluster x c) := by
  simp [State.cluster, State.modCluster]
@[simp] theorem State.link_modLink (s : State) (i j : EpId) (f : Link → Link) : (s.modLink i j f).link i j = f (s.link i j) := by
  simp [State.link, State.modLink]
@[simp] theorem State.lane_modLane (s : State) (l : LaneId) (f : Lane → Lane) : (s.modLane l f).lane l = f (s.lane l) := by
  simp [State.lane, State.modLane]
@[simp] theorem State.ucieMod_modUcie (s : State) (u : Nat) (f : Ucie → Ucie) : (s.modUcie u f).ucieMod u = f (s.ucieMod u) := by
  simp [State.ucieMod, State.modUcie]
@[simp] theorem Core.cv_modCv (c : Core) (h : Fin 2) (f : Convoy → Convoy) : (c.modCv h f).cv h = f (c.cv h) := by
  unfold Core.modCv Core.cv; split <;> simp_all
@[simp] theorem State.cv_modCv (s : State) (u : Cv) (f : Convoy → Convoy) : (s.modCv u f).cv u = f (s.cv u) := by
  simp [State.cv, State.modCv]

end Sys2Proof.Machine
end

