-- ==== Sys2Proof/Laws/Ops.lean ====
section
/-!
SUPPORT. What the operations that the meanings share can do: issuing an instruction, its effect on one convoy, raising flags, queueing a packet,
and going through a list.
-/

namespace Sys2Proof.Machine

/-- A property that each step of a loop keeps holds after the loop. -/
theorem forEach_keeps {α σ : Type} (P : σ → Prop) (l : List α) (f : α → σ → σ) (h : ∀ a s, P s → P (f a s)) (s : σ) (hs : P s) :
    P (forEach l f s) := by
  induction l generalizing s with
  | nil => exact hs
  | cons a r ih => exact ih _ (h a s hs)

/-- A field that no step of a loop changes is as it was. -/
theorem forEach_frame {α σ β : Type} (g : σ → β) (l : List α) (f : α → σ → σ) (h : ∀ a s, g (f a s) = g s) (s : σ) : g (forEach l f s) = g s :=
  forEach_keeps (fun t => g t = g s) l f (fun a t ht => (h a t).trans ht) s rfl

/-- All that issuing can do: nothing where the convoy cannot issue or a register is awaited, IL for a word that the check refuses, or the effect. -/
theorem issue_cases (u : Cv) (ok : Bool) (regs : List Nat) (body : State → State) (s : State) :
    (issue u ok regs body s = s ∧ (s.mayIssue u = false ∨ s.busyRegs u regs = true)) ∨
    (issue u ok regs body s = s.raise u flIL ∧ s.mayIssue u = true ∧ ok = false) ∨
    (issue u ok regs body s = body s ∧ s.mayIssue u = true ∧ ok = true ∧ s.busyRegs u regs = false) := by
  unfold issue
  cases h1 : s.mayIssue u <;> cases h2 : ok <;> cases h3 : s.busyRegs u regs <;> simp

/-- A running convoy has its instruction's effect where the check passes and no register is awaited. -/
theorem issue_runs (u : Cv) (ok : Bool) (regs : List Nat) (body : State → State) (s : State) (h : s.canIssue u regs) (hk : ok = true) :
    issue u ok regs body s = body s := by
  simp [issue, h.2.1, h.2.2, hk]

/-- A running convoy raises IL for a word that the check refuses. -/
theorem issue_refused (u : Cv) (ok : Bool) (regs : List Nat) (body : State → State) (s : State) (h : s.mayIssue u = true) (hk : ok = false) :
    issue u ok regs body s = s.raise u flIL := by
  simp [issue, h, hk]

@[simp] theorem State.raise_zero (s : State) (u : Cv) : s.raise u 0 = s := by simp [State.raise]

/-- Flags that fail nothing join the sticky flags of the convoy. -/
theorem State.raise_sticky (s : State) (u : Cv) (f : BitVec 16) (h0 : f ≠ 0) (h : f &&& failingFlags = 0) :
    s.raise u f = s.modCore u.g fun k =>
      (k.modCv u.h fun c => { c with flags := c.flags ||| f, fresh := c.freshIn s.now ||| f, freshAt := s.now }).settle := by
  unfold State.raise
  rw [if_neg h0]
  simp [h, Convoy.flagged]

@[simp] theorem Core.cv_modCv_same (c : Core) (h : Fin 2) (f : Convoy → Convoy) : (c.modCv h f).cv h = f (c.cv h) := by
  unfold Core.modCv Core.cv
  split <;> simp_all

/-- What an effect without flags does: the convoy it gives, at the next instruction. -/
theorem cvEffect_quiet (u : Cv) (f : Convoy → Convoy × BitVec 16) (s : State) (h : (f (s.cv u)).2 = 0) :
    cvEffect u f s = (s.modCv u fun _ => (f (s.cv u)).1).advance u := by
  simp only [cvEffect]
  rw [h, State.raise_zero]

/-! ### Queueing a packet touches its endpoint alone -/

@[simp] theorem State.enqueue_hbm (s : State) (e : EpId) (op : POp) (h : Hdr) (p : Payload) (ops : List Nat) :
    (s.enqueue e op h p ops).hbm = s.hbm := rfl
@[simp] theorem State.enqueue_ml (s : State) (e : EpId) (op : POp) (h : Hdr) (p : Payload) (ops : List Nat) :
    (s.enqueue e op h p ops).ml = s.ml := rfl
@[simp] theorem State.enqueue_cores (s : State) (e : EpId) (op : POp) (h : Hdr) (p : Payload) (ops : List Nat) :
    (s.enqueue e op h p ops).cores = s.cores := rfl
@[simp] theorem State.enqueue_parts (s : State) (e : EpId) (op : POp) (h : Hdr) (p : Payload) (ops : List Nat) :
    (s.enqueue e op h p ops).parts = s.parts := rfl
@[simp] theorem State.enqueue_pending (s : State) (e : EpId) (op : POp) (h : Hdr) (p : Payload) (ops : List Nat) :
    (s.enqueue e op h p ops).pending = s.pending := rfl

theorem State.sendAll_frame {β : Type} (g : State → β) (h : ∀ s e f, g (State.modEp s e f) = g s) (s : State) (e : EpId) (op : POp) (p : Payload)
    (q : PartId) : g (s.sendAll e op p q) = g s := by
  unfold State.sendAll
  exact forEach_frame g _ _ (fun a t => h _ _ _) s

end Sys2Proof.Machine
end

