-- ==== Sys2Proof/Machine/Pins.lean ====
section
/-!
DEFINITION. The levels of the module's output pins in each module state (R55, R73, R75, R81, R84, R88). The presence of the module itself is not
in question: the model has no absent module.
-/

namespace Sys2Proof.Machine

/-- What an output presents. -/
inductive PinLevel where
  | low | high | hiZ
  deriving DecidableEq, Repr

/-- MOD_PRSNT_N and PRSNT_N are low while the module is there (R88). -/
def prsntPin : PinLevel := .low

/-- MOD_FAULT_N (R73, R88). -/
def State.faultPin (s : State) : PinLevel := if s.faultLow then .low else .high

/-- THERM_TRIP_N is open drain (R75). -/
def State.thermTripPin (s : State) : PinLevel := if s.on && s.pw.tripPin then .low else .hiZ

/-- DIODE_FRAME: a frame of 1 ms, high in its first 600 µs; low when the guard does not run (R81). -/
def State.framePin (s : State) : PinLevel :=
  if s.on && s.th.frameAt.any fun t => (s.now - t) % 1000000 < 600000 then .high else .low

/-- TDO in and out of the shift states of the test access port, for a bit that it drives (R84, R88). -/
def State.tdoPin (s : State) (shifting bit : Bool) : PinLevel := if s.on && shifting then (if bit then .high else .low) else .hiZ

/-- Whether the I3C target is active; else SDA is not driven (R88). -/
def State.i3cActive (s : State) : Bool := s.on && !s.pyh.i3cIgnored

/-- What a port's transmit pairs present. -/
inductive TxPairs where
  | none | electricalIdle | linkState
  deriving DecidableEq, Repr

/-- The transmit pairs of a port: no output without VAON, electrical idle in a module reset or a thermal trip, else as its link has it (R88). -/
def State.txPairs (s : State) (t : TileId) : TxPairs :=
  if !s.on then .none
  else if !s.pw.resetN || s.pw.tripped || !((s.port t).linkUp || (s.port t).training) then .electricalIdle
  else .linkState

end Sys2Proof.Machine
end

