-- ==== Sys2Proof/Tests/Slice0.lean ====
section
/-!
SUPPORT. Small tests of single commands, of the check of commands, and of decoding; and for every statement with hypotheses, states and operands
that meet them.
-/

open Sys2Proof Sys2Proof.Machine

namespace Sys2Proof.Tests

set_option maxRecDepth 16000

/-! ### States that the witnesses use -/

/-- The module after reset with VAON up. -/
def up : State := { State.reset with on := true }

/-- The module with its core rails on, ready. -/
def ready : State := { up with pw := { up.pw with phase := .ready, rails := true, pwren := true } }


/-- The ready module after the steps of a whole start-up, its lasers lit. -/
def shining : State := { ready with bt := { ready.bt with ended := 0xFFF, laserLit := 0xF } }

/-- The module with the first 96 regions of stack 2 mapped. -/
def mapped : State := ready.modStack 2 fun k => { k with cmap := 0xFFFFFFFFFFFFFFFFFFFFFFFF }

/-- The module with an assembly record applied, and what the modules of a link partner then report. -/
def recd : State := { ready with bt := { ready.bt with applied := some FlashRec.factory } }
def met (q : LinkPartner) : StepResult := { caps := (modulesOf q).map fun u => { unit := u, cls := if u % 19 < 16 then 1 else 2, ident := 0 } }

/-- The module with the link of the steward port up. -/
def stewUp : State := ready.modPort 0 fun q => { q with linkUp := true }

/-- The module with port 2 up for the host, one decoder over every range, and partition 1 committed behind it. -/
def host : State := (stewUp.modPort 2 fun q =>
  { q with linkUp := true, decoders := [(0, { committed := true, base := 0, size := 0x200000000000 })] }).modPart 1 fun b =>
    { b with block := .committed, shape := 0x200000001 }

/-- A good packet that arrives from e at rx on their pair link, on a data class. -/
def arr (e rx : EpId) : Arr :=
  { rx, link := e, turnpike := false, cls := false
    h := { hopDst := rx, hopSrc := e, vc := 2, origin := e, target := rx, seq := 5 } }

/-- The module with a block that may be committed: partition 7, on stack 0 and port 2. -/
def conf : State := ((stewUp.modPort 2 fun q => { q with linkUp := true }).modEp 0 fun e => { e with inService := true, synced := true }).modPart 7 fun b =>
  { b with block := .configuring, shape := 0x200000001, heartbeat := 0x1000, doorbell := 0x2000 }

/-- Convoy 0 of core 0. -/
def cv0 : Cv := ⟨0, 0⟩

/-- No guard, and guards by a predicate register. -/
def gAll : Guard := ⟨7, false⟩
def gP (p : BitVec 3) : Guard := ⟨p, false⟩

/-- The ready module with convoy 0 of core 0 at work: lanes 0 to 15 are on, and p0 holds every other lane. -/
def cvs : State := ready.modCv cv0 fun c => { c with
  run := .running, stack := [0x0000FFFF], pc := 4, started := true, p := [(0, 0x55555555), (1, 0x0F)], s := [(1, 8), (2, 0x8000000000000005), (3, 3)]
  v := [(1, 5), (2, 0x80000001), (3, 0x40490FDB), (65, 7), (66, 0x7FFFFFFF), (67, 0x7F800001), (129, 0xFFFFFFFF), (130, 2), (131, 0xBF800000)] }

/-- A format A word. -/
def fa (dest src1 src2 : BitVec 6) (typ : BitVec 4 := 0xC) (src3 : BitVec 6 := 0) (mods : BitVec 16 := 0) (gd : Guard := gP 0) : FA :=
  { gd, dest, src1, src2, src3, typ, mods }

/-- A format B word. -/
def fb (dest src1 : BitVec 6) (imm : BitVec 25) (typ : BitVec 4 := 0xC) (rnd : BitVec 3 := 0) (gd : Guard := gP 0) : FB :=
  { gd, dest, src1, typ, rnd, imm }

/-- A format X and a format M word. -/
def fx (data base : BitVec 6) (typ : BitVec 4 := 0xC) (off : BitVec 16 := 0) (order : BitVec 3 := 0) (gd : Guard := gP 0) : FX :=
  { gd, data, base, index := 0, typ, iscale := 0, ien := false, order, off }
def fm (dest sA sB : BitVec 6) (typ : BitVec 4) (acc : BitVec 2 := 0) (rnd : BitVec 3 := 0) (stile : BitVec 3 := 0) (gd : Guard := gP 0) : FM :=
  { gd, dest, sA, sB, stile, typ, rnd, acc, rsv := 0 }

/-- The module cvs with a few bytes in the slice of core 0, and with its addresses in s4 and s5. -/
def mems : State := { (cvs.modCv cv0 fun c => { c with s := [(1, 8), (4, 0x400), (5, 0x800), (6, 0x20)] }) with
  ml := [(0x400, 1), (0x404, 0xFF), (0x800, 3), (0x844, 0x80)] }

/-- The module cvs with stack 0 in partition 1, whose bundle has one exact-sum window. -/
def xsw : State := cvs.modPart 1 fun b =>
  { b with block := .committed, shape := 0x200000001, bundle := some { windows := [0x800000000020FFE0] } }

/-- What the remote operations of convoy 0 share in the state xsw. -/
def remOf (k : OpKind) (typ : BitVec 4) (reg : BitVec 6) : RemOp :=
  { kind := k, issuer := .convoy cv0, snd := 0, part := 1, vc := 2, typ, reg }

/-- Partition 1 with an ended period whose output page 0 waits for its decision. -/
def holdParts : KMap Part :=
  [(1, { block := .committed, shape := 0x200000001, periods := [{ no := 1, d := ⟨0, 0, 0, 0⟩, start := 0, deadline := 0, seed := 0, set := 0, last := true
                                                                  stage := .ended, outs := [⟨0, false, false, 0, 1, []⟩] }] })]

/-- The module with port die 3 (endpoint 19) and stack 5 synchronised, and some bytes of HBM3 stack 6 written. -/
def fab : State :=
  { ((ready.modEp 19 fun e => { e with synced := true }).modEp 5 fun e => { e with synced := true }).modDie 3 fun d => { d with trained := 3 } with
    hbm := [(824633720896, 7), (824633720900, 9)] }

/-- A good data packet from e to rx on the Turnpike, placed at a key. -/
def dat (e rx : EpId) (loc : Nat) : Arr := { arr e rx with turnpike := true, h := { (arr e rx).h with loc } }

/-- A load of convoy 0 whose first attempt has been sent, and its lane's share of the line. -/
def ldOp : RemOp :=
  { kind := .load, issuer := .convoy cv0, snd := 0, part := 1, placed := true, tgt := 19, ackBy := 19, first := some 0, typ := 0xC, reg := 5
    attempts := [⟨5, false, true, false, false⟩], dests := [⟨3, 4, 4, 0, 32, 0⟩] }
def atOp : RemOp := { ldOp with kind := .atomic, dests := [⟨3, 0, 4, 0, 32, 0⟩] }

/-- A program of one instruction, which core 0 runs from convoy 0; a period from tick 2,000 to tick 12,000; a bundle for stack 0. -/
def prog0 : Program := { digest := 5, split80 := false, entry0 := some 0, entry1 := none, off := 0, count := 1, wins := [] }
def perA : Period := { no := 1, d := ⟨0, 0, 0, 2⟩, start := 2000, deadline := 12000, seed := 7, set := 0, outs := [], last := true }
def bunA : Bundle := { stks := 1, sets := [[0]], progs := [prog0], tables := [[[1]]], imageFirst := 0x200180, imagePages := 1 }

/-- The module with partition 1 in scheduled mode on stack 0, at a tick; its periods are given. -/
def sched (now : Nat) (l : List Period) : State :=
  { (host.modStack 0 fun k => { k with cmap := 0xFFFFFFFFFFFFFFFFFFFFFFFF }).modPart 1 fun b =>
      { b with work := .scheduled, bundle := some bunA, periods := l, nextNo := 2 } with now }

/-- The same while cluster 0 of stack 0 runs the period. -/
def runs (now : Nat) (n : Period) : State :=
  (sched now [{ n with stage := .running }]).modCluster 0 0 fun k => { k with mode := 1, period := 1, start := 2000, deadline := 12000, tag := 2 }

/-- An output with number 3, on one page, for which one core of stack 0 reports. -/
def out3 : OutputDecl := ⟨3, false, false, 9, 1, [1]⟩
def perO : Period := { perA with outs := [out3] }

/-- The period after its deadline. -/
def perE : Period := { perO with stage := .ended }

/-- The module with partition 1 in free-run since tick 0, for 50 ticks, with completion ring 0 of 64 records. -/
def kernA : Kernel := { d := ⟨0, 0, 0, 10⟩, image := {}, seed := 0, limit := 50, launch := some 0 }
def kern : State := host.modPart 1 fun b =>
  { b with work := .freeRun, kernel := some kernA, crings := [(0, { enabled := true, base := 0x9000 })], rings := [(0, { enabled := true, base := 0x8000 })] }

/-- A descriptor in slot 0 of ring 0 with the bytes from 8 on, and the module with it as the one descriptor of partition 1. -/
def dsc (typ : Nat) (body : List Byte) (flags : Byte := 0) : Desc :=
  { serial := 7, d := ⟨0, 0, 0, typ⟩, bytes := ([BitVec.ofNat 8 typ, flags, 0, 0, 0, 0, 0, 0] ++ body) ++ List.replicate (56 - body.length) 0 }
def ring1 (l : List Desc) : State := { host with now := 1000 }.modPart 1 fun b =>
  { b with work := .idle, descs := l, crings := [(0, { enabled := true, base := 0x9000 })], rings := [(0, { enabled := true, base := 0x8000 })] }

/-- A kernel image for stack 0 that gives core 0 a program. -/
def kimg : Bundle := { stks := 1, sets := [[0]], progs := [prog0], tables := [[[1]]], imageFirst := 0x200180, imagePages := 1 }

/-- A module whose HBM3 stacks all work, with page 5 of partition 1 at frame 0 of every stack. -/
def paged (s : State) : State :=
  { forEach (List.finRange 8) (fun k s => s.modDie k fun d => { d with trained := 3 }) s with
    pm := { rep0 := [(5, assignEntry 1 0)], rep1 := [(5, assignEntry 1 0)], rep2 := [(5, assignEntry 1 0)], rep3 := [(5, assignEntry 1 0)] } }

/-- One entry of the recorder. -/
def rec1 : RecEntry := { tick := 0, seq := 1, code := 0x1002, sev := 1, cls := 0, num := 0, part := none, detail := 0 }

/-- A state in which Pyhiet runs. -/
def pyhOn (s : State) : State := { s with pyh := { s.pyh with up := true } }

/-- A flit with the given first bytes and a right CRC. -/
def flit (h : List Byte) : List Byte :=
  let b := h ++ List.replicate (252 - h.length) 0
  b ++ leBytes 4 (crc32c b).toNat

/-- Every hypothesis of PowerAndResetPins is met somewhere, clause by clause. -/
theorem witness_PowerAndResetPins :
    (∃ (s : State) (f : List DiodeRead), (s.pw.jpower = true) ∧ (s.pw.phase = .off) ∧ (s.pw.input = .inRange)) ∧
    (∃ (s : State), (s.pw.jpower = true) ∧ (s.pw.phase.runs = true)) ∧
    (∃ (s : State) (f : List DiodeRead), (s.pw.phase = .shutdown) ∧ (s.pw.pwren = false) ∧ (s.pw.tripped = false)) ∧
    (∃ (s : State) (f : List DiodeRead), (s.pw.phase = .shutdown) ∧ (s.pw.pwren = true) ∧ (s.pw.input = .inRange)) ∧
    (∃ (s : State), (s.on = true) ∧ (s.pw.phase = .ready)) ∧
    (∃ (s : State), (s.on = true) ∧ (s.pw.phase = .starting ∨ s.pw.phase = .startFailed)) ∧
    (∃ (s : State), (s.on = true) ∧ (s.pw.phase = .held) ∧ (hasBit s.bt.busy 1 = false) ∧ (∀ p : PortId, (s.port p).perstHigh = false)) ∧
    (∃ (s : State) (v : BitVec 2), (s.on = true) ∧ (s.pw.sampled = true) ∧ (v ≠ s.pw.selPin) ∧ (s.pw.selWarned = false)) ∧
    (∃ (s : State) (v : BitVec 2), (s.on = true) ∧ (s.pw.sampled = true) ∧ (s.pw.selWarned = true)) :=
  ⟨⟨State.reset, [], by decide +kernel⟩,
   ⟨ready, by decide +kernel⟩,
   ⟨{ ready with pw := { ready.pw with phase := .shutdown, pwren := false } }, [], by decide +kernel⟩,
   ⟨{ ready with pw := { ready.pw with phase := .shutdown } }, [], by decide +kernel⟩,
   ⟨ready, by decide +kernel⟩,
   ⟨{ ready with pw := { ready.pw with phase := .starting } }, by decide +kernel⟩,
   ⟨{ ready with pw := { ready.pw with phase := .held } }, by decide +kernel⟩,
   ⟨{ ready with pw := { ready.pw with sampled := true } }, 1, by decide +kernel⟩,
   ⟨{ ready with pw := { ready.pw with sampled := true, selWarned := true } }, 1, by decide +kernel⟩⟩

/-- Every hypothesis of InputPower is met somewhere, clause by clause. -/
theorem witness_InputPower :
    (∃ (s : State) (cv : Nat), (s.on = true) ∧ (s.pw.jpower = true) ∧ (s.pw.input = .inRange)) ∧
    (∃ (s : State) (cv : Nat), (s.pw.jpower = true) ∧ (s.pw.phase.runs = true)) ∧
    (∃ (s : State) (cv : Nat), (s.pw.jpower = true) ∧ (s.on = true)) ∧
    (∃ (s : State) (cv : Nat), (s.pw.jpower = true) ∧ (s.on = true) ∧ (3600 ≤ cv)) ∧
    (∃ (s : State) (cv : Nat) (f : List DiodeRead), (s.pw.jpower = true) ∧ (s.pw.phase = .inputStopped) ∧ (s.pw.pwren = true)) ∧
    (∃ (s : State) (cv : Nat), (s.pw.jpower = false) ∧ (3600 ≤ cv) ∧ (cv ≤ 6000)) :=
  ⟨⟨ready, 4900, by decide +kernel⟩,
   ⟨ready, 4600, by decide +kernel⟩,
   ⟨ready, 4300, by decide +kernel⟩,
   ⟨ready, 6100, by decide +kernel⟩,
   ⟨{ ready with on := false, pw := { ready.pw with phase := .inputStopped } }, 5400, [], by decide +kernel⟩,
   ⟨{ State.reset with pw := { State.reset.pw with jpower := false } }, 5400, by decide +kernel⟩⟩

/-- Every hypothesis of ThermalSamples is met somewhere, clause by clause. -/
theorem witness_ThermalSamples :
    (∃ (s : State) (inlet : Int) (outlet : Int), (s.on = true) ∧ (s.th.inletPast = []) ∧ (0 ≤ inlet) ∧ (inlet ≤ 280)) ∧
    (∃ (s : State) (inlet : Int) (outlet : Int), (s.on = true) ∧ (s.th.inletFault = false) ∧ (inlet < 0 ∨ 280 < inlet)) ∧
    (∃ (s : State) (x : StackId) (mw : Nat), (s.on = true) ∧ (s.cdPowered x = true) ∧ ((s.site (tileOfStack x)).on = false) ∧ (300000 < mw)) ∧
    (∃ (s : State) (w : Nat) (cv : Nat), (s.on = true) ∧ (s.pw.rails = false)) ∧
    (∃ (s : State) (w : Nat) (cv : Nat) (x : StackId), (s.on = true) ∧ (s.cdPowered x = true) ∧ (min s.th.capW (150 * cv / 100) < w)) ∧
    (∃ (s : State) (c : SensorId) (v : Int), (s.on = true)) ∧
    (∃ (s : State) (c : SensorId) (n : Nat), (s.on = true)) ∧
    (∃ (s : State) (x : StackId) (p : RegionNo), (s.on = true)) ∧
    (∃ (s : State) (x : StackId) (p : RegionNo), (s.on = true)) ∧
    (∃ (s : State) (h : Fin 16) (v : Int), (s.on = true) ∧ (s.pw.rails = true) ∧ (v < 105)) ∧
    (∃ (s : State) (x : StackId) (p : RegionNo) (n : Nat), (s.on = true) ∧ (kget false s.th.suspect (regionKey x p) = false) ∧
      (kget 0 s.th.hotSince (regionKey x p) = n + 1) ∧ (n + 1000000 ≤ s.now) ∧ (32 < s.raw (.ml x p) - s.sens (.ml x p))) :=
  ⟨⟨ready, 280, 300, by decide +kernel⟩,
   ⟨ready, 281, 0, by decide +kernel⟩,
   ⟨ready, 3, 300001, by decide +kernel⟩,
   ⟨up, 4000, 5400, by decide +kernel⟩,
   ⟨ready, 7501, 5400, 0, by decide +kernel⟩,
   ⟨ready, .ls 5, 200, by decide +kernel⟩,
   ⟨ready, .cd 5 9, 200, by decide +kernel⟩,
   ⟨ready, 0, 99, by decide +kernel⟩,
   ⟨ready, 15, 0, by decide +kernel⟩,
   ⟨ready, 15, 104, by decide +kernel⟩,
   ⟨{ ready with now := 1000007, th := { ready.th with hotSince := [(0, 8)], est := [(2000, 133)] } }, 0, 0, 7, by decide +kernel⟩⟩

/-- Every hypothesis of TripAndRestart is met somewhere, clause by clause. -/
theorem witness_TripAndRestart :
    (∃ (s : State) (n : Fin 16), (s.on = true) ∧ (s.railOn 0 n.val = true) ∧ (s.pw.phase = .ready) ∧ (s.bt.isolated = [])) ∧
    (∃ (s : State) (r : DiodeRead), (s.on = true) ∧ (hasBit s.th.diodeFault r.pair.val = false) ∧ (r.quarter < 440) ∧ (kget 100 s.th.diode r.pair.val < 440) ∧
      (s.pw.phase ≠ .waitCool)) ∧
    (∃ (s : State) (r : DiodeRead), (s.on = true) ∧ (hasBit s.th.diodeFault r.pair.val = false) ∧ (kget 0 s.th.diodeBad r.pair.val = 2) ∧
      (s.pw.phase ≠ .waitCool) ∧ (r.mv < 300 ∨ 900 < r.mv)) ∧
    (∃ (s : State) (c : TripSource) (l : List TripSource), (s.on = true) ∧ (s.pw.tripped = false) ∧ (s.pw.phase ≠ .shutdown)) ∧
    (∃ (s : State), (s.cool30 = true) ∧ (s.pending.any Instr.isPwrenOff = false) ∧ (s.pw.phase = .tripped) ∧ (s.pw.limited = false) ∧ (s.pw.input = .inRange) ∧
      (s.tm.tcxo = true)) :=
  ⟨⟨ready, 7, by decide +kernel⟩,
   ⟨ready, ⟨35, 600, 700, 100000, 439⟩, by decide +kernel⟩,
   ⟨{ ready with th := { ready.th with diodeBad := [(4, 2)] } }, ⟨4, 299, 700, 100000, 439⟩, by decide +kernel⟩,
   ⟨ready, .diode 3, [], by decide +kernel⟩,
   ⟨{ up with now := 30000000000, th := { up.th with coolSince := some 0 }, pw := { up.pw with phase := .tripped, tripped := true } }, by decide +kernel⟩⟩

/-- Every hypothesis of SidebandAndTestPins is met somewhere, clause by clause. -/
theorem witness_SidebandAndTestPins :
    (∃ (s : State), (s.on = true) ∧ (s.pyh.i3cIgnored = false)) ∧
    (∃ (s : State), (s.on = true)) ∧
    (∃ (s : State) (a : BitVec 7), (s.on = true) ∧ (s.pyh.i3cIgnored = false) ∧ (s.pyh.i3cAddr = none)) ∧
    (∃ (s : State) (a : BitVec 7), (s.on = true) ∧ (s.pyh.i3cIgnored = false) ∧ (s.pyh.i3cAddr = none)) ∧
    (∃ (s : State) (ir : JtagIr), (s.on = true) ∧ (ir = .debug → s.pyh.tempDebug = true)) :=
  ⟨⟨ready, by decide +kernel⟩,
   ⟨ready, by decide +kernel⟩,
   ⟨ready, 9, by decide +kernel⟩,
   ⟨ready, 9, by decide +kernel⟩,
   ⟨ready, .bypass, by decide +kernel⟩⟩

/-- Every hypothesis of PortPinsAndLinks is met somewhere, clause by clause. -/
theorem witness_PortPinsAndLinks :
    (∃ (s : State) (t : PortId), (s.on = true)) ∧
    (∃ (s : State) (t : PortId), (s.on = false)) ∧
    (∃ (s : State) (t : PortId), (s.pw.resetN = true) ∧ (s.gatewayPowered t = true) ∧ ((s.port t).isolated = false) ∧ ((s.port t).linkUp = false) ∧
      ((s.port t).powerStable = true)) ∧
    (∃ (s : State) (t : PortId), (s.on = true) ∧ (s.pw.resetN = true) ∧ ((s.port t).isolated = false) ∧ ((s.port t).linkUp = false) ∧
      ((s.port t).clkWarned = false)) ∧
    (∃ (s : State) (t : PortId), (s.on = true) ∧ (s.pw.resetN = true) ∧ ((s.port t).isolated = false) ∧ ((s.port t).linkUp = false) ∧
      ((s.port t).powerStable = false)) ∧
    (∃ (s : State) (t : PortId), (s.pw.pwren = true) ∧ (s.pw.resetN = true) ∧ (s.gatewayPowered t = true) ∧ ((s.port t).isolated = false) ∧
      ((s.port t).linkUp = false) ∧ ((s.port t).perstHigh = true) ∧ ((s.port t).refclk = true)) ∧
    (∃ (s : State) (t : PortId), (s.pw.resetN = true) ∧ (s.gatewayPowered t = true) ∧ ((s.port t).isolated = false) ∧ ((s.port t).linkUp = false) ∧
      ((s.port t).perstHigh = true) ∧ ((s.port t).powerStable = true)) ∧
    (∃ (s : State) (t : PortId), (s.on = true) ∧ ((s.port t).linkUp = true)) ∧
    (∃ (s : State) (t : PortId), (s.pw.resetN = true) ∧ (s.gatewayPowered t = true) ∧ ((s.port t).isolated = false) ∧ ((s.port t).linkUp = true) ∧
      ((s.port t).perstHigh = true) ∧ ((s.port t).powerStable = true) ∧ ((s.port t).refclk = true) ∧ (s.servedBy t = []) ∧ ((s.port t).pendingReads = []) ∧
      (s.ops = []) ∧ (s.ptmOn t = false)) ∧
    (∃ (s : State) (t : PortId), (s.on = true) ∧ ((s.port t).linkUp = true) ∧ ((s.port t).d3 = false)) ∧
    (∃ (s : State) (t : PortId), (s.on = true) ∧ ((s.port t).linkUp = true) ∧ ((s.port t).d3 = true) ∧ (s.servedBy t = [])) ∧
    (∃ (s : State) (t : PortId) (p : PartId), (s.on = true) ∧ ((s.port t).linkUp = true) ∧ ((s.port t).d3 = true) ∧ (s.servedBy t = [p])) ∧
    (∃ (s : State) (t : PortId), ((s.port t).linkUp = true)) ∧
    (∃ (s : State) (t : PortId) (width : Nat) (rate : Nat), (s.on = true) ∧ ((s.port t).training = true) ∧ ((s.port t).linkUp = false) ∧ (s.servedBy t = [])) ∧
    (∃ (s : State) (t : PortId) (width : Nat) (rate : Nat) (p : PartId), (s.on = true) ∧ ((s.port t).training = true) ∧ ((s.port t).linkUp = false) ∧
      (s.servedBy t = [p])) ∧
    (∃ (s : State) (t : PortId) (keys : List Byte), (s.on = true) ∧ ((s.port t).linkUp = true) ∧ ((s.port t).doe.sessions.any (·.finished) = true) ∧
      ((s.port t).ide ≠ 2)) ∧
    (∃ (s : State) (t : PortId), (s.on = true) ∧ ((s.port t).linkUp = true) ∧ ((s.port t).ide = 1) ∧ (s.servedBy t = []) ∧ (s.ptmOn t = false)) :=
  ⟨⟨ready, 2, by decide +kernel⟩,
   ⟨State.reset, 1, by decide +kernel⟩,
   ⟨ready.modPort 3 (fun q => { q with powerStable := true }), 3, by decide +kernel⟩,
   ⟨ready.modPort 3 (fun q => { q with powerStable := true }), 3, by decide +kernel⟩,
   ⟨ready, 0, by decide +kernel⟩,
   ⟨ready.modPort 0 (fun q => { q with trainPending := true, perstHigh := true }), 0, by decide +kernel⟩,
   ⟨ready.modPort 1 (fun q => { q with idleNoClk := true, perstHigh := true, powerStable := true, refclk := false }), 1, by decide +kernel⟩,
   ⟨host, 2, by decide +kernel⟩,
   ⟨ready.modPort 1 (fun q => { q with linkUp := true, perstHigh := true, powerStable := true }), 1, by decide +kernel⟩,
   ⟨ready.modPort 2 (fun q => { q with linkUp := true }), 2, by decide +kernel⟩,
   ⟨ready.modPort 2 (fun q => { q with linkUp := true, d3 := true }), 2, by decide +kernel⟩,
   ⟨(ready.modPort 2 (fun q => { q with linkUp := true, d3 := true })).modPart 4 (fun b => { b with block := .committed, shape := 2 <<< 32 }), 2, 4, by decide +kernel⟩,
   ⟨ready.modPort 2 (fun q => { q with linkUp := true, ide := 1 }), 2, by decide +kernel⟩,
   ⟨ready.modPort 2 (fun q => { q with perstHigh := true, training := true }), 2, 8, 5, by decide +kernel⟩,
   ⟨(ready.modPort 2 (fun q => { q with training := true })).modPart 4 (fun b => { b with block := .committed, shape := 2 <<< 32 }), 2, 8, 5, 4, by decide +kernel⟩,
   ⟨ready.modPort 2 (fun q => { q with linkUp := true, doe := { sessions := [{ id := 1, finished := true, peer := none, maintainer := false, keyGen := 0 }] } }), 2, [7], by decide +kernel⟩,
   ⟨ready.modPort 2 (fun q => { q with linkUp := true, ide := 1 }), 2, by decide +kernel⟩⟩

/-- Every hypothesis of HostAccess is met somewhere, clause by clause. -/
theorem witness_HostAccess :
    (∃ (s : State) (t : PortId) (v : BitVec 32), (s.on = true) ∧ ((s.port t).linkUp = true)) ∧
    (∃ (s : State) (t : PortId) (v : BitVec 32), (s.on = true) ∧ ((s.port t).linkUp = true)) ∧
    (∃ (s : State) (t : PortId) (n : Fin 4) (base : BitVec 64) (size : BitVec 64) (skip : BitVec 64), (s.on = true) ∧ ((s.port t).linkUp = true)) ∧
    (∃ (s : State) (t : PortId) (n : Fin 4) (base : BitVec 64) (size : BitVec 64) (skip : BitVec 64) (ways : Nat), (s.on = true) ∧ ((s.port t).linkUp = true) ∧
      (ways ≠ 1)) ∧
    (∃ (s : State) (t : PortId) (tag : Nat) (dpa : Nat) (hpa : BitVec 64) (p : PartId), (s.on = true) ∧ (s.hostUp t = true) ∧
      (dpaOf ((List.range 4).map fun n => kget {} (s.port t).decoders n) 0 hpa.toNat = some dpa) ∧ (dpa < 2 ^ 45) ∧ (dpa / 2 ^ 41 = p.val) ∧
      ((s.part p).block = .committed) ∧ ((s.part p).servPort = t)) ∧
    (∃ (s : State) (t : PortId) (tag : Nat) (dpa : Nat) (hpa : BitVec 64) (be : BitVec 64) (d : List Byte) (p : PartId), (s.on = true) ∧ (s.hostUp t = true) ∧
      (dpaOf ((List.range 4).map fun n => kget {} (s.port t).decoders n) 0 hpa.toNat = some dpa) ∧ (dpa < 2 ^ 45) ∧ (dpa / 2 ^ 41 = p.val) ∧
      ((s.part p).block = .committed) ∧ ((s.part p).servPort = t)) ∧
    (∃ (s : State) (t : PortId) (tag : Nat) (hpa : BitVec 64), (s.on = true) ∧ (s.hostUp t = true) ∧
      (dpaOf ((List.range 4).map fun n => kget {} (s.port t).decoders n) 0 hpa.toNat = none)) ∧
    (∃ (s : State) (t : PortId) (tag : Nat) (f : Nat) (o : RemOp), (s.ops = [o]) ∧ (o.issuer = .mem t tag) ∧ (o.kind = .load) ∧ (o.first = some f) ∧
      (f + 100000 ≤ s.copyNow (gwEp t))) ∧
    (∃ (s : State) (t : PortId), (s.on = true) ∧ (s.hostUp t = true)) :=
  ⟨⟨ready.modPort 2 (fun q => { q with linkUp := true }), 2, 7, by decide +kernel⟩,
   ⟨ready.modPort 2 (fun q => { q with linkUp := true }), 2, 0xFFFFFFFF, by decide +kernel⟩,
   ⟨ready.modPort 2 (fun q => { q with linkUp := true }), 2, 3, 0, 0x1000, 0, by decide +kernel⟩,
   ⟨ready.modPort 2 (fun q => { q with linkUp := true }), 2, 3, 0, 0x1000, 0, 2, by decide +kernel⟩,
   ⟨host, 2, 9, 1 * 2 ^ 41 + 0x80, 2 ^ 41 + 0x80, 1, by decide +kernel⟩,
   ⟨host, 2, 9, 1 * 2 ^ 41 + 0x80, 2 ^ 41 + 0x80, 0xFF, [], 1, by decide +kernel⟩,
   ⟨host, 2, 9, 2 ^ 60, by decide +kernel⟩,
   ⟨{ host with now := 100000, ops := [{ kind := .load, issuer := .mem 2 9, snd := 26, part := 1, first := some 0 }] }, 2, 9, 0, { kind := .load, issuer := .mem 2 9, snd := 26, part := 1, first := some 0 }, by decide +kernel⟩,
   ⟨host, 2, by decide +kernel⟩⟩

/-- Every hypothesis of DieReturnAndTakeover is met somewhere, clause by clause. -/
theorem witness_DieReturnAndTakeover :
    (∃ (s : State) (x : StackId) (r : StepResult), (s.on = true) ∧ ((0x01, x.val) ∈ s.bt.isolated) ∧ ((0x01, x.val) ∉ s.bt.stayOut) ∧
      ((0x03, x.val / 4) ∉ s.bt.isolated) ∧ (r.checks = [])) ∧
    (∃ (s : State) (k : Fin 8) (r : StepResult), (s.on = true) ∧ ((0x04, 16 + k.val) ∈ s.bt.isolated) ∧ ((0x04, 16 + k.val) ∉ s.bt.stayOut) ∧
      (s.partnerUp r (.mp k) = true) ∧ (r.checks = [])) ∧
    (∃ (s : State) (t : TileId) (r : StepResult), (s.on = true) ∧ ((0x0C, t.val) ∈ s.bt.isolated) ∧ ((0x0C, t.val) ∉ s.bt.stayOut) ∧ (r.checks = [])) ∧
    (∃ (s : State) (d : DieId) (r : StepResult), (s.on = true) ∧ (dieClass d ∈ s.bt.stayOut)) ∧
    (∃ (s : State) (e : EpId), (s.on = true) ∧ ((s.ep e).isolated = false) ∧ ((s.ep e).standbyOk = true)) ∧
    (∃ (s : State) (e : EpId), (s.on = true) ∧ ((s.ep e).isolated = false) ∧ ((s.ep e).standbyOk = false)) :=
  ⟨⟨{ ready with bt := { ready.bt with isolated := [(1, 9)] } }, 9, {}, by decide +kernel⟩,
   ⟨{ recd with bt := { recd.bt with isolated := [(4, 23)] } }, 7, met (.mp 7), by decide +kernel⟩,
   ⟨{ ready with bt := { ready.bt with isolated := [(12, 1)] } }, 1, {}, by decide +kernel⟩,
   ⟨{ ready with bt := { ready.bt with stayOut := [(4, 23)] } }, .mp 7, {}, by decide +kernel⟩,
   ⟨ready.modEp 5 (fun e => { e with standbyOk := true }), 5, by decide +kernel⟩,
   ⟨ready, 24, by decide +kernel⟩⟩

/-- Every hypothesis of ReferenceSamples is met somewhere, clause by clause. -/
theorem witness_ReferenceSamples :
    (∃ (s : State) (l : Nat) (rate : Int), (s.on = true) ∧ (s.tm.source ≠ 5) ∧ (s.tm.ppsLast = some l) ∧ (500000000 ≤ s.now - l) ∧ (s.now - l ≤ 3000000000)) ∧
    (∃ (s : State) (l : Nat) (rate : Int), (s.on = true) ∧ (s.tm.source ≠ 5) ∧ (s.tm.ppsOk = true) ∧ (s.tm.ppsLast = some l) ∧ (s.now < l + 500000000)) ∧
    (∃ (s : State) (l : Nat), (s.on = true) ∧ (s.tm.ppsOk = true) ∧ (s.tm.source ≠ 5) ∧ (s.tm.ppsLast = some l) ∧ (l + 3000000000 ≤ s.now)) ∧
    (∃ (s : State) (t : PortId) (d : Ptm), (s.on = true) ∧ (s.tm.source.toNat = t.val + 1) ∧ ((s.port t).linkUp = true) ∧ (s.tm.ptmAt + 10000000 ≤ s.now) ∧
      (s.tm.tcxo = true) ∧ (d.answered = false ∨ 2000 < d.roundTripNs)) ∧
    (∃ (s : State) (t : PortId) (d : Ptm), (s.on = true) ∧ (s.tm.source.toNat = t.val + 1) ∧ ((s.port t).linkUp = true) ∧ (s.tm.ptmAt + 10000000 ≤ s.now) ∧
      (s.tm.tcxo = true) ∧ (d.answered = true) ∧ (d.roundTripNs ≤ 2000) ∧ (d.rateMilliPpm.natAbs ≤ 20000) ∧ (s.tm.locked1 = true) ∧
      ((d.refNs - (s.now + s.tm.offset)).natAbs ≤ 10000)) ∧
    (∃ (s : State) (t : PortId) (d : Ptm), (s.on = true) ∧ (s.tm.source.toNat = t.val + 1) ∧ ((s.port t).linkUp = true) ∧ (s.tm.ptmAt + 10000000 ≤ s.now) ∧
      (s.tm.tcxo = true) ∧ (d.answered = true) ∧ (d.roundTripNs ≤ 2000) ∧ (d.rateMilliPpm.natAbs ≤ 20000) ∧ (s.tm.locked1 = true) ∧
      (10000 < (d.refNs - (s.now + s.tm.offset)).natAbs)) ∧
    (∃ (s : State) (f : Nat), (s.on = true) ∧ (s.tm.lock = .locked ∨ s.tm.lock = .acquire) ∧ (s.tm.ptmFail = some f) ∧ (f + 100000000 ≤ s.now)) :=
  ⟨⟨{ ready with now := 1000000000, tm := { ready.tm with ppsLast := some 0, ppsGood := 2 } }, 0, 0, by decide +kernel⟩,
   ⟨{ ready with tm := { ready.tm with ppsLast := some 0, ppsOk := true } }, 0, 0, by decide +kernel⟩,
   ⟨{ ready with now := 3000000000, tm := { ready.tm with ppsLast := some 0, ppsOk := true } }, 0, by decide +kernel⟩,
   ⟨{ host with now := 10000000, tm := { ready.tm with source := 3 } }, 2, ⟨true, 2001, 0, 0⟩, by decide +kernel⟩,
   ⟨{ host with now := 10000000, tm := { ready.tm with source := 3, locked1 := true } }, 2, ⟨true, 2000, 10010000, 20000⟩, by decide +kernel⟩,
   ⟨{ host with now := 10000000, tm := { ready.tm with source := 3, locked1 := true } }, 2, ⟨true, 2000, 10010001, 0⟩, by decide +kernel⟩,
   ⟨{ ready with now := 100000000, tm := { ready.tm with lock := .locked, ptmFail := some 0 } }, 0, by decide +kernel⟩⟩

/-- Every hypothesis of SyncCopies is met somewhere, clause by clause. -/
theorem witness_SyncCopies :
    (∃ (s : State), (s.on = true) ∧ ((s.ep 28).isolated = false) ∧ ((s.ep 28).lastSync + 1000 ≤ s.now) ∧ ((s.ep 28).holdWarned = false) ∧ (s.copyNow 28 = s.now) ∧
      (0 ≤ (s.ep 28).delta)) ∧
    (∃ (s : State) (a : Arr) (count : Nat) (d : Nat), (s.hears a) ∧ (a.turnpike = true) ∧ ((s.ep a.rx).delay = some d) ∧ ((s.ep a.rx).synced = false) ∧
      ((s.ep a.rx).holdWarned = false) ∧ (16 ≤ a.rx.val)) ∧
    (∃ (s : State) (a : Arr) (count : Nat) (d : Nat), (s.hears a) ∧ (a.turnpike = true) ∧ ((s.ep a.rx).delay = some d) ∧ ((s.ep a.rx).synced = true) ∧
      ((s.ep a.rx).holdWarned = false) ∧ (16 ≤ a.rx.val) ∧ (s.copyNow a.rx + 8 < count + d)) ∧
    (∃ (s : State) (a : Arr) (count : Nat) (d : Nat), (s.hears a) ∧ (a.turnpike = true) ∧ ((s.ep a.rx).delay = some d) ∧ ((s.ep a.rx).synced = true) ∧
      ((s.ep a.rx).holdWarned = false) ∧ (16 ≤ a.rx.val) ∧ (s.copyNow a.rx = count + d + 1)) ∧
    (∃ (s : State) (a : Arr) (count : Nat), (s.hears a) ∧ (a.turnpike = true) ∧ ((s.ep a.rx).delay = none)) ∧
    (∃ (s : State) (a : Arr) (k : Nat), (s.hears a) ∧ (a.turnpike = true)) ∧
    (∃ (s : State) (a : Arr) (t1 : Nat) (t2 : Nat), (s.hears a)) ∧
    (∃ (s : State) (e : EpId), (s.on = true) ∧ ((s.ep e).synced = true) ∧ ((s.ep e).holdWarned = false) ∧ ((s.ep e).lastSync + 100000 ≤ s.now)) :=
  ⟨⟨{ ready with now := 1000 }, by decide +kernel⟩,
   ⟨ready.modEp 29 (fun e => { e with delay := some 20 }), { arr 28 29 with turnpike := true }, 7, 20, by decide +kernel⟩,
   ⟨ready.modEp 29 (fun e => { e with delay := some 20, synced := true }), { arr 28 29 with turnpike := true }, 7, 20, by decide +kernel⟩,
   ⟨{ ready with now := 28 }.modEp 29 (fun e => { e with delay := some 20, synced := true }), { arr 28 29 with turnpike := true }, 7, 20, by decide +kernel⟩,
   ⟨ready, { arr 28 5 with turnpike := true }, 7, by decide +kernel⟩,
   ⟨ready, { arr 5 28 with turnpike := true }, 7, by decide +kernel⟩,
   ⟨{ ready with now := 40 }, arr 28 5, 7, 20, by decide +kernel⟩,
   ⟨{ ready with now := 100000 }.modEp 3 (fun e => { e with synced := true }), 3, by decide +kernel⟩⟩

/-- Every hypothesis of ClockMonitors is met somewhere, clause by clause. -/
theorem witness_ClockMonitors :
    (∃ (s : State) (x : StackId) (p : RegionNo), (s.running x p = true) ∧ (s.meshNow x p = false)) ∧
    (∃ (s : State) (x : StackId) (p : RegionNo) (m : Int) (f : Int) (l : List Int), (s.running x p = true) ∧ (l.foldl min f = m) ∧
      (4000 ≤ m ∨ (s.region x p).vcd ≠ 900)) ∧
    (∃ (s : State) (x : StackId) (p : RegionNo) (m : Int) (f : Int) (l : List Int), (s.running x p = true) ∧ (l.foldl min f = m) ∧ (s.meshNow x p = false) ∧
      (m < 4000) ∧ ((s.region x p).vcd = 900) ∧ (1550 ≤ (s.region x p).maxMhz)) ∧
    (∃ (s : State) (t : TileId), (s.on = true) ∧ (s.pw.rails = true) ∧ (s.pw.phase = .ready) ∧ (s.ops = [])) ∧
    (∃ (s : State) (x : StackId) (p : RegionNo), (s.running x p = true) ∧ (s.meshNow x p = false) ∧ (s.partOfStack x = none) ∧ ((s.stack x).meshLost = false)) ∧
    (∃ (s : State) (x : StackId), (s.on = true) ∧ (s.pw.rails = true) ∧ (∀ p : RegionNo, s.meshNow x p = false)) ∧
    (∃ (s : State), (s.on = true) ∧ (s.tm.tcxo = true) ∧ (s.pw.phase = .ready)) ∧
    (∃ (s : State), (s.on = true) ∧ (s.tm.tcxo = false) ∧ (s.tm.tcxoStay = false)) ∧
    (∃ (s : State), (s.pw.phase = .tcxoLost) ∧ (s.tm.tcxo = true) ∧ (s.tm.tcxoStay = false)) :=
  ⟨⟨mapped, 2, 95, by decide +kernel⟩,
   ⟨mapped, 2, 95, 4000, 4100, [4000, 5000], by decide +kernel⟩,
   ⟨mapped.modRegion 2 95 (fun r => { r with vcd := 900 }), 2, 95, 3999, 4100, [3999, 5000], by decide +kernel⟩,
   ⟨ready, 2, by decide +kernel⟩,
   ⟨mapped, 2, 95, by decide +kernel⟩,
   ⟨ready, 2, by decide +kernel⟩,
   ⟨ready, by decide +kernel⟩,
   ⟨{ ready with tm := { ready.tm with tcxo := false } }, by decide +kernel⟩,
   ⟨{ ready with pw := { ready.pw with phase := .tcxoLost } }, by decide +kernel⟩⟩

/-- Every hypothesis of RegionSleep is met somewhere, clause by clause. -/
theorem witness_RegionSleep :
    (∃ (s : State) (x : StackId) (p : RegionNo), (s.running x p = true) ∧ (∀ c, s.logOf x p = some c → s.clusterBusy x c = false) ∧ (s.trafficFor x p = false) ∧
      (s.partOfStack x = none) ∧ ((s.region x p).clearing = false) ∧ ((s.region x p).lastUse + 10000 ≤ s.now)) ∧
    (∃ (s : State) (x : StackId) (p : RegionNo), (s.on = true) ∧ ((s.region x p).depth = .clockStopped) ∧ ((s.region x p).stopAt + 1000000 ≤ s.now) ∧
      (s.partOfStack x = none) ∧ ((s.region x p).arrived = false) ∧ (s.trafficFor x p = false)) ∧
    (∃ (s : State) (x : StackId) (p : RegionNo), ((s.region x p).arrived = true ∨ s.trafficFor x p = true)) ∧
    (∃ (s : State) (x : StackId) (p : RegionNo) (c : WakeCheck), (s.mayWake x p = true) ∧ ((s.region x p).depth = .ramping)) ∧
    (∃ (s : State) (x : StackId) (p : RegionNo) (c : WakeCheck), (s.mayWake x p = true) ∧ ((s.region x p).depth = .clockStopped) ∧
      ((s.ep (stackEp x)).stalled = []) ∧ ((s.region x p).rx.entries = []) ∧ ((s.region x p).dma = [])) ∧
    (∃ (s : State) (x : StackId) (p : RegionNo) (c : WakeCheck), (s.mayWake x p = true) ∧ ((s.region x p).depth = .poweredOff) ∧
      ((s.region x p).wakeFailed = false) ∧ (c.prbsErrors ≠ 0) ∧ (s.partOfStack x = none)) ∧
    (∃ (s : State) (x : StackId) (p : RegionNo) (c : WakeCheck), ((s.region x p).depth = .ramping) ∧ ((s.region x p).arrived = false) ∧ (s.logOf x p = none)) ∧
    (∃ (s : State) (x : StackId) (p : RegionNo) (c : WakeCheck), ((s.region x p).depth = .ramping) ∧ ((s.region x p).arrived = true) ∧
      ((s.region x p).wakeFailed = false) ∧ (s.logOf x p = none) ∧ (c.prbsErrors = 0)) :=
  ⟨⟨{ mapped with now := 10000 }, 2, 95, by decide +kernel⟩,
   ⟨{ mapped with now := 1000000 }.modRegion 2 95 (fun r => { r with depth := .clockStopped }), 2, 95, by decide +kernel⟩,
   ⟨{ mapped with now := 1000000 }.modRegion 2 95 (fun r => { r with depth := .clockStopped, arrived := true }), 2, 95, by decide +kernel⟩,
   ⟨mapped.modRegion 2 95 (fun r => { r with depth := .ramping }), 2, 95, ⟨5000, 2100, true, 0, 4⟩, by decide +kernel⟩,
   ⟨mapped.modRegion 2 95 (fun r => { r with depth := .clockStopped }), 2, 95, ⟨5000, 2100, true, 0, 4⟩, by decide +kernel⟩,
   ⟨mapped.modRegion 2 95 (fun r => { r with depth := .poweredOff }), 2, 95, ⟨5000, 2100, true, 1, 4⟩, by decide +kernel⟩,
   ⟨ready.modRegion 2 99 (fun r => { r with depth := .ramping }), 2, 99, ⟨5000, 2100, true, 0, 4⟩, by decide +kernel⟩,
   ⟨ready.modRegion 2 99 (fun r => { r with depth := .ramping, arrived := true }), 2, 99, ⟨5000, 2100, true, 0, 4⟩, by decide +kernel⟩⟩

/-- Every hypothesis of StartupAndBeacons is met somewhere, clause by clause. -/
theorem witness_StartupAndBeacons :
    (∃ (s : State) (k : Fin 12) (r : StepResult), (s.pw.phase = .starting) ∧ (hasBit s.bt.busy k.val = true) ∧ (hasBit s.bt.repeated k.val = false) ∧
      (s.stepFailed r k.val = true) ∧ (k ∈ ([5, 6, 8, 9, 10] : List (Fin 12)))) ∧
    (∃ (s : State) (r : StepResult), (s.pw.phase = .starting) ∧ (hasBit s.bt.busy 1 = true) ∧ (s.bt.firstTry = []) ∧ (r.tiles = [])) ∧
    (∃ (s : State) (r : StepResult), (s.pw.phase = .starting) ∧ (hasBit s.bt.busy 3 = true) ∧ (s.bt.firstTry = []) ∧ (r.tiles = []) ∧ (r.identityOk = false)) ∧
    (∃ (s : State) (r : StepResult), (s.pw.phase = .starting) ∧ (hasBit s.bt.busy 4 = true) ∧ (s.bt.firstTry = []) ∧ (r.tiles = [])) ∧
    (∃ (s : State) (r : StepResult), (s.pw.phase = .starting) ∧ (hasBit s.bt.busy 11 = true) ∧ (s.bt.firstTry = []) ∧ (r.tiles = [])) ∧
    (∃ (s : State) (e : EpId), (s.on = true) ∧ (s.pw.phase = .ready) ∧ ((s.ep e).inService = true) ∧ ((s.ep e).isolated = false)) ∧
    (∃ (s : State) (a : Arr) (k : BitVec 8), (s.hears a)) ∧
    (∃ (s : State) (e : EpId) (o : EpId), (s.on = true) ∧ (s.pw.phase = .ready) ∧ (e ≠ o) ∧ ((s.ep e).isolated = false) ∧ (hasBit (s.ep e).lost o.val = false) ∧
      (kget 0 (s.ep e).lastBeacon o.val + 3000 ≤ s.now) ∧ (s.ops = [])) :=
  ⟨⟨{ ready with pw := { ready.pw with phase := .starting }, bt := { ready.bt with busy := 0x100 } }, 8, { stks := [3] }, by decide +kernel⟩,
   ⟨{ ready with pw := { ready.pw with phase := .starting }, bt := { ready.bt with busy := 2 } }, {}, by decide +kernel⟩,
   ⟨{ ready with pw := { ready.pw with phase := .starting }, bt := { ready.bt with busy := 8 } }, { identityOk := false }, by decide +kernel⟩,
   ⟨{ ready with pw := { ready.pw with phase := .starting }, bt := { ready.bt with busy := 16 } }, {}, by decide +kernel⟩,
   ⟨{ ready with pw := { ready.pw with phase := .starting }, bt := { ready.bt with busy := 0x800 } }, {}, by decide⟩,
   ⟨ready.modEp 3 (fun e => { e with inService := true }), 3, by decide +kernel⟩,
   ⟨{ ready with now := 9 }.modEp 3 (fun e => { e with lost := 32 }), arr 5 3, 1, by decide +kernel⟩,
   ⟨{ ready with now := 3000 }, 3, 5, by decide +kernel⟩⟩

/-- Every hypothesis of PageCommands is met somewhere, clause by clause. -/
theorem witness_PageCommands :
    (∃ (s : State) (t : PortId) (p : PartId) (first : BitVec 21) (count : BitVec 21), (s.barUp t = true) ∧ (t ≠ s.pw.steward) ∧ ((s.port t).refuseTick = none)) ∧
    (∃ (s : State) (t : PortId) (p : PartId) (first : BitVec 21), (s.barUp t = true) ∧ (t = s.pw.steward) ∧ ((s.part p).block = .configuring) ∧
      ((s.part p).abandoning = false) ∧ ((s.part p).pageSt ≠ 1)) ∧
    (∃ (s : State) (t : PortId) (p : PartId) (first : BitVec 21) (count : BitVec 21) (recs : List (Nat × BitVec 64)), (s.barUp t = true) ∧ (t = s.pw.steward) ∧
      ((s.part p).block = .configuring ∨ (s.part p).block = .committed) ∧ ((s.part p).abandoning = false) ∧ ((s.part p).pageSt ≠ 1) ∧ (s.loaderDown = false) ∧
      (0 < count.toNat ∧ count.toNat ≤ 2 ^ 20 ∧ first.toNat + count.toNat ≤ 2 ^ 21) ∧ (s.pageCheck p false first.toNat count.toNat = .ok recs) ∧
      (0 < recs.length ∧ recs.length ≤ 4096)) ∧
    (∃ (s : State) (t : PortId) (p : PartId) (first : BitVec 21) (count : BitVec 21) (recs : List (Nat × BitVec 64)), (s.barUp t = true) ∧ (t = s.pw.steward) ∧
      ((s.part p).block = .configuring ∨ (s.part p).block = .committed) ∧ ((s.part p).abandoning = false) ∧ ((s.part p).pageSt ≠ 1) ∧ (s.loaderDown = false) ∧
      (0 < count.toNat ∧ count.toNat ≤ 2 ^ 20 ∧ first.toNat + count.toNat ≤ 2 ^ 21) ∧ (s.pageCheck p true first.toNat count.toNat = .ok recs) ∧
      (0 < recs.length ∧ recs.length ≤ 4096)) ∧
    (∃ (s : State) (b : Batch) (l : List Batch) (p : PartId) (last : Bool), (s.on = true) ∧ (s.loaderDown = false) ∧ (s.pm.lastAccept = none) ∧
      (s.pm.waiting = b :: l) ∧ (b.src = .auto p last)) ∧
    (∃ (s : State) (a : Arr) (u : Nat) (recs : List (Nat × BitVec 64)), (s.hears a)) ∧
    (∃ (s : State) (n : Nat) (u : Nat) (e : BitVec 64) (p : PartId) (l : List Batch) (k : TileId),
      (s.pm.accepted = { src := .auto p false, flip := false, recs := [(n, e)], u := some u } :: l) ∧ (u ≤ s.now) ∧ (hasBit s.pm.repDown k.val = false)) :=
  ⟨⟨host, 2, 7, 0, 1, by decide +kernel⟩,
   ⟨stewUp.modPart 7 (fun b => { b with block := .configuring }), 0, 7, 0, by decide +kernel⟩,
   ⟨stewUp.modPart 7 (fun b => { b with block := .configuring }), 0, 7, 5, 1, [(5, assignEntry 7 0)], by decide, by decide, by decide, by decide, by decide, by decide, by decide, rfl, by decide⟩,
   ⟨{ stewUp with pm := { rep0 := [(5, assignEntry 7 0)] } }.modPart 7 (fun b => { b with block := .configuring }), 0, 7, 5, 1, [(5, 0)], by decide, by decide, by decide, by decide, by decide, by decide, by decide, rfl, by decide⟩,
   ⟨{ ready with pm := { waiting := [{ src := .auto 3 true, flip := false, recs := [(5, 0)] }] } }, { src := .auto 3 true, flip := false, recs := [(5, 0)] }, [], 3, true, by decide +kernel⟩,
   ⟨ready, arr 28 29, 2000, [(5, 0)], by decide +kernel⟩,
   ⟨{ ready with pm := { accepted := [{ src := .auto 3 false, flip := false, recs := [(5, 7)], u := some 0 }] } }, 5, 0, 7, 3, [], 2, by decide +kernel⟩⟩

/-- Every hypothesis of FramesAndReplicas is met somewhere, clause by clause. -/
theorem witness_FramesAndReplicas :
    (∃ (s : State) (f : Nat) (key : Nat), ((s.pm.quar.any fun q => q.1 = f && q.2.1 ≤ s.now) = true)) ∧
    (∃ (s : State) (h : Fin 16), (s.on = true) ∧ ((s.parts.any fun c => c.2.kernel.isSome || (c.2.bundle.isSome && c.2.work ≠ .stopped)) = false) ∧
      (kget 0 (s.die (dieOfHbm h)).lastAccess (h.val % 2) + 1000000 ≤ s.now)) ∧
    (∃ (s : State), (s.pm.rebuilding = true) ∧ (hasBit s.pm.repDown 0 = false) ∧ (s.pyh.bindWait = [])) ∧
    (∃ (s : State) (t : TileId), (s.on = true) ∧ (t ≠ 0) ∧ (hasBit s.pm.copying t.val = true) ∧ (hasBit s.pm.repDown 0 = false)) :=
  ⟨⟨{ ready with hbm := [(9, 1)], pm := { quar := [(0, 0, 1)], layouts := [(0, 1)], frames := [(0, .quarantined)] } }, 0, 9, by decide +kernel⟩,
   ⟨{ ready with now := 1000000 }.modDie 3 (fun d => { d with selfRef := 0 }), 7, by decide +kernel⟩,
   ⟨{ ready with pm := { rebuilding := true } }, by decide +kernel⟩,
   ⟨{ ready with pm := { copying := 4, repDown := 4 } }, 2, by decide +kernel⟩⟩

/-- Every hypothesis of PartitionCommit is met somewhere, clause by clause. -/
theorem witness_PartitionCommit :
    (∃ (s : State) (t : PortId) (p : PartId) (table : List Byte) (st : BitVec 8), (s.barUp t = true) ∧ (t = s.pw.steward) ∧ ((s.part p).block = .configuring) ∧
      ((s.part p).abandoning = false) ∧ (s.stewardMoves = false) ∧ (s.commitCheck p table (s.takenBefore p) = some st)) ∧
    (∃ (s : State) (t : PortId) (p : PartId) (table : List Byte) (rs : KMap Ring × KMap CRing), (s.barUp t = true) ∧ (t = s.pw.steward) ∧
      ((s.part p).block = .configuring) ∧ ((s.part p).abandoning = false) ∧ (s.stewardMoves = false) ∧ (s.commitCheck p table (s.takenBefore p) = none) ∧
      (ringTable table = some rs) ∧ (s.still)) ∧
    (∃ (s : State) (p : PartId) (r1 : StepResult) (r2 : StepResult), ((s.part p).block = .committed) ∧ ((s.part p).commitSt = 1) ∧
      (s.hostUp (s.part p).servPort = true) ∧ (s.allAwake p = true) ∧ (∀ x ∈ s.stacksOf p, ∀ q : RegionNo, (s.region x q).wakeFailed = false)) ∧
    (∃ (s : State) (p : PartId), (s.on = true) ∧ ((s.part p).block = .committed) ∧ ((s.part p).commitSt = 2) ∧ ((s.part p).hbNext ≤ s.copyNow (s.gwOf p)) ∧
      (s.hostUp (s.part p).servPort = true)) ∧
    (∃ (s : State) (t : PortId) (p : PartId), (s.barUp t = true) ∧ (t = (s.part p).servPort) ∧ ((s.part p).block = .committed)) :=
  ⟨⟨stewUp.modPart 7 (fun b => { b with block := .configuring, shape := 1 }), 0, 7, [], 0x11, by decide +kernel⟩,
   ⟨conf, 0, 7, [], ([], []), by decide +kernel⟩,
   ⟨host.modPart 1 (fun b => { b with commitSt := 1 }), 1, {}, {}, by decide +kernel⟩,
   ⟨host.modPart 1 (fun b => { b with commitSt := 2 }), 1, by decide +kernel⟩,
   ⟨host, 2, 1, by decide +kernel⟩⟩

/-- Every hypothesis of PartitionEnds is met somewhere, clause by clause. -/
theorem witness_PartitionEnds :
    (∃ (s : State) (t : PortId) (p : PartId), (s.barUp t = true) ∧ (t = s.pw.steward) ∧ ((s.part p).block = .configuring) ∧ ((s.part p).abandoning = false) ∧
      ((s.part p).pageSt ≠ 1) ∧ (s.pagesOf p = [])) ∧
    (∃ (s : State) (t : PortId) (p : PartId), (s.barUp t = true) ∧ (t = s.pw.steward) ∧ ((s.part p).block = .configuring) ∧ ((s.part p).abandoning = false) ∧
      ((s.part p).pageSt = 1)) ∧
    (∃ (s : State) (t : PortId) (p : PartId), (s.barUp t = true) ∧ (t = s.pw.steward) ∧ ((s.part p).block = .committed) ∧ ((s.part p).tearStep = 0) ∧
      ((s.part p).pageSt = 1)) ∧
    (∃ (s : State) (t : PortId) (p : PartId), (s.barUp t = true) ∧ (t = s.pw.steward) ∧ ((s.part p).block = .committed) ∧ ((s.part p).tearStep = 0) ∧
      ((s.part p).pageSt ≠ 1)) ∧
    (∃ (s : State) (p : PartId), ((s.part p).block = .tearing) ∧ ((s.part p).tearStep = 4)) ∧
    (∃ (s : State) (t : PortId) (p : PartId), (s.barUp t = true) ∧ (t = s.pw.steward ∨ t = (s.part p).servPort) ∧ ((s.part p).block = .committed) ∧
      ((s.part p).work = .stopped) ∧ (s.tearsNow p = false)) ∧
    (∃ (s : State) (t : PortId) (p : PartId), (s.barUp t = true) ∧ (t = s.pw.steward) ∧ ((s.part p).block ≠ .committed)) ∧
    (∃ (s : State) (p : PartId) (r1 : StepResult) (r2 : StepResult), ((s.part p).block = .committed) ∧ ((s.part p).work = .resetting) ∧
      (((s.stacksOf p).any fun x => (s.ep (stackEp x)).inService && !(s.ep (stackEp x)).synced) = false)) :=
  ⟨⟨conf, 0, 7, by decide +kernel⟩,
   ⟨conf.modPart 7 (fun b => { b with pageSt := 1 }), 0, 7, by decide +kernel⟩,
   ⟨host.modPart 1 (fun b => { b with pageSt := 1 }), 0, 1, by decide +kernel⟩,
   ⟨host, 0, 1, by decide +kernel⟩,
   ⟨host.modPart 1 (fun b => { b with block := .tearing, tearStep := 4 }), 1, by decide +kernel⟩,
   ⟨host.modPart 1 (fun b => { b with work := .stopped, cause := 3 }), 2, 1, by decide +kernel⟩,
   ⟨stewUp, 0, 1, by decide +kernel⟩,
   ⟨host.modPart 1 (fun b => { b with work := .resetting }), 1, {}, {}, by decide +kernel⟩⟩

/-- Every hypothesis of IntegerInstructions is met somewhere, clause by clause. -/
theorem witness_IntegerInstructions :
    (∃ (s : State) (u : Cv) (f : FA), (okInt f (mdU2 ||| mdUns ||| mdSat) = true) ∧ (f.mods.getLsbD 7 = false) ∧ (s.canIssue u (intRegs f))) ∧
    (∃ (s : State) (u : Cv) (f : FA), (okInt f (mdU2 ||| mdUns ||| mdSat) = true) ∧ (f.mods.getLsbD 7 = true) ∧ (f.mods.getLsbD 8 = false) ∧
      (s.canIssue u (intRegs f))) ∧
    (∃ (s : State) (u : Cv) (f : FA), (okInt f (mdU2 ||| mdUns ||| mdSat) = true) ∧ (f.mods.getLsbD 7 = true) ∧ (f.mods.getLsbD 8 = true) ∧
      (s.canIssue u (intRegs f))) ∧
    (∃ (s : State) (u : Cv) (f : FB), (okIntImm f false = true) ∧ (s.canIssue u [f.dest.toNat, f.src1.toNat])) ∧
    (∃ (s : State) (u : Cv) (f : FA), (okInt f (mdU2 ||| mdUns ||| mdSat) = true) ∧ (f.mods.getLsbD 7 = false) ∧ (s.canIssue u (intRegs f))) ∧
    (∃ (s : State) (u : Cv) (f : FA), (okInt f (mdU2 ||| mdUns ||| mdSat) = true) ∧ (f.mods.getLsbD 7 = true) ∧ (f.mods.getLsbD 8 = false) ∧
      (s.canIssue u (intRegs f))) ∧
    (∃ (s : State) (u : Cv) (f : FA), (okInt f (mdU2 ||| mdUns ||| mdSat) = true) ∧ (f.mods.getLsbD 7 = true) ∧ (f.mods.getLsbD 8 = true) ∧
      (s.canIssue u (intRegs f))) ∧
    (∃ (s : State) (u : Cv) (f : FB), (okIntImm f false = true) ∧ (s.canIssue u [f.dest.toNat, f.src1.toNat])) ∧
    (∃ (s : State) (u : Cv) (f : FA), (okInt f (mdU2 ||| mdUns) = true) ∧ (s.canIssue u (intRegs f))) ∧
    (∃ (s : State) (u : Cv) (f : FB), (okIntImm f false = true) ∧ (s.canIssue u [f.dest.toNat, f.src1.toNat])) ∧
    (∃ (s : State) (u : Cv) (f : FA), (okInt f (mdU2 ||| mdUns) = true) ∧ (f.mods.getLsbD 8 = false) ∧ (s.canIssue u (intRegs f))) ∧
    (∃ (s : State) (u : Cv) (f : FA), (okInt f (mdU2 ||| mdUns) = true) ∧ (f.mods.getLsbD 8 = true) ∧ (s.canIssue u (intRegs f))) ∧
    (∃ (s : State) (u : Cv) (f : FA), (okInt f (mdU2 ||| mdUns ||| mdSat) true = true) ∧ (f.mods.getLsbD 7 = false) ∧ (s.canIssue u (f.src3.toNat :: intRegs f))) ∧
    (∃ (s : State) (u : Cv) (f : FA), (okInt f (mdU2 ||| mdUns ||| mdSat) true = true) ∧ (f.mods.getLsbD 7 = true) ∧ (f.mods.getLsbD 8 = false) ∧
      (s.canIssue u (f.src3.toNat :: intRegs f))) ∧
    (∃ (s : State) (u : Cv) (f : FA), (okInt f (mdU2 ||| mdUns ||| mdSat) true = true) ∧ (f.mods.getLsbD 7 = true) ∧ (f.mods.getLsbD 8 = true) ∧
      (s.canIssue u (f.src3.toNat :: intRegs f))) ∧
    (∃ (s : State) (u : Cv) (f : FA), (okInt f (mdU2 ||| mdUns) = true) ∧ (f.mods.getLsbD 8 = false) ∧ (s.canIssue u (intRegs f))) ∧
    (∃ (s : State) (u : Cv) (f : FA), (okInt f (mdU2 ||| mdUns) = true) ∧ (f.mods.getLsbD 8 = true) ∧ (s.canIssue u (intRegs f))) ∧
    (∃ (s : State) (u : Cv) (f : FB), (okIntImm f false = true) ∧ (s.canIssue u [f.dest.toNat, f.src1.toNat])) ∧
    (∃ (s : State) (u : Cv) (f : FA), (okInt f (mdU2 ||| mdUns) = true) ∧ (f.mods.getLsbD 8 = false) ∧ (s.canIssue u (intRegs f))) ∧
    (∃ (s : State) (u : Cv) (f : FA), (okInt f (mdU2 ||| mdUns) = true) ∧ (f.mods.getLsbD 8 = true) ∧ (s.canIssue u (intRegs f))) ∧
    (∃ (s : State) (u : Cv) (f : FB), (okIntImm f false = true) ∧ (s.canIssue u [f.dest.toNat, f.src1.toNat])) ∧
    (∃ (s : State) (u : Cv) (f : FA), (okInt f mdU2 = true) ∧ (s.canIssue u (intRegs f))) ∧
    (∃ (s : State) (u : Cv) (f : FB), (okIntImm f false = true) ∧ (s.canIssue u [f.dest.toNat, f.src1.toNat])) ∧
    (∃ (s : State) (u : Cv) (f : FA), (okInt f mdU2 = true) ∧ (s.canIssue u (intRegs f))) ∧
    (∃ (s : State) (u : Cv) (f : FB), (okIntImm f false = true) ∧ (s.canIssue u [f.dest.toNat, f.src1.toNat])) ∧
    (∃ (s : State) (u : Cv) (f : FA), (okInt f mdU2 = true) ∧ (s.canIssue u (intRegs f))) ∧
    (∃ (s : State) (u : Cv) (f : FB), (okIntImm f false = true) ∧ (s.canIssue u [f.dest.toNat, f.src1.toNat])) ∧
    (∃ (s : State) (u : Cv) (f : FA), (okInt f mdU2 = true) ∧ (s.canIssue u (intRegs f))) ∧
    (∃ (s : State) (u : Cv) (f : FB), (okIntImm f true = true) ∧ (s.canIssue u [f.dest.toNat, f.src1.toNat])) ∧
    (∃ (s : State) (u : Cv) (f : FA), (okInt f (mdU2 ||| mdUns) = true) ∧ (f.mods.getLsbD 8 = false) ∧ (s.canIssue u (intRegs f))) ∧
    (∃ (s : State) (u : Cv) (f : FA), (okInt f (mdU2 ||| mdUns) = true) ∧ (f.mods.getLsbD 8 = true) ∧ (s.canIssue u (intRegs f))) ∧
    (∃ (s : State) (u : Cv) (f : FB), (okIntImm f true = true) ∧ (s.canIssue u [f.dest.toNat, f.src1.toNat])) ∧
    (∃ (s : State) (u : Cv) (f : FA), ((okInt f 0 && f.src2 = 0) = true) ∧ (s.canIssue u ([f.dest.toNat, f.src1.toNat]))) ∧
    (∃ (s : State) (u : Cv) (f : FA), ((okInt f 0 && f.src2 = 0) = true) ∧ (s.canIssue u [f.dest.toNat, f.src1.toNat])) ∧
    (∃ (s : State) (u : Cv) (f : FA), ((okInt f mdU2 true && okP f.src3) = true) ∧ (s.canIssue u (intRegs f))) ∧
    (∃ (s : State) (u : Cv) (f : FA), ((okInt f 0 && f.src2 = 0) = true) ∧ (s.canIssue u ([f.dest.toNat, f.src1.toNat]))) ∧
    (∃ (s : State) (u : Cv) (f : FB), ((okIntImm f false && f.src1 = 0) = true) ∧ (s.canIssue u [f.dest.toNat])) ∧
    (∃ (s : State) (u : Cv) (f : FA), ((okInt f 0 && f.src2 = 0 && okS f.src1) = true) ∧ (s.canIssue u [f.dest.toNat])) ∧
    (∃ (s : State) (u : Cv) (f : FA), (okInt f mdU2 = true) ∧ (s.canIssue u (intRegs f))) :=
  ⟨⟨cvs, cv0, fa 5 1 2, by decide +kernel⟩,
   ⟨cvs, cv0, fa 5 1 2 (mods := 0x80), by decide +kernel⟩,
   ⟨cvs, cv0, fa 5 1 2 (mods := 0x180), by decide +kernel⟩,
   ⟨cvs, cv0, fb 5 1 0x1FFFFFF, by decide +kernel⟩,
   ⟨cvs, cv0, fa 5 1 2, by decide +kernel⟩,
   ⟨cvs, cv0, fa 5 1 2 (mods := 0x80), by decide +kernel⟩,
   ⟨cvs, cv0, fa 5 1 2 (mods := 0x180), by decide +kernel⟩,
   ⟨cvs, cv0, fb 5 1 0x1FFFFFF, by decide +kernel⟩,
   ⟨cvs, cv0, fa 5 1 2, by decide +kernel⟩,
   ⟨cvs, cv0, fb 5 1 0x1FFFFFF, by decide +kernel⟩,
   ⟨cvs, cv0, fa 5 1 2, by decide +kernel⟩,
   ⟨cvs, cv0, fa 5 1 2 (mods := 0x100), by decide +kernel⟩,
   ⟨cvs, cv0, fa 5 1 2 (src3 := 3), by decide +kernel⟩,
   ⟨cvs, cv0, fa 5 1 2 (src3 := 3) (mods := 0x80), by decide +kernel⟩,
   ⟨cvs, cv0, fa 5 1 2 (src3 := 3) (mods := 0x180), by decide +kernel⟩,
   ⟨cvs, cv0, fa 5 1 2, by decide +kernel⟩,
   ⟨cvs, cv0, fa 5 1 2 (mods := 0x100), by decide +kernel⟩,
   ⟨cvs, cv0, fb 5 1 0x1FFFFFF, by decide +kernel⟩,
   ⟨cvs, cv0, fa 5 1 2, by decide +kernel⟩,
   ⟨cvs, cv0, fa 5 1 2 (mods := 0x100), by decide +kernel⟩,
   ⟨cvs, cv0, fb 5 1 0x1FFFFFF, by decide +kernel⟩,
   ⟨cvs, cv0, fa 5 1 2, by decide +kernel⟩,
   ⟨cvs, cv0, fb 5 1 0x1FFFFFF, by decide +kernel⟩,
   ⟨cvs, cv0, fa 5 1 2, by decide +kernel⟩,
   ⟨cvs, cv0, fb 5 1 0x1FFFFFF, by decide +kernel⟩,
   ⟨cvs, cv0, fa 5 1 2, by decide +kernel⟩,
   ⟨cvs, cv0, fb 5 1 0x1FFFFFF, by decide +kernel⟩,
   ⟨cvs, cv0, fa 5 1 2, by decide +kernel⟩,
   ⟨cvs, cv0, fb 5 1 31, by decide +kernel⟩,
   ⟨cvs, cv0, fa 5 1 2, by decide +kernel⟩,
   ⟨cvs, cv0, fa 5 1 2 (mods := 0x100), by decide +kernel⟩,
   ⟨cvs, cv0, fb 5 2 31, by decide +kernel⟩,
   ⟨cvs, cv0, fa 5 2 0, by decide +kernel⟩,
   ⟨cvs, cv0, fa 5 2 0, by decide +kernel⟩,
   ⟨cvs, cv0, fa 5 1 2 (src3 := 1), by decide +kernel⟩,
   ⟨cvs, cv0, fa 5 2 0, by decide +kernel⟩,
   ⟨cvs, cv0, fb 5 0 0x1FFFFFF, by decide +kernel⟩,
   ⟨cvs, cv0, fa 5 2 0, by decide +kernel⟩,
   ⟨cvs, cv0, fa 5 1 2, by decide +kernel⟩⟩

/-- Every hypothesis of PredicatesAndLanes is met somewhere, clause by clause. -/
theorem witness_PredicatesAndLanes :
    (∃ (s : State) (u : Cv) (k : Cmp) (f : FA), ((okInt f (mdU2 ||| mdUns) && okP f.dest) = true) ∧ (f.mods.getLsbD 8 = false) ∧
      (s.canIssue u ((intRegs f).drop 1))) ∧
    (∃ (s : State) (u : Cv) (k : Cmp) (f : FA), ((okInt f (mdU2 ||| mdUns) && okP f.dest) = true) ∧ (f.mods.getLsbD 8 = true) ∧ (s.canIssue u ((intRegs f).drop 1))) ∧
    (∃ (s : State) (u : Cv) (k : Cmp) (f : FB), ((okIntImm f false && okP f.dest) = true) ∧ (s.canIssue u [f.src1.toNat])) ∧
    (∃ (s : State) (u : Cv) (f : FA), ((okInt f 0 && okP f.dest && okP f.src1 && okP f.src2) = true) ∧ (s.canIssue u [])) ∧
    (∃ (s : State) (u : Cv) (f : FA), ((okInt f 0 && okP f.dest && okP f.src1 && okP f.src2) = true) ∧ (s.canIssue u [])) ∧
    (∃ (s : State) (u : Cv) (f : FA), ((okInt f 0 && okP f.dest && okP f.src1 && okP f.src2) = true) ∧ (s.canIssue u [])) ∧
    (∃ (s : State) (u : Cv) (f : FA), ((okInt f 0 && okP f.dest && okP f.src1 && okP f.src2) = true) ∧ (f.src2 = 0) ∧ (s.canIssue u [])) ∧
    (∃ (s : State) (u : Cv) (f : FA) (l : Fin 32), ((okInt f mdLane && f.src2 = 0 && okS f.dest) = true) ∧ (f.mods.toNat / 1024 % 32 = l.val) ∧
      (s.canIssue u [f.src1.toNat])) ∧
    (∃ (s : State) (u : Cv) (f : FA), ((okInt f 0 && f.src2 = 0 && okP f.src1 && okS f.dest) = true) ∧ (s.canIssue u [])) :=
  ⟨⟨cvs, cv0, .lt, fa 2 1 2, by decide +kernel⟩,
   ⟨cvs, cv0, .ge, fa 7 1 2 (mods := 0x100), by decide +kernel⟩,
   ⟨cvs, cv0, .eq, fb 2 1 7, by decide +kernel⟩,
   ⟨cvs, cv0, fa 1 0 1, by decide +kernel⟩,
   ⟨cvs, cv0, fa 1 0 1, by decide +kernel⟩,
   ⟨cvs, cv0, fa 1 0 1, by decide +kernel⟩,
   ⟨cvs, cv0, fa 1 1 0, by decide +kernel⟩,
   ⟨cvs, cv0, fa 4 1 0 (mods := 0x800), 2, by decide +kernel⟩,
   ⟨cvs, cv0, fa 63 1 0, by decide +kernel⟩⟩

/-- Every hypothesis of UniformOperations is met somewhere, clause by clause. -/
theorem witness_UniformOperations :
    (∃ (s : State) (u : Cv) (f : FA), ((okUni f && okS f.dest) = true) ∧ (s.canIssue u [])) ∧
    (∃ (s : State) (u : Cv) (f : FB), ((okUniImm f && okS f.dest) = true) ∧ (s.canIssue u [])) ∧
    (∃ (s : State) (u : Cv) (f : FA), ((okUni f && okS f.dest) = true) ∧ (s.canIssue u [])) ∧
    (∃ (s : State) (u : Cv) (f : FA), ((okUni f && okS f.dest) = true) ∧ (s.canIssue u [])) ∧
    (∃ (s : State) (u : Cv) (f : FA), ((okUni f && okS f.dest) = true) ∧ (s.canIssue u [])) ∧
    (∃ (s : State) (u : Cv) (f : FB), ((okUniImm f && okS f.dest) = true) ∧ (s.canIssue u [])) ∧
    (∃ (s : State) (u : Cv) (f : FA), ((okUni f && okS f.dest) = true) ∧ (s.canIssue u [])) ∧
    (∃ (s : State) (u : Cv) (f : FB), ((okUniImm f && okS f.dest) = true) ∧ (s.canIssue u [])) ∧
    (∃ (s : State) (u : Cv) (f : FA), ((okUni f && okS f.dest) = true) ∧ (s.canIssue u [])) ∧
    (∃ (s : State) (u : Cv) (f : FB), ((okUniImm f && okS f.dest) = true) ∧ (s.canIssue u [])) ∧
    (∃ (s : State) (u : Cv) (f : FA), ((okUni f && okS f.dest) = true) ∧ (s.canIssue u [])) ∧
    (∃ (s : State) (u : Cv) (f : FB), ((okUniImm f && okS f.dest) = true) ∧ (s.canIssue u [])) ∧
    (∃ (s : State) (u : Cv) (f : FA), ((okUni f && okS f.dest) = true) ∧ (s.canIssue u [])) ∧
    (∃ (s : State) (u : Cv) (f : FB), ((okUniImm f && okS f.dest) = true) ∧ (s.canIssue u [])) ∧
    (∃ (s : State) (u : Cv) (f : FB), ((okUniImm f && okS f.dest) = true) ∧ (s.canIssue u [])) ∧
    (∃ (s : State) (u : Cv) (k : Cmp) (f : FA), ((okUni f && okP f.dest) = true) ∧ (s.canIssue u [])) ∧
    (∃ (s : State) (u : Cv) (k : Cmp) (f : FB), ((okUniImm f && okP f.dest) = true) ∧ (s.canIssue u [])) :=
  ⟨⟨cvs, cv0, fa 4 1 2, by decide +kernel⟩,
   ⟨cvs, cv0, fb 4 2 0x1FFFFFF, by decide +kernel⟩,
   ⟨cvs, cv0, fa 4 1 2, by decide +kernel⟩,
   ⟨cvs, cv0, fa 4 1 2, by decide +kernel⟩,
   ⟨cvs, cv0, fa 4 1 2, by decide +kernel⟩,
   ⟨cvs, cv0, fb 4 2 0x1FFFFFF, by decide +kernel⟩,
   ⟨cvs, cv0, fa 4 1 2, by decide +kernel⟩,
   ⟨cvs, cv0, fb 4 2 0x1FFFFFF, by decide +kernel⟩,
   ⟨cvs, cv0, fa 4 1 2, by decide +kernel⟩,
   ⟨cvs, cv0, fb 4 2 0x1FFFFFF, by decide +kernel⟩,
   ⟨cvs, cv0, fa 4 1 2, by decide +kernel⟩,
   ⟨cvs, cv0, fb 4 2 0x1FFFFFF, by decide +kernel⟩,
   ⟨cvs, cv0, fa 4 1 2, by decide +kernel⟩,
   ⟨cvs, cv0, fb 4 2 0x1FFFFFF, by decide +kernel⟩,
   ⟨cvs, cv0, fb 4 2 0x1FFFFFF, by decide +kernel⟩,
   ⟨cvs, cv0, .gt, fa 2 1 2, by decide +kernel⟩,
   ⟨cvs, cv0, .gt, fb 2 1 7, by decide +kernel⟩⟩

/-- Every hypothesis of FloatArithmetic is met somewhere, clause by clause. -/
theorem witness_FloatArithmetic :
    (∃ (s : State) (u : Cv) (f : FA) (F : Fmt), (vecFmt f.typ = some F) ∧ ((okFp F f mdFp true && f.src3 = 0 && okF F f.dest) = true) ∧
      (s.canIssue u (fpRegs F f true))) ∧
    (∃ (s : State) (u : Cv) (f : FB) (F : Fmt), (vecFmt f.typ = some F) ∧ ((okFpImm F f true && okF F f.dest) = true) ∧
      (s.canIssue u (vRange f.dest (fWidth F) ++ vRange f.src1 (fWidth F)))) ∧
    (∃ (s : State) (u : Cv) (f : FA) (F : Fmt), (vecFmt f.typ = some F) ∧ ((okFp F f mdFp true && f.src3 = 0 && okF F f.dest) = true) ∧
      (s.canIssue u (fpRegs F f true))) ∧
    (∃ (s : State) (u : Cv) (f : FB) (F : Fmt), (vecFmt f.typ = some F) ∧ ((okFpImm F f true && okF F f.dest) = true) ∧
      (s.canIssue u (vRange f.dest (fWidth F) ++ vRange f.src1 (fWidth F)))) ∧
    (∃ (s : State) (u : Cv) (f : FA) (F : Fmt), (vecFmt f.typ = some F) ∧ ((okFp F f mdFp true && f.src3 = 0 && okF F f.dest) = true) ∧
      (s.canIssue u (fpRegs F f true))) ∧
    (∃ (s : State) (u : Cv) (f : FB) (F : Fmt), (vecFmt f.typ = some F) ∧ ((okFpImm F f true && okF F f.dest) = true) ∧
      (s.canIssue u (vRange f.dest (fWidth F) ++ vRange f.src1 (fWidth F)))) ∧
    (∃ (s : State) (u : Cv) (f : FA) (F : Fmt), (vecFmt f.typ = some F) ∧ ((okFp F f mdFp true && f.src3 = 0 && okF F f.dest) = true) ∧
      (s.canIssue u (fpRegs F f true))) ∧
    (∃ (s : State) (u : Cv) (f : FA) (F : Fmt), (vecFmt f.typ = some F) ∧ ((okFp F f (mdFp ||| mdNeg3) true && okF F f.src3 && okF F f.dest) = true) ∧
      (s.canIssue u (fpRegs F f true true)) ∧ (f.mods.getLsbD 5 = false)) ∧
    (∃ (s : State) (u : Cv) (f : FA) (F : Fmt), (vecFmt f.typ = some F) ∧ ((okFp F f (mdFp ||| mdNeg3) true && okF F f.src3 && okF F f.dest) = true) ∧
      (s.canIssue u (fpRegs F f true true)) ∧ (f.mods.getLsbD 5 = true)) ∧
    (∃ (s : State) (u : Cv) (f : FA) (F : Fmt), (vecFmt f.typ = some F) ∧ ((okFp F f mdFp1 true && f.src2 = 0 && f.src3 = 0 && okF F f.dest) = true) ∧
      (s.canIssue u (vRange f.dest (fWidth F) ++ vRange f.src1 (fWidth F)))) ∧
    (∃ (s : State) (u : Cv) (f : FA) (F : Fmt), (vecFmt f.typ = some F) ∧ ((okFp F f mdFp1 true && f.src2 = 0 && f.src3 = 0 && okF F f.dest) = true) ∧
      (s.canIssue u (vRange f.dest (fWidth F) ++ vRange f.src1 (fWidth F)))) ∧
    (∃ (s : State) (u : Cv) (f : FA) (F : Fmt), (vecFmt f.typ = some F) ∧ ((okFp F f mdFp1 true && f.src2 = 0 && f.src3 = 0 && okF F f.dest) = true) ∧
      (s.canIssue u (vRange f.dest (fWidth F) ++ vRange f.src1 (fWidth F)))) ∧
    (∃ (s : State) (u : Cv) (f : FA) (F : Fmt), (vecFmt f.typ = some F) ∧ ((okFp F f mdFp1 true && f.src2 = 0 && f.src3 = 0 && okF F f.dest) = true) ∧
      (s.canIssue u (vRange f.dest (fWidth F) ++ vRange f.src1 (fWidth F)))) ∧
    (∃ (s : State) (u : Cv) (f : FA) (F : Fmt), (vecFmt f.typ = some F) ∧ ((okFp F f mdFp1 true && f.src2 = 0 && f.src3 = 0 && okF F f.dest) = true) ∧
      (s.canIssue u (vRange f.dest (fWidth F) ++ vRange f.src1 (fWidth F)))) :=
  ⟨⟨cvs, cv0, fa 5 3 2 (typ := 1) (mods := 0x12), fp32, by decide +kernel⟩,
   ⟨cvs, cv0, fb 6 2 0x200 (typ := 0) (rnd := 5), fp64, by decide +kernel⟩,
   ⟨cvs, cv0, fa 5 3 2 (typ := 1) (mods := 0x12), fp32, by decide +kernel⟩,
   ⟨cvs, cv0, fb 6 2 0x200 (typ := 0) (rnd := 5), fp64, by decide +kernel⟩,
   ⟨cvs, cv0, fa 5 3 2 (typ := 1) (mods := 0x12), fp32, by decide +kernel⟩,
   ⟨cvs, cv0, fb 6 2 0x200 (typ := 0) (rnd := 5), fp64, by decide +kernel⟩,
   ⟨cvs, cv0, fa 5 3 2 (typ := 1) (mods := 0x12), fp32, by decide +kernel⟩,
   ⟨cvs, cv0, fa 5 3 2 (typ := 1) (src3 := 3), fp32, by decide +kernel⟩,
   ⟨cvs, cv0, fa 5 3 2 (typ := 1) (src3 := 3) (mods := 0x20), fp32, by decide +kernel⟩,
   ⟨cvs, cv0, fa 5 3 0 (typ := 2) (mods := 3), bf16, by decide +kernel⟩,
   ⟨cvs, cv0, fa 5 3 0 (typ := 2) (mods := 3), bf16, by decide +kernel⟩,
   ⟨cvs, cv0, fa 5 3 0 (typ := 2) (mods := 3), bf16, by decide +kernel⟩,
   ⟨cvs, cv0, fa 5 3 0 (typ := 2) (mods := 3), bf16, by decide +kernel⟩,
   ⟨cvs, cv0, fa 5 3 0 (typ := 2) (mods := 3), bf16, by decide +kernel⟩⟩

/-- Every hypothesis of ExactResults is met somewhere, clause by clause. -/
theorem witness_ExactResults :
    (∃ (n : Bool) (n2 : Bool) (m : Nat) (m2 : Nat) (e : Int) (e2 : Int), (m ≠ 0) ∧ (m2 ≠ 0)) ∧
    (∃ (m : Nat) (e : Int), (0 < m)) ∧
    (∃ (m : Nat) (e : Int), (0 < m)) ∧
    (∃ (n : Bool) (m : Nat) (e : Int) (z : Int), (m < 2 ^ 64) ∧ (z.natAbs < 2 ^ 14) ∧ ((FVal.fin n m e).rat = z)) ∧
    (∃ (k : Nat) (r : Nat) (n : Bool) (m : Nat) (e : Int) (h : Nat) (x : Int), (x = (roundAt k r n m e (e + h) false).1 * 2 ^ h - (m : Int))) ∧
    (∃ (F : Fmt) (n : Bool) (g : Nat) (q : Int), (F = fp64 ∨ F = fp32 ∨ F = bf16 ∨ F = fp16) ∧ (F.qmin ≤ q) ∧ (g < 2 ^ (F.mant + 1)) ∧
      (q = F.qmin ∨ 2 ^ F.mant ≤ g) ∧ (F.enc g q ≤ F.maxEnc)) :=
  ⟨⟨false, true, 1, 3, 0, -2, by decide +kernel⟩,
   ⟨3, -1, by decide +kernel⟩,
   ⟨3, -1, by decide +kernel⟩,
   ⟨true, 3, 1, -6, by decide +kernel⟩,
   ⟨0, 0, false, 7, 0, 1, 1, by decide +kernel⟩,
   ⟨fp32, true, 0xC00000, -10, by decide +kernel⟩⟩

/-- Every hypothesis of FloatSelection is met somewhere, clause by clause. -/
theorem witness_FloatSelection :
    (∃ (s : State) (u : Cv) (f : FA) (F : Fmt), (vecFmt f.typ = some F) ∧ ((okFp F f mdFp false && f.src3 = 0 && okF F f.dest) = true) ∧
      (s.canIssue u (fpRegs F f true))) ∧
    (∃ (s : State) (u : Cv) (f : FB) (F : Fmt), (vecFmt f.typ = some F) ∧ ((okFpImm F f false && okF F f.dest) = true) ∧
      (s.canIssue u (vRange f.dest (fWidth F) ++ vRange f.src1 (fWidth F)))) ∧
    (∃ (s : State) (u : Cv) (f : FA) (F : Fmt), (vecFmt f.typ = some F) ∧ ((okFp F f mdFp false && f.src3 = 0 && okF F f.dest) = true) ∧
      (s.canIssue u (fpRegs F f true))) ∧
    (∃ (s : State) (u : Cv) (f : FB) (F : Fmt), (vecFmt f.typ = some F) ∧ ((okFpImm F f false && okF F f.dest) = true) ∧
      (s.canIssue u (vRange f.dest (fWidth F) ++ vRange f.src1 (fWidth F)))) ∧
    (∃ (s : State) (u : Cv) (f : FA) (F : Fmt) (k : Cmp), (vecFmt f.typ = some F) ∧ ((okFp F f mdFp false && f.src3 = 0 && okP f.dest) = true) ∧
      (s.canIssue u (fpRegs F f false))) ∧
    (∃ (s : State) (u : Cv) (f : FB) (F : Fmt) (k : Cmp), (vecFmt f.typ = some F) ∧ ((okFpImm F f false && okP f.dest) = true) ∧
      (s.canIssue u (vRange f.src1 (fWidth F)))) ∧
    (∃ (s : State) (u : Cv) (f : FA) (F : Fmt), (vecFmt f.typ = some F) ∧ ((okFp F f mdFp false && f.src3 = 0 && okP f.dest) = true) ∧
      (s.canIssue u (fpRegs F f false))) ∧
    (∃ (s : State) (u : Cv) (f : FB) (F : Fmt), (vecFmt f.typ = some F) ∧ ((okFpImm F f false && f.src1 = 0 && okF F f.dest) = true) ∧
      (s.canIssue u (vRange f.dest (fWidth F)))) ∧
    (∃ (n : Bool) (n' : Bool) (m : Nat) (m' : Nat) (e : Int) (e' : Int) (e0 : Int), (e0 ≤ e) ∧ (e0 ≤ e') ∧ (scaled n m e e0 < scaled n' m' e' e0)) ∧
    (∃ (x : FVal) (y : FVal) (k : Cmp), (x.isNan = true ∨ y.isNan = true)) ∧
    (∃ (n : Bool) (n' : Bool) (m : Nat) (m' : Nat) (e : Int) (e' : Int) (e0 : Int) (k : Cmp), (e0 ≤ e) ∧ (e0 ≤ e')) :=
  ⟨⟨cvs, cv0, fa 5 3 2 (typ := 1) (mods := 0x10), fp32, by decide +kernel⟩,
   ⟨cvs, cv0, fb 6 2 0x200 (typ := 0), fp64, by decide +kernel⟩,
   ⟨cvs, cv0, fa 5 3 2 (typ := 1) (mods := 0x10), fp32, by decide +kernel⟩,
   ⟨cvs, cv0, fb 6 2 0x200 (typ := 0), fp64, by decide +kernel⟩,
   ⟨cvs, cv0, fa 2 3 2 (typ := 1), fp32, .lt, by decide +kernel⟩,
   ⟨cvs, cv0, fb 2 3 0x7F8000 (typ := 1), fp32, .ne, by decide +kernel⟩,
   ⟨cvs, cv0, fa 2 3 2 (typ := 1), fp32, by decide +kernel⟩,
   ⟨cvs, cv0, fb 4 0 0x1FF8000 (typ := 0), fp64, by decide +kernel⟩,
   ⟨true, false, 3, 0, 4, -7, -9, by decide +kernel⟩,
   ⟨.nan false, .inf true, .eq, by decide +kernel⟩,
   ⟨true, false, 3, 0, 4, -7, -9, .le, by decide +kernel⟩⟩

/-- Every hypothesis of ExactSums is met somewhere, clause by clause. -/
theorem witness_ExactSums :
    (∃ (s : State) (u : Cv) (f : FA), ((okXs f && okOctet f.dest) = true) ∧ (s.canIssue u (vRange f.dest 8 ++ vRange f.src1 8 ++ vRange f.src2 8)) ∧
      (∀ l : Fin 32, s.lit u f.gd l = true → -(2 : Int) ^ 255 ≤ ((s.cv u).v256 l f.src1.toNat).toInt + ((s.cv u).v256 l f.src2.toNat).toInt ∧ ((s.cv u).v256 l f.src1.toNat).toInt + ((s.cv u).v256 l f.src2.toNat).toInt < (2 : Int) ^ 255)) ∧
    (∃ (s : State) (u : Cv) (f : FA), ((okXs f && okOctet f.dest) = true) ∧ (s.canIssue u (vRange f.dest 8 ++ vRange f.src1 8 ++ vRange f.src2 8)) ∧
      (∀ l : Fin 32, s.lit u f.gd l = true → -(2 : Int) ^ 255 ≤ ((s.cv u).v256 l f.src1.toNat).toInt - ((s.cv u).v256 l f.src2.toNat).toInt ∧ ((s.cv u).v256 l f.src1.toNat).toInt - ((s.cv u).v256 l f.src2.toNat).toInt < (2 : Int) ^ 255)) ∧
    (∃ (s : State) (u : Cv) (f : FA), ((okXs f && okOctet f.dest && f.src2 = 0) = true) ∧ (s.canIssue u (vRange f.dest 8 ++ vRange f.src1 8 ++ vRange f.src2 8)) ∧
      (∀ l : Fin 32, s.lit u f.gd l = true → -(2 : Int) ^ 255 ≤ -((s.cv u).v256 l f.src1.toNat).toInt ∧ -((s.cv u).v256 l f.src1.toNat).toInt < (2 : Int) ^ 255)) ∧
    (∃ (s : State) (u : Cv) (f : FA), ((okXs f && okOctet f.dest && f.src2 = 0) = true) ∧ (s.canIssue u (vRange f.dest 8 ++ vRange f.src1 8 ++ vRange f.src2 8))) ∧
    (∃ (s : State) (u : Cv) (f : FA), ((okXs f && okOctet f.dest && f.src1 = 0 && f.src2 = 0) = true) ∧
      (s.canIssue u (vRange f.dest 8 ++ vRange f.src1 8 ++ vRange f.src2 8))) ∧
    (∃ (s : State) (u : Cv) (f : FA) (l : Fin 32), ((okXs f && okOctet f.dest) = true) ∧ (s.canIssue u (vRange f.dest 8 ++ vRange f.src1 8 ++ vRange f.src2 8)) ∧
      (s.lit u f.gd l = true) ∧
      (((s.cv u).v256 l f.src1.toNat).toInt + ((s.cv u).v256 l f.src2.toNat).toInt < -(2 : Int) ^ 255 ∨ (2 : Int) ^ 255 ≤ ((s.cv u).v256 l f.src1.toNat).toInt + ((s.cv u).v256 l f.src2.toNat).toInt)) ∧
    (∃ (s : State) (u : Cv) (f : FA) (l : Fin 32), ((okXs f && okOctet f.dest) = true) ∧ (s.canIssue u (vRange f.dest 8 ++ vRange f.src1 8 ++ vRange f.src2 8)) ∧
      (s.lit u f.gd l = true) ∧
      (((s.cv u).v256 l f.src1.toNat).toInt - ((s.cv u).v256 l f.src2.toNat).toInt < -(2 : Int) ^ 255 ∨ (2 : Int) ^ 255 ≤ ((s.cv u).v256 l f.src1.toNat).toInt - ((s.cv u).v256 l f.src2.toNat).toInt)) ∧
    (∃ (s : State) (u : Cv) (f : FA) (l : Fin 32), ((okXs f && okOctet f.dest && f.src2 = 0) = true) ∧
      (s.canIssue u (vRange f.dest 8 ++ vRange f.src1 8 ++ vRange f.src2 8)) ∧ (s.lit u f.gd l = true) ∧
      (-((s.cv u).v256 l f.src1.toNat).toInt < -(2 : Int) ^ 255 ∨ (2 : Int) ^ 255 ≤ -((s.cv u).v256 l f.src1.toNat).toInt)) ∧
    (∃ (s : State) (u : Cv) (k : Cmp) (f : FA), ((okXs f && okP f.dest) = true) ∧ (s.canIssue u (vRange f.src1 8 ++ vRange f.src2 8))) :=
  ⟨⟨cvs, cv0, fa 8 0 16 (typ := 0xD), by decide +kernel⟩,
   ⟨cvs, cv0, fa 8 0 16 (typ := 0xD), by decide +kernel⟩,
   ⟨cvs, cv0, fa 8 0 0 (typ := 0xD), by decide +kernel⟩,
   ⟨cvs, cv0, fa 8 0 0 (typ := 0xD), by decide +kernel⟩,
   ⟨cvs, cv0, fa 8 0 0 (typ := 0xD), by decide +kernel⟩,
   ⟨(cvs.modCv cv0 fun c => { c with v := [(7, 0x7FFFFFFF)] }), cv0, fa 8 0 0 (typ := 0xD), 0, by decide +kernel⟩,
   ⟨(cvs.modCv cv0 fun c => { c with v := [(7, 0x80000000), (16, 1)] }), cv0, fa 8 0 16 (typ := 0xD), 0, by decide +kernel⟩,
   ⟨(cvs.modCv cv0 fun c => { c with v := [(7, 0x80000000)] }), cv0, fa 8 0 0 (typ := 0xD), 0, by decide +kernel⟩,
   ⟨cvs, cv0, .lt, fa 1 0 16 (typ := 0xD), by decide +kernel⟩⟩

/-- Every hypothesis of Conversions is met somewhere, clause by clause. -/
theorem witness_Conversions :
    (∃ (s : State) (u : Cv) (f : FA), ((f.gd.ok && okMods f.mods mdRnd && f.src2 = 0 && f.src3 = 0 && f.rnd.toNat < 5) = true) ∧ (f.typ = 0xC) ∧
      (s.canIssue u (vRange f.dest 1 ++ vRange f.src1 1))) ∧
    (∃ (s : State) (u : Cv) (f : FA) (F : Fmt), ((f.gd.ok && okMods f.mods mdRnd && f.src2 = 0 && f.src3 = 0 && f.rnd.toNat < 5 && okF F f.dest) = true) ∧
      (vecFmt f.typ = some F) ∧ (s.canIssue u (vRange f.dest (fWidth F) ++ vRange f.src1 1))) ∧
    (∃ (s : State) (u : Cv) (f : FA) (src : BitVec 4) (G : Fmt),
      ((f.gd.ok && okMods f.mods mdRnd && f.src2 = 0 && okPair2 src f.typ && okSrc3 src f.typ f.src3 && f.rnd.toNat < 5 && okTypeReg src f.src1 && okTypeReg f.typ f.dest && src != 0xD) = true) ∧
      (isMx f.typ = false) ∧ (eltFmt f.typ = some G) ∧ (s.canIssue u (vRange f.dest (typeRegs f.typ) ++ vRange f.src1 (typeRegs src)))) ∧
    (∃ (s : State) (u : Cv) (f : FA) (src : BitVec 4) (lo : Int) (hi : Int) (n : Nat),
      ((f.gd.ok && okMods f.mods mdRnd && f.src2 = 0 && okPair2 src f.typ && okSrc3 src f.typ f.src3 && f.rnd.toNat < 5 && okTypeReg src f.src1 && okTypeReg f.typ f.dest && src != 0xD) = true) ∧
      (intRange f.typ = some (lo, hi, n)) ∧ (s.canIssue u (vRange f.dest (typeRegs f.typ) ++ vRange f.src1 (typeRegs src)))) ∧
    (∃ (s : State) (u : Cv) (f : FA) (src : BitVec 4) (F : Fmt) (e : Int),
      ((f.gd.ok && okMods f.mods mdRnd && f.src2 = 0 && okPair2 src f.typ && okSrc3 src f.typ f.src3 && f.rnd.toNat < 5 && okTypeReg src f.src1 && okTypeReg f.typ f.dest && src != 0xD) = true) ∧
      (isMx f.typ = true) ∧ (eltFmt f.typ = some F) ∧ ((s.cv u).active f.gd ≠ 0) ∧
      (mxExp F ((lanesOf ((s.cv u).active f.gd)).map ((s.cv u).convSrc src f.src1 (((s.cv u).sGet f.src3).toNat % 256) 0)) = some (some e)) ∧
      (s.canIssue u (vRange f.dest (typeRegs f.typ) ++ vRange f.src1 (typeRegs src)))) ∧
    (∃ (s : State) (u : Cv) (f : FA) (w : BitVec 64), ((f.gd.ok && f.mods = 0 && f.src2 = 0 && okOctet f.dest) = true) ∧ (f.typ = 0xD) ∧
      (s.window u f.src3.toNat = some w) ∧ (s.canIssue u (vRange f.dest 8 ++ vRange f.src1 1)) ∧
      (∀ l : Fin 32, s.lit u f.gd l = true → (toXs w (fp32.decode ((s.cv u).vGet l f.src1.toNat).toNat)).2 &&& 0x40 = 0)) ∧
    (∃ (s : State) (u : Cv) (f : FA) (w : BitVec 64), ((f.gd.ok && okMods f.mods mdRnd && f.src2 = 0 && f.rnd.toNat < 5 && okOctet f.src1) = true) ∧ (f.typ = 1) ∧
      (s.window u f.src3.toNat = some w) ∧ (s.canIssue u (vRange f.dest 1 ++ vRange f.src1 8))) ∧
    (∃ (s : State) (u : Cv) (f : FA), ((f.gd.ok && okMods f.mods mdRnd && f.src2 = 0 && f.rnd.toNat < 5 && f.src3.toNat < 32) = true) ∧ (f.typ = 6) ∧
      (s.canIssue u (vRange f.dest 1 ++ vRange f.src1 1)) ∧ ((s.cv u).active f.gd ≠ 0) ∧
      (∀ l : Fin 32, s.lit u f.gd l = true → (s.cv u).vGet l f.src1.toNat = 0)) :=
  ⟨⟨cvs, cv0, fa 5 3 0 (typ := 0xC) (mods := 1), by decide +kernel⟩,
   ⟨cvs, cv0, fa 6 2 0 (typ := 0) (mods := 2), fp64, by decide +kernel⟩,
   ⟨cvs, cv0, fa 5 3 0 (typ := 2) (mods := 1), 1, bf16, by decide +kernel⟩,
   ⟨cvs, cv0, fa 5 3 0 (typ := 0xA) (mods := 1), 1, -128, 127, 8, by decide +kernel⟩,
   ⟨cvs, cv0, fa 5 3 0 (typ := 6) (src3 := 4), 1, e4m3, -7, by decide +kernel⟩,
   ⟨xsw, cv0, fa 8 3 0 (typ := 0xD), 0x800000000020FFE0, by decide +kernel⟩,
   ⟨xsw, cv0, fa 5 0 0 (typ := 1), 0x800000000020FFE0, by decide +kernel⟩,
   ⟨cvs, cv0, fa 5 20 0 (typ := 6) (src3 := 4), by decide +kernel⟩⟩

/-- Every hypothesis of MatrixUnit is met somewhere, clause by clause. -/
theorem witness_MatrixUnit :
    (∃ (s : State) (u : Cv) (f : FM), ((okMat s u f && tileType f.typ && f.sA = 0 && f.sB = 0 && f.stile = 0 && f.acc = 0 && f.rnd = 0) = true) ∧
      (s.canIssue u []) ∧ ((s.cv u).active f.gd ≠ 0)) ∧
    (∃ (s : State) (u : Cv) (f : FM) (k : Nat), ((okMat s u f && tileType f.typ && okS f.sA && f.sB = 0 && f.stile = 0 && f.acc = 0 && f.rnd = 0) = true) ∧
      (s.canIssue u []) ∧ (s.acquiring u = false) ∧ ((s.cv u).active f.gd ≠ 0) ∧ (operandKey u.g ((s.cv u).sGet f.sA) 1024 = some k) ∧
      (s.cvAccess u k = .ok) ∧ (s.cvAccess u (k + 1023) = .ok) ∧ (s.mlHasBad k 1024 = false)) ∧
    (∃ (s : State) (u : Cv) (f : FM) (k : Nat) (a : Nat), ((okMat s u f && okS f.sA && f.sB = 0 && f.stile = 0 && f.acc = 0 && f.rnd = 0) = true) ∧ (f.typ = 0xC) ∧
      (s.canIssue u []) ∧ (s.acquiring u = false) ∧ ((s.cv u).active f.gd ≠ 0) ∧ (operandKey u.g ((s.cv u).sGet f.sA) 1024 = some k) ∧
      (s.cvAccess u k = .ok) ∧ (s.cvAccess u (k + 1023) = .ok)) ∧
    (∃ (s : State) (u : Cv) (f : FM), ((okMat s u f && f.sA = 0 && f.sB = 0 && f.acc = 0 && f.rnd = 0 && mayName s u f (f.stile.setWidth 6)) = true) ∧
      (f.typ = 0xC) ∧ (s.canIssue u []) ∧ ((s.cv u).active f.gd ≠ 0) ∧ (f.stile.toNat ≠ f.dest.toNat)) ∧
    (∃ (s : State) (u : Cv) (f : FM) (sh : MmaShape) (ka : Nat) (kb : Nat) (lo : Int) (hi : Int) (n : Nat), (mmaShape f.typ = some sh) ∧
      ((okMat s u f && okS f.sA && okS f.sB && f.stile = 0 && f.acc.toNat < 2 && (if (intRange f.typ).isSome then f.rnd = 0 else okRnd f.rnd)) = true) ∧
      (s.canIssue u []) ∧ (s.acquiring u = false) ∧ ((s.cv u).active f.gd ≠ 0) ∧ (operandKey u.g ((s.cv u).sGet f.sA) (sh.data + sh.scales) = some ka) ∧
      (operandKey u.g ((s.cv u).sGet f.sB) (sh.data + sh.scales) = some kb) ∧ (s.cvAccess u ka = .ok) ∧
      (s.cvAccess u (ka + (sh.data + sh.scales - 1)) = .ok) ∧ (s.cvAccess u kb = .ok) ∧ (s.cvAccess u (kb + (sh.data + sh.scales - 1)) = .ok) ∧
      (s.mlHasBad ka (sh.data + sh.scales) = false) ∧ (s.mlHasBad kb (sh.data + sh.scales) = false) ∧ (intRange f.typ = some (lo, hi, n))) ∧
    (∃ (s : State) (u : Cv) (f : FM) (sh : MmaShape) (ka : Nat) (kb : Nat), (mmaShape f.typ = some sh) ∧
      ((okMat s u f && okS f.sA && okS f.sB && f.stile = 0 && f.acc.toNat < 2 && (if (intRange f.typ).isSome then f.rnd = 0 else okRnd f.rnd)) = true) ∧
      (s.canIssue u []) ∧ (s.acquiring u = false) ∧ ((s.cv u).active f.gd ≠ 0) ∧ (operandKey u.g ((s.cv u).sGet f.sA) (sh.data + sh.scales) = some ka) ∧
      (operandKey u.g ((s.cv u).sGet f.sB) (sh.data + sh.scales) = some kb) ∧ (s.cvAccess u ka = .ok) ∧
      (s.cvAccess u (ka + (sh.data + sh.scales - 1)) = .ok) ∧ (s.cvAccess u kb = .ok) ∧ (s.cvAccess u (kb + (sh.data + sh.scales - 1)) = .ok) ∧
      (s.mlHasBad ka (sh.data + sh.scales) = false) ∧ (s.mlHasBad kb (sh.data + sh.scales) = false)) :=
  ⟨⟨mems, cv0, fm 3 0 0 1, by decide +kernel⟩,
   ⟨mems, cv0, fm 3 4 0 0xC, 0x400, by decide +kernel⟩,
   ⟨mems, cv0, fm 3 4 0 0xC, 0x400, 0x800, by decide +kernel⟩,
   ⟨mems, cv0, fm 3 0 0 0xC (stile := 1), by decide +kernel⟩,
   ⟨mems, cv0, fm 3 4 5 0xA, ⟨64, 8, 1024, 0⟩, 0x400, 0x800, -128, 127, 8, by decide +kernel⟩,
   ⟨mems, cv0, fm 3 4 5 4 (acc := 1) (rnd := 5), ⟨64, 8, 1024, 0⟩, 0x400, 0x800, by decide +kernel⟩⟩

/-- Every hypothesis of LocalLoadsAndStores is met somewhere, clause by clause. -/
theorem witness_LocalLoadsAndStores :
    (∃ (s : State) (u : Cv) (f : FX) (K : Fin 32 → Nat), ((okX f && f.order = 0) = true) ∧ (f.typ = 0xC) ∧
      (s.canIssue u (vRange f.data 1 ++ (if f.ien then [f.index.toNat] else []))) ∧ (s.acquiring u = false) ∧
      (∀ l : Fin 32, s.lit u f.gd l = true → localKey u.g (eltAddr (s.cv u) f l) = some (K l) ∧ aligned (s.cv u) f l = true ∧ s.cvAccess u (K l) = .ok) ∧
      (∀ l : Fin 32, s.lit u f.gd l = true → s.mlHasBad (K l) 4 = false)) ∧
    (∃ (s : State) (u : Cv) (f : FX) (K : Fin 32 → Nat) (a : Nat), ((okX f && f.order = 0) = true) ∧ (f.typ = 0xC) ∧
      (s.canIssue u (vRange f.data 1 ++ (if f.ien then [f.index.toNat] else []))) ∧ (s.acquiring u = false) ∧
      (∀ l : Fin 32, s.lit u f.gd l = true → localKey u.g (eltAddr (s.cv u) f l) = some (K l) ∧ aligned (s.cv u) f l = true ∧ s.cvAccess u (K l) = .ok) ∧
      (∀ l : Fin 32, s.lit u f.gd l = true → a < K l ∨ K l + 4 ≤ a) ∧ (∀ l : Fin 32, s.lit u f.gd l = true → s.mlHasBad (K l) 4 = false)) ∧
    (∃ (s : State) (u : Cv) (f : FX) (k : Nat), (okXs1 f = true) ∧ (s.canIssue u []) ∧ (s.acquiring u = false) ∧ ((s.cv u).active f.gd ≠ 0) ∧
      (rangeKey u.g (uniAddr (s.cv u) f) 8 8 = some k) ∧ (s.cvAccess u k = .ok) ∧ (s.mlHasBad k 8 = false)) ∧
    (∃ (s : State) (u : Cv) (f : FX) (k : Nat) (a : Nat), (okXs1 f = true) ∧ (s.canIssue u []) ∧ (s.acquiring u = false) ∧ ((s.cv u).active f.gd ≠ 0) ∧
      (rangeKey u.g (uniAddr (s.cv u) f) 8 8 = some k) ∧ (s.cvAccess u k = .ok)) ∧
    (∃ (s : State) (u : Cv) (f : FX) (k : Nat), (okXs1 f = true) ∧ (s.canIssue u []) ∧ (s.acquiring u = false) ∧ ((s.cv u).active f.gd ≠ 0) ∧
      (rangeKey u.g (uniAddr (s.cv u) f) 8 8 = some k) ∧ (s.cvAccess u k = .stall)) ∧
    (∃ (s : State) (u : Cv) (f : FX), (okXs1 f = true) ∧ (s.canIssue u []) ∧ (s.acquiring u = false) ∧ ((s.cv u).active f.gd ≠ 0) ∧
      (rangeKey u.g (uniAddr (s.cv u) f) 8 8 = none)) :=
  ⟨⟨mems, cv0, fx 5 4, fun l => 0x400 + 4 * l.val, by decide +kernel⟩,
   ⟨mems, cv0, fx 2 4, fun l => 0x400 + 4 * l.val, 0x800, by decide +kernel⟩,
   ⟨mems, cv0, fx 7 4 (typ := 0), 0x400, by decide +kernel⟩,
   ⟨mems, cv0, fx 1 4 (typ := 0), 0x400, 0x404, by decide +kernel⟩,
   ⟨{ mems with now := 9 }.modStack 0 (fun k => { k with mlLost := true }), cv0, fx 7 4 (typ := 0), 0x400, by decide +kernel⟩,
   ⟨mems, cv0, fx 1 1 (typ := 0) (off := 1), by decide +kernel⟩⟩

/-- Every hypothesis of ControlSpace is met somewhere, clause by clause. -/
theorem witness_ControlSpace :
    (∃ (s : State) (u : Cv) (f : FX), (okXs1 f = true) ∧ (s.canIssue u []) ∧ (s.acquiring u = false) ∧ (okCtl (uniAddr (s.cv u) f) = true)) ∧
    (∃ (s : State) (u : Cv) (f : FX) (n : Fin 4), (okXs1 f = true) ∧ (s.canIssue u []) ∧ (s.acquiring u = false) ∧ ((s.cv u).active f.gd ≠ 0) ∧
      ((uniAddr (s.cv u) f).toNat = 0x20 + 8 * n.val) ∧ (((s.cv u).sGet f.data).toNat ≤ 32) ∧
      ((kget {} (s.cluster (coreStack u.g) (coreCluster u.g)).barriers n.val).arrived = 0)) ∧
    (∃ (s : State) (u : Cv) (f : FX) (n : Fin 16), (okXs1 f = true) ∧ (s.canIssue u []) ∧ (s.acquiring u = false) ∧ ((s.cv u).active f.gd ≠ 0) ∧
      ((uniAddr (s.cv u) f).toNat = 0x40 + 8 * n.val) ∧ ((kget {} (s.cluster (coreStack u.g) (coreCluster u.g)).owners n.val).target = none) ∧
      (((s.cv u).sGet f.data).setWidth 2 ≠ (kget {} (s.cluster (coreStack u.g) (coreCluster u.g)).owners n.val).owner)) ∧
    (∃ (s : State) (x : StackId) (c : ClusterNo) (n : Fin 16) (w : BitVec 2), ((kget {} (s.cluster x c).owners n.val).target = some w) ∧
      ((kget {} (s.cluster x c).owners n.val).nextTarget = []) ∧ ((s.ep (stackEp x)).stalled = []) ∧
      ((s.regions.all fun k => k.2.dma.isEmpty && k.2.rx.entries.isEmpty) = true)) ∧
    (∃ (s : State) (x : StackId) (p : RegionNo), ((s.ep (stackEp x)).stalled = []) ∧ ((s.regions.all fun k => k.2.dma.isEmpty && k.2.rx.entries.isEmpty) = true)) ∧
    (∃ (s : State) (u : Cv) (n : Nat) (k : Nat), ((s.stack (coreStack u.g)).mlLost = true) ∧ ((s.cv u).run = .running) ∧ ((s.cv u).stall = some (n, k)) ∧
      (n + 2000 ≤ s.now)) :=
  ⟨⟨mems, cv0, fx 7 1 (typ := 0), by decide +kernel⟩,
   ⟨mems, cv0, fx 1 6 (typ := 0), 0, by decide +kernel⟩,
   ⟨(mems.modCv cv0 fun c => { c with s := [(1, 2), (6, 0x40)] }), cv0, fx 1 6 (typ := 0), 0, by decide +kernel⟩,
   ⟨cvs.modOwner 3 5 7 (fun w => { w with target := some 2 }), 3, 5, 7, 2, by decide +kernel⟩,
   ⟨cvs, 3, 99, by decide +kernel⟩,
   ⟨{ cvs with now := 2009 }.modStack 0 (fun k => { k with mlLost := true }) |>.modCv cv0 (fun c => { c with stall := some (9, 5) }), cv0, 9, 5, by decide +kernel⟩⟩

/-- Every hypothesis of GlobalLoadsAndStores is met somewhere, clause by clause. -/
theorem witness_GlobalLoadsAndStores :
    (∃ (s : State) (u : Cv) (f : FX) (o : RemOp) (L : List RemOp), (okXg f = true) ∧ (s.canIssue u (gRegs f (eltRegs f.typ))) ∧ (s.acquiring u = false) ∧
      ((s.cv u).active f.gd ≠ 0) ∧ (((lanesOf ((s.cv u).active f.gd)).any fun l => !aligned (s.cv u) f l) = false) ∧ (s.opBase u .load f = some o) ∧
      (L = (linesOf (laneShares (s.cv u) f)).map fun n => { o with addr := addr48 (64 * n), dests := ((laneShares (s.cv u) f).filter (·.1 = n)).map (·.2) }) ∧
      (s.outstanding u + L.length ≤ 32)) ∧
    (∃ (s : State) (u : Cv) (f : FX) (o : RemOp) (L : List RemOp), (okXg f = true) ∧ (s.canIssue u (gRegs f (eltRegs f.typ))) ∧ (s.acquiring u = false) ∧
      ((s.cv u).active f.gd ≠ 0) ∧ (((lanesOf ((s.cv u).active f.gd)).any fun l => !aligned (s.cv u) f l) = false) ∧ (isPacked f.typ = false) ∧
      (s.opBase u .store f = some o) ∧
      (L = (linesOf (laneShares (s.cv u) f)).map fun n => { o with addr := addr48 (64 * n), payload := .store (enablesOf (((laneShares (s.cv u) f).filter (·.1 = n)).map (·.2))) ((((laneShares (s.cv u) f).filter (·.1 = n)).map (·.2)).foldl (fun b d => putLine b d ((s.cv u).eltGet f.typ d.lane f.data)) (List.replicate 64 0)) }) ∧
      (s.outstanding u + L.length ≤ 32)) ∧
    (∃ (s : State) (u : Cv) (f : FX) (o : RemOp), (okXg f = true) ∧ (s.canIssue u (gRegs f (eltRegs f.typ))) ∧ (s.acquiring u = false) ∧
      ((s.cv u).active f.gd ≠ 0) ∧ (((lanesOf ((s.cv u).active f.gd)).any fun l => !aligned (s.cv u) f l) = false) ∧ (isPacked f.typ = true) ∧
      (s.opBase u .store f = some o) ∧ (s.outstanding u + (linesOf (laneShares (s.cv u) f)).length ≤ 32)) ∧
    (∃ (s : State) (u : Cv) (f : FB) (o : RemOp) (g : CoreId), (okWm f = true) ∧ (s.canIssue u []) ∧ (s.acquiring u = false) ∧ ((s.cv u).active f.gd ≠ 0) ∧
      (((s.cv u).sGet f.src1).toNat = g.val) ∧
      (s.opBase u .wmAdd { gd := f.gd, data := 0, base := 0, index := 0, typ := 0, iscale := 0, ien := false, order := 0, off := 0 } = some o) ∧
      (hasBit (s.part o.part).stackMask (coreStack g).val = true) ∧ (s.outstanding u < 32)) ∧
    (∃ (s : State) (u : Cv) (f : FX), (okXg f = true) ∧ (s.canIssue u (gRegs f (eltRegs f.typ))) ∧ (s.acquiring u = false) ∧
      (((lanesOf ((s.cv u).active f.gd)).any fun l => !aligned (s.cv u) f l) = true)) :=
  ⟨⟨xsw, cv0, fx 5 1, remOf .load 0xC 5, _, by decide, by decide, by decide, by decide, by decide, rfl, rfl, by decide⟩,
   ⟨xsw, cv0, fx 5 1, remOf .store 0xC 5, _, by decide, by decide, by decide, by decide, by decide, by decide, rfl, rfl, by decide⟩,
   ⟨xsw, cv0, fx 5 63 (typ := 0xE), remOf .store 0xE 5, by decide, by decide, by decide, by decide, by decide, by decide, rfl, by decide⟩,
   ⟨xsw, cv0, fb 3 1 1 (typ := 0), remOf .wmAdd 0 0, 8, by decide, by decide, by decide, by decide, by decide, rfl, by decide, by decide⟩,
   ⟨cvs, cv0, fx 5 1 (off := 1), by decide +kernel⟩⟩

/-- Every hypothesis of AtomicInstructions is met somewhere, clause by clause. -/
theorem witness_AtomicInstructions :
    (∃ (s : State) (u : Cv) (f : FX) (o : RemOp) (L : List RemOp), (okXg f = true) ∧ (f.typ = 0xC) ∧ (s.canIssue u (gRegs f (max (eltRegs f.typ) 1))) ∧
      (s.acquiring u = false) ∧ ((s.cv u).active f.gd ≠ 0) ∧ (((lanesOf ((s.cv u).active f.gd)).any fun l => !aligned (s.cv u) f l) = false) ∧
      (s.opBase u .atomic f = some o) ∧
      (L = (lanesOf ((s.cv u).active f.gd)).map fun l => { o with addr := addr48 (eltAddr (s.cv u) f l).toNat, payload := .atomic { minor := 0, typ := f.typ, operand := leBytes 4 ((s.cv u).vGet l f.data.toNat).toNat }, dests := [{ lane := l, byte := 0, size := eltBits f.typ / 8, skip := 0, width := eltBits f.typ, pos := 0 }] }) ∧
      (s.outstanding u + L.length ≤ 32)) ∧
    (∃ (s : State) (u : Cv) (f : FX) (o : RemOp) (L : List RemOp), (okXg f = true) ∧ (f.typ = 1) ∧ (s.canIssue u (gRegs f (max (eltRegs f.typ) 1))) ∧
      (s.acquiring u = false) ∧ ((s.cv u).active f.gd ≠ 0) ∧ (((lanesOf ((s.cv u).active f.gd)).any fun l => !aligned (s.cv u) f l) = false) ∧
      (s.opBase u .atomic f = some o) ∧
      (L = (lanesOf ((s.cv u).active f.gd)).map fun l => { o with addr := addr48 (eltAddr (s.cv u) f l).toNat, payload := .atomic { minor := 1, typ := f.typ, operand := leBytes 4 ((s.cv u).vGet l f.data.toNat).toNat }, dests := [{ lane := l, byte := 0, size := eltBits f.typ / 8, skip := 0, width := eltBits f.typ, pos := 0 }] }) ∧
      (s.outstanding u + L.length ≤ 32)) ∧
    (∃ (s : State) (u : Cv) (f : FX) (o : RemOp) (L : List RemOp), (okXg f = true) ∧ (f.typ = 0) ∧ (s.canIssue u (gRegs f 2)) ∧ (s.acquiring u = false) ∧
      ((s.cv u).active f.gd ≠ 0) ∧ (((lanesOf ((s.cv u).active f.gd)).any fun l => !aligned (s.cv u) f l) = false) ∧ (s.opBase u .atomic f = some o) ∧
      (L = (lanesOf ((s.cv u).active f.gd)).map fun l => { o with addr := addr48 (eltAddr (s.cv u) f l).toNat, payload := .atomic { minor := 1, typ := f.typ, operand := leBytes 8 ((s.cv u).v64 l f.data.toNat).toNat }, dests := [{ lane := l, byte := 0, size := eltBits f.typ / 8, skip := 0, width := eltBits f.typ, pos := 0 }] }) ∧
      (s.outstanding u + L.length ≤ 32)) ∧
    (∃ (s : State) (u : Cv) (f : FX) (o : RemOp) (L : List RemOp), (okXg f = true) ∧ (f.typ = 0xC ∨ f.typ = 1) ∧ (s.canIssue u (gRegs f (max (eltRegs f.typ) 1))) ∧
      (s.acquiring u = false) ∧ ((s.cv u).active f.gd ≠ 0) ∧ (((lanesOf ((s.cv u).active f.gd)).any fun l => !aligned (s.cv u) f l) = false) ∧
      (s.opBase u .atomic f = some o) ∧
      (L = (lanesOf ((s.cv u).active f.gd)).map fun l => { o with addr := addr48 (eltAddr (s.cv u) f l).toNat, payload := .atomic { minor := 2, typ := f.typ, operand := leBytes 4 ((s.cv u).vGet l f.data.toNat).toNat }, dests := [{ lane := l, byte := 0, size := eltBits f.typ / 8, skip := 0, width := eltBits f.typ, pos := 0 }] }) ∧
      (s.outstanding u + L.length ≤ 32)) ∧
    (∃ (s : State) (u : Cv) (f : FX) (o : RemOp) (L : List RemOp), (okXg f = true) ∧ (f.typ = 0) ∧ (s.canIssue u (gRegs f 2)) ∧ (s.acquiring u = false) ∧
      ((s.cv u).active f.gd ≠ 0) ∧ (((lanesOf ((s.cv u).active f.gd)).any fun l => !aligned (s.cv u) f l) = false) ∧ (s.opBase u .atomic f = some o) ∧
      (L = (lanesOf ((s.cv u).active f.gd)).map fun l => { o with addr := addr48 (eltAddr (s.cv u) f l).toNat, payload := .atomic { minor := 2, typ := f.typ, operand := leBytes 8 ((s.cv u).v64 l f.data.toNat).toNat }, dests := [{ lane := l, byte := 0, size := eltBits f.typ / 8, skip := 0, width := eltBits f.typ, pos := 0 }] }) ∧
      (s.outstanding u + L.length ≤ 32)) ∧
    (∃ (s : State) (u : Cv) (f : FX) (o : RemOp) (L : List RemOp), (okXg f = true) ∧ (f.typ = 0xC ∨ f.typ = 1) ∧ (s.canIssue u (gRegs f (max (eltRegs f.typ) 1))) ∧
      (s.acquiring u = false) ∧ ((s.cv u).active f.gd ≠ 0) ∧ (((lanesOf ((s.cv u).active f.gd)).any fun l => !aligned (s.cv u) f l) = false) ∧
      (s.opBase u .atomic f = some o) ∧
      (L = (lanesOf ((s.cv u).active f.gd)).map fun l => { o with addr := addr48 (eltAddr (s.cv u) f l).toNat, payload := .atomic { minor := 3, typ := f.typ, operand := leBytes 4 ((s.cv u).vGet l f.data.toNat).toNat }, dests := [{ lane := l, byte := 0, size := eltBits f.typ / 8, skip := 0, width := eltBits f.typ, pos := 0 }] }) ∧
      (s.outstanding u + L.length ≤ 32)) ∧
    (∃ (s : State) (u : Cv) (f : FX) (o : RemOp) (L : List RemOp), (okXg f = true) ∧ (f.typ = 0) ∧ (s.canIssue u (gRegs f 2)) ∧ (s.acquiring u = false) ∧
      ((s.cv u).active f.gd ≠ 0) ∧ (((lanesOf ((s.cv u).active f.gd)).any fun l => !aligned (s.cv u) f l) = false) ∧ (s.opBase u .atomic f = some o) ∧
      (L = (lanesOf ((s.cv u).active f.gd)).map fun l => { o with addr := addr48 (eltAddr (s.cv u) f l).toNat, payload := .atomic { minor := 3, typ := f.typ, operand := leBytes 8 ((s.cv u).v64 l f.data.toNat).toNat }, dests := [{ lane := l, byte := 0, size := eltBits f.typ / 8, skip := 0, width := eltBits f.typ, pos := 0 }] }) ∧
      (s.outstanding u + L.length ≤ 32)) ∧
    (∃ (s : State) (u : Cv) (f : FX) (o : RemOp) (L : List RemOp), (okXg f = true) ∧ (f.typ = 0xC) ∧ (s.canIssue u (gRegs f (max (eltRegs f.typ) 1))) ∧
      (s.acquiring u = false) ∧ ((s.cv u).active f.gd ≠ 0) ∧ (((lanesOf ((s.cv u).active f.gd)).any fun l => !aligned (s.cv u) f l) = false) ∧
      (s.opBase u .atomic f = some o) ∧
      (L = (lanesOf ((s.cv u).active f.gd)).map fun l => { o with addr := addr48 (eltAddr (s.cv u) f l).toNat, payload := .atomic { minor := 4, typ := f.typ, operand := leBytes 4 ((s.cv u).vGet l f.data.toNat).toNat }, dests := [{ lane := l, byte := 0, size := eltBits f.typ / 8, skip := 0, width := eltBits f.typ, pos := 0 }] }) ∧
      (s.outstanding u + L.length ≤ 32)) ∧
    (∃ (s : State) (u : Cv) (f : FX) (o : RemOp) (L : List RemOp), (okXg f = true) ∧ (f.typ = 0xC) ∧ (s.canIssue u (gRegs f (max (eltRegs f.typ) 1))) ∧
      (s.acquiring u = false) ∧ ((s.cv u).active f.gd ≠ 0) ∧ (((lanesOf ((s.cv u).active f.gd)).any fun l => !aligned (s.cv u) f l) = false) ∧
      (s.opBase u .atomic f = some o) ∧
      (L = (lanesOf ((s.cv u).active f.gd)).map fun l => { o with addr := addr48 (eltAddr (s.cv u) f l).toNat, payload := .atomic { minor := 5, typ := f.typ, operand := leBytes 4 ((s.cv u).vGet l f.data.toNat).toNat }, dests := [{ lane := l, byte := 0, size := eltBits f.typ / 8, skip := 0, width := eltBits f.typ, pos := 0 }] }) ∧
      (s.outstanding u + L.length ≤ 32)) ∧
    (∃ (s : State) (u : Cv) (f : FX) (o : RemOp) (L : List RemOp), (okXg f = true) ∧ (f.typ = 0xC) ∧ (s.canIssue u (gRegs f (max (eltRegs f.typ) 1))) ∧
      (s.acquiring u = false) ∧ ((s.cv u).active f.gd ≠ 0) ∧ (((lanesOf ((s.cv u).active f.gd)).any fun l => !aligned (s.cv u) f l) = false) ∧
      (s.opBase u .atomic f = some o) ∧
      (L = (lanesOf ((s.cv u).active f.gd)).map fun l => { o with addr := addr48 (eltAddr (s.cv u) f l).toNat, payload := .atomic { minor := 6, typ := f.typ, operand := leBytes 4 ((s.cv u).vGet l f.data.toNat).toNat }, dests := [{ lane := l, byte := 0, size := eltBits f.typ / 8, skip := 0, width := eltBits f.typ, pos := 0 }] }) ∧
      (s.outstanding u + L.length ≤ 32)) ∧
    (∃ (s : State) (u : Cv) (f : FX) (o : RemOp) (L : List RemOp), (okXg f = true) ∧ (f.typ = 0xC) ∧ (okPair f.data = true) ∧ (s.canIssue u (gRegs f 2)) ∧
      (s.acquiring u = false) ∧ ((s.cv u).active f.gd ≠ 0) ∧ (((lanesOf ((s.cv u).active f.gd)).any fun l => !aligned (s.cv u) f l) = false) ∧
      (s.opBase u .atomic f = some o) ∧
      (L = (lanesOf ((s.cv u).active f.gd)).map fun l => { o with addr := addr48 (eltAddr (s.cv u) f l).toNat, payload := .atomic { minor := 7, typ := f.typ, operand := leBytes 8 ((s.cv u).v64 l f.data.toNat).toNat }, dests := [{ lane := l, byte := 0, size := eltBits f.typ / 8, skip := 0, width := eltBits f.typ, pos := 0 }] }) ∧
      (s.outstanding u + L.length ≤ 32)) ∧
    (∃ (s : State) (u : Cv) (f : FX) (o : RemOp) (L : List RemOp), (okXg f = true) ∧ (f.typ = 0xD) ∧ (s.canIssue u (gRegs f 8)) ∧ (s.acquiring u = false) ∧
      ((s.cv u).active f.gd ≠ 0) ∧ (((lanesOf ((s.cv u).active f.gd)).any fun l => !aligned (s.cv u) f l) = false) ∧ (s.opBase u .atomic f = some o) ∧
      (L = (lanesOf ((s.cv u).active f.gd)).map fun l => { o with addr := addr48 (eltAddr (s.cv u) f l).toNat, payload := .atomic { minor := 8, typ := f.typ, operand := leBytes 32 ((s.cv u).v256 l f.data.toNat).toNat }, dests := [] }) ∧
      (s.outstanding u + L.length ≤ 32)) :=
  ⟨⟨xsw, cv0, fx 5 1 (typ := 12), remOf .atomic 12 5, _, by decide, by decide, by decide, by decide, by decide, by decide, rfl, rfl, by decide⟩,
   ⟨xsw, cv0, fx 5 1 (typ := 1), remOf .atomic 1 5, _, by decide, by decide, by decide, by decide, by decide, by decide, rfl, rfl, by decide⟩,
   ⟨xsw, cv0, fx 6 1 (typ := 0), remOf .atomic 0 6, _, by decide, by decide, by decide, by decide, by decide, by decide, rfl, rfl, by decide⟩,
   ⟨xsw, cv0, fx 5 1 (typ := 12), remOf .atomic 12 5, _, by decide, by decide, by decide, by decide, by decide, by decide, rfl, rfl, by decide⟩,
   ⟨xsw, cv0, fx 6 1 (typ := 0), remOf .atomic 0 6, _, by decide, by decide, by decide, by decide, by decide, by decide, rfl, rfl, by decide⟩,
   ⟨xsw, cv0, fx 5 1 (typ := 12), remOf .atomic 12 5, _, by decide, by decide, by decide, by decide, by decide, by decide, rfl, rfl, by decide⟩,
   ⟨xsw, cv0, fx 6 1 (typ := 0), remOf .atomic 0 6, _, by decide, by decide, by decide, by decide, by decide, by decide, rfl, rfl, by decide⟩,
   ⟨xsw, cv0, fx 5 1 (typ := 12), remOf .atomic 12 5, _, by decide, by decide, by decide, by decide, by decide, by decide, rfl, rfl, by decide⟩,
   ⟨xsw, cv0, fx 5 1 (typ := 12), remOf .atomic 12 5, _, by decide, by decide, by decide, by decide, by decide, by decide, rfl, rfl, by decide⟩,
   ⟨xsw, cv0, fx 5 1 (typ := 12), remOf .atomic 12 5, _, by decide, by decide, by decide, by decide, by decide, by decide, rfl, rfl, by decide⟩,
   ⟨xsw, cv0, fx 6 1 (typ := 12), remOf .atomic 12 6, _, by decide, by decide, by decide, by decide, by decide, by decide, by decide, rfl, rfl, by decide⟩,
   ⟨xsw, cv0, fx 8 63 (typ := 13), remOf .atomic 13 8, _, by decide, by decide, by decide, by decide, by decide, by decide, rfl, rfl, by decide⟩⟩

/-- Every hypothesis of CopyInstructions is met somewhere, clause by clause. -/
theorem witness_CopyInstructions :
    (∃ (s : State) (u : Cv) (f : FC) (p : PartId) (n : Nat) (m : BitVec 16), (okFC f = true) ∧ (s.canIssue u []) ∧ (s.acquiring u = false) ∧
      ((s.cv u).active f.gd ≠ 0) ∧ (((s.cv u).sGet f.len).toNat = n) ∧ (0 < n) ∧ (n ≤ 2 ^ 24) ∧ ((s.core u.g).queue.length < 16) ∧
      (s.partOfStack (coreStack u.g) = some p) ∧ (m = 0)) ∧
    (∃ (s : State) (u : Cv) (f : FC) (n : Nat) (m : BitVec 16), (okFC f = true) ∧ (s.canIssue u []) ∧ (s.acquiring u = false) ∧ ((s.cv u).active f.gd ≠ 0) ∧
      (((s.cv u).sGet f.len).toNat = n) ∧ (0 < n) ∧ (n ≤ 2 ^ 24) ∧ ((s.core u.g).queue.length < 16) ∧ (s.partOfStack (coreStack u.g) = none) ∧ (m = 0)) ∧
    (∃ (s : State) (u : Cv) (f : FC) (n : Nat) (m : BitVec 16), (okFC f = true) ∧ (s.canIssue u []) ∧ (s.acquiring u = false) ∧ ((s.cv u).active f.gd ≠ 0) ∧
      (((s.cv u).sGet f.len).toNat = n) ∧ (0 < n) ∧ (n ≤ 2 ^ 24) ∧ (16 ≤ (s.core u.g).queue.length) ∧ (m = 0)) ∧
    (∃ (s : State) (u : Cv) (f : FC), (okFC f = true) ∧ (s.canIssue u []) ∧ (s.acquiring u = false) ∧ ((s.cv u).active f.gd ≠ 0) ∧
      (((s.cv u).sGet f.len).toNat = 0 ∨ 2 ^ 24 < ((s.cv u).sGet f.len).toNat)) ∧
    (∃ (s : State) (u : Cv) (f : FC), (okFC f = true) ∧ (s.canIssue u []) ∧ (s.acquiring u = false) ∧ ((s.cv u).active f.gd = 0)) ∧
    (∃ (s : State) (u : Cv) (f : FC) (p : PartId) (n : Nat) (m : BitVec 16), (okFC f = true) ∧ (s.canIssue u []) ∧ (s.acquiring u = false) ∧
      ((s.cv u).active f.gd ≠ 0) ∧ ((s.cv u).sGet f.len = BitVec.ofNat 64 (m.toNat * 2 ^ 48 + n)) ∧ (0 < n) ∧ (n ≤ 2 ^ 24) ∧
      ((s.core u.g).queue.length < 16) ∧ (s.partOfStack (coreStack u.g) = some p) ∧ (m ≠ 0)) ∧
    (∃ (s : State) (u : Cv) (f : FC) (n : Nat) (m : BitVec 16), (okFC f = true) ∧ (s.canIssue u []) ∧ (s.acquiring u = false) ∧ ((s.cv u).active f.gd ≠ 0) ∧
      ((s.cv u).sGet f.len = BitVec.ofNat 64 (m.toNat * 2 ^ 48 + n)) ∧ (0 < n) ∧ (n ≤ 2 ^ 24) ∧ ((s.core u.g).queue.length < 16) ∧
      (s.partOfStack (coreStack u.g) = none) ∧ (m ≠ 0)) ∧
    (∃ (s : State) (u : Cv) (f : FC) (n : Nat) (m : BitVec 16), (okFC f = true) ∧ (s.canIssue u []) ∧ (s.acquiring u = false) ∧ ((s.cv u).active f.gd ≠ 0) ∧
      ((s.cv u).sGet f.len = BitVec.ofNat 64 (m.toNat * 2 ^ 48 + n)) ∧ (0 < n) ∧ (n ≤ 2 ^ 24) ∧ (16 ≤ (s.core u.g).queue.length) ∧ (m ≠ 0)) ∧
    (∃ (s : State) (u : Cv) (f : FC), (okFC f = true) ∧ (s.canIssue u []) ∧ (s.acquiring u = false) ∧ ((s.cv u).active f.gd ≠ 0) ∧
      (((s.cv u).sGet f.len).toNat % 2 ^ 48 = 0 ∨ 2 ^ 24 < ((s.cv u).sGet f.len).toNat % 2 ^ 48 ∨ ((s.cv u).sGet f.len).toNat < 2 ^ 48)) ∧
    (∃ (s : State) (u : Cv) (f : FC), (okFC f = true) ∧ (s.canIssue u []) ∧ (s.acquiring u = false) ∧ ((s.cv u).active f.gd = 0)) ∧
    (∃ (s : State) (g : CoreId) (e : Ecc), ((s.core g).queue = [] ∨ (s.stack (coreStack g)).cdLost = true)) ∧
    (∃ (s : State) (g : CoreId) (e : Ecc) (c : CopyDesc) (q : List CopyDesc), ((s.core g).queue = c :: q) ∧ ((s.stack (coreStack g)).cdLost = false) ∧
      (s.check (stackEp (coreStack g)) ⟨c.part % 16, by omega⟩ .read (if 2 ^ 46 ≤ c.dst + c.pos && c.dst + c.pos < 2 ^ 47 then .toHost else .core) c.tag (c.src + c.pos) c.version = (.hold, s))) ∧
    (∃ (s : State) (g : CoreId) (e : Ecc) (c : CopyDesc) (q : List CopyDesc) (st : BitVec 4), ((s.core g).queue = c :: q) ∧ ((q.all fun x => x.id ≠ c.id) = true) ∧
      ((s.stack (coreStack g)).cdLost = false) ∧
      (s.check (stackEp (coreStack g)) ⟨c.part % 16, by omega⟩ .read (if 2 ^ 46 ≤ c.dst + c.pos && c.dst + c.pos < 2 ^ 47 then .toHost else .core) c.tag (c.src + c.pos) c.version = (.fail st, s))) ∧
    (∃ (s : State) (s1 : State) (s2 : State) (g : CoreId) (e : Ecc) (c : CopyDesc) (q : List CopyDesc) (src : Place) (l : List Place) (ver : Option (Nat × BitVec 64)) (ds : List (Nat × Nat × Place)),
      ((s.core g).queue = c :: q) ∧ ((s.stack (coreStack g)).cdLost = false) ∧
      (s.check (stackEp (coreStack g)) ⟨c.part % 16, by omega⟩ .read (if 2 ^ 46 ≤ c.dst + c.pos && c.dst + c.pos < 2 ^ 47 then .toHost else .core) c.tag (c.src + c.pos) c.version = (.ok (src :: l) ver, s1)) ∧
      (s1.checkDsts (stackEp (coreStack g)) ⟨c.part % 16, by omega⟩ .core c (if c.mask = 0 then [0] else bitList c.mask) = (.ok ds, s2)) ∧
      (s2.copyRoom (stackEp (coreStack g)) (if c.tag = 0 then 2 else 1) (if c.srcOwn then ds.map fun q => q.2.2.tgt else [src.tgt]) (if c.srcOwn then c.next else 16) = true)) ∧
    (∃ (s : State) (s1 : State) (s2 : State) (g : CoreId) (e : Ecc) (c : CopyDesc) (q : List CopyDesc) (src : Place) (l : List Place) (ver : Option (Nat × BitVec 64)) (a : Nat) (d : Place),
      ((s.core g).queue = c :: q) ∧ ((q.all fun x => x.id ≠ c.id) = true) ∧ ((s.stack (coreStack g)).cdLost = false) ∧
      (s.check (stackEp (coreStack g)) ⟨c.part % 16, by omega⟩ .read (if 2 ^ 46 ≤ c.dst + c.pos && c.dst + c.pos < 2 ^ 47 then .toHost else .core) c.tag (c.src + c.pos) c.version = (.ok (src :: l) ver, s1)) ∧
      (s1.checkDsts (stackEp (coreStack g)) ⟨c.part % 16, by omega⟩ .core c [0] = (.ok [(0, a, d)], s2)) ∧ (c.mask = 0) ∧ (c.srcOwn = false) ∧
      (s2.copyRoom (stackEp (coreStack g)) (if c.tag = 0 then 2 else 1) [src.tgt] 16 = true) ∧ ((s2.core g).queue = c :: q) ∧
      (hasBit (s2.ep (stackEp (coreStack g))).lost src.tgt.val = false)) ∧
    (∃ (s : State) (s1 : State) (s2 : State) (g : CoreId) (e : Ecc) (c : CopyDesc) (q : List CopyDesc) (src : Place) (l : List Place) (ver : Option (Nat × BitVec 64)) (a : Nat) (d : Place),
      ((s.core g).queue = c :: q) ∧ ((q.all fun x => x.id ≠ c.id) = true) ∧ ((s.stack (coreStack g)).cdLost = false) ∧
      (s.check (stackEp (coreStack g)) ⟨c.part % 16, by omega⟩ .read (if 2 ^ 46 ≤ c.dst + c.pos && c.dst + c.pos < 2 ^ 47 then .toHost else .core) c.tag (c.src + c.pos) c.version = (.ok (src :: l) ver, s1)) ∧
      (s1.checkDsts (stackEp (coreStack g)) ⟨c.part % 16, by omega⟩ .core c [0] = (.ok [(0, a, d)], s2)) ∧ (c.mask = 0) ∧ (c.srcOwn = true) ∧
      (c.srcWm = none) ∧ (s2.copyRoom (stackEp (coreStack g)) (if c.tag = 0 then 2 else 1) [d.tgt] c.next = true) ∧ ((s2.core g).queue = c :: q) ∧
      (hasBit (s2.ep (stackEp (coreStack g))).lost d.tgt.val = false) ∧ (s2.mlAccess (.core g) src.loc c.wait = .ok) ∧
      ((s2.mlFound e src.loc).mlHasBad src.loc c.next = false)) :=
  ⟨⟨xsw, cv0, { gd := gP 0, dst := 1, src := 3, len := 1, low := 0x0458 }, 1, 8, 0, by decide +kernel⟩,
   ⟨cvs, cv0, { gd := gP 0, dst := 1, src := 3, len := 1, low := 0 }, 8, 0, by decide +kernel⟩,
   ⟨(xsw.modCore 0 fun k => { k with queue := List.replicate 16 {} }), cv0, { gd := gP 0, dst := 1, src := 3, len := 1, low := 0 }, 8, 0, by decide +kernel⟩,
   ⟨cvs, cv0, { gd := gP 0, dst := 1, src := 3, len := 5, low := 0 }, by decide +kernel⟩,
   ⟨cvs, cv0, { gd := gP 3, dst := 1, src := 3, len := 1, low := 0 }, by decide +kernel⟩,
   ⟨(xsw.modCv cv0 fun c => { c with s := [(1, 0x0003000000000040)] }), cv0, { gd := gP 0, dst := 1, src := 3, len := 1, low := 0 }, 1, 64, 3, by decide +kernel⟩,
   ⟨(cvs.modCv cv0 fun c => { c with s := [(1, 0x0003000000000040)] }), cv0, { gd := gP 0, dst := 1, src := 3, len := 1, low := 0 }, 64, 3, by decide +kernel⟩,
   ⟨((xsw.modCore 0 fun k => { k with queue := List.replicate 16 {} }).modCv cv0 fun c => { c with s := [(1, 0x0003000000000040)] }), cv0, { gd := gP 0, dst := 1, src := 3, len := 1, low := 0 }, 64, 3, by decide +kernel⟩,
   ⟨cvs, cv0, { gd := gP 0, dst := 1, src := 3, len := 1, low := 0 }, by decide +kernel⟩,
   ⟨cvs, cv0, { gd := gP 3, dst := 1, src := 3, len := 1, low := 0 }, by decide +kernel⟩,
   ⟨xsw, 0, {}, by decide +kernel⟩,
   ⟨{ xsw.modCore 0 (fun k => { k with queue := [{ src := 5, len := 64, part := 1 }] }) with parts := holdParts, now := 5 }, 0, {}, { src := 5, len := 64, part := 1 }, [], by decide, by decide, rfl⟩,
   ⟨xsw.modCore 0 (fun k => { k with queue := [{ id := 3, src := 2 ^ 47, len := 64, part := 1 }] }), 0, {}, { id := 3, src := 2 ^ 47, len := 64, part := 1 }, [], _, by decide, by decide, by decide, rfl⟩,
   ⟨xsw.modCore 0 (fun k => { k with queue := [{ id := 3, src := 0x20000000000, dst := 0x20000000000, len := 64, part := 1 }] }), _, _, 0, {}, { id := 3, src := 0x20000000000, dst := 0x20000000000, len := 64, part := 1 }, [], ⟨0, 0⟩, [], none, [(0, 0x20000000000, ⟨0, 0⟩)], by decide, by decide, rfl, rfl, by decide⟩,
   ⟨(xsw.modPart 1 fun b => { b with shape := 0x200000003 }).modCore 0 (fun k => { k with queue := [{ id := 3, src := 0x20020000000, dst := 0x20000000000, len := 64, part := 1 }] }), _, _, 0, {}, { id := 3, src := 0x20020000000, dst := 0x20000000000, len := 64, part := 1 }, [], ⟨1, 0x20000000⟩, [], none, 0x20000000000, ⟨0, 0⟩, by decide, by decide, by decide, rfl, rfl, by decide, by decide, by decide, by decide, by decide⟩,
   ⟨xsw.modCore 0 (fun k => { k with queue := [{ id := 3, src := 0x20000000000, dst := 0x20000000000, len := 64, part := 1, srcOwn := true }] }), _, _, 0, {}, { id := 3, src := 0x20000000000, dst := 0x20000000000, len := 64, part := 1, srcOwn := true }, [], ⟨0, 0⟩, [], none, 0x20000000000, ⟨0, 0⟩, by decide, by decide, by decide, rfl, rfl, by decide, by decide, by decide, by decide, by decide, by decide, by decide, by decide⟩⟩

/-- Every hypothesis of ControlFlow is met somewhere, clause by clause. -/
theorem witness_ControlFlow :
    (∃ (s : State) (u : Cv) (f : FB), ((okCtlB f && f.imm = 0) = true) ∧ (s.canIssue u [])) ∧
    (∃ (s : State) (u : Cv) (f : FB), (okCtlB f = true) ∧ (s.canIssue u []) ∧ ((s.cv u).active f.gd = (s.cv u).top)) ∧
    (∃ (s : State) (u : Cv) (f : FB), (okCtlB f = true) ∧ (s.canIssue u []) ∧ ((s.cv u).active f.gd ≠ (s.cv u).top)) ∧
    (∃ (s : State) (u : Cv) (f : FB), (okCtlB f = true) ∧ (s.canIssue u []) ∧ ((s.cv u).active f.gd ≠ 0)) ∧
    (∃ (s : State) (u : Cv) (f : FB), (okCtlB f = true) ∧ (s.canIssue u []) ∧ ((s.cv u).active f.gd = 0)) ∧
    (∃ (s : State) (u : Cv) (f : FB), (okCtlB f = true) ∧ (s.canIssue u []) ∧ ((s.cv u).stack.length < 32)) ∧
    (∃ (s : State) (u : Cv) (f : FB), (okCtlB f = true) ∧ (s.canIssue u []) ∧ (32 ≤ (s.cv u).stack.length)) ∧
    (∃ (s : State) (u : Cv) (f : FB), (okCtlU f = true) ∧ (s.canIssue u []) ∧ (32 ≤ (s.cv u).stack.length)) ∧
    (∃ (s : State) (u : Cv) (f : FB), (okCtlU f = true) ∧ (s.canIssue u []) ∧ ((s.cv u).stack.length < 2)) ∧
    (∃ (s : State) (u : Cv) (f : FB), (okCtlU f = true) ∧ (s.canIssue u []) ∧ ((s.cv u).stack.length < 2) ∧ ((s.cv u).top = 0)) ∧
    (∃ (s : State) (u : Cv) (f : FB) (a : BitVec 32) (b : BitVec 32) (r : List (BitVec 32)), (okCtlU f = true) ∧ (s.canIssue u []) ∧ ((s.cv u).stack = a :: b :: r)) ∧
    (∃ (s : State) (u : Cv) (f : FB) (a : BitVec 32) (b : BitVec 32) (r : List (BitVec 32)), ((okCtlU f && f.imm = 0) = true) ∧ (s.canIssue u []) ∧
      ((s.cv u).stack = a :: b :: r)) ∧
    (∃ (s : State) (u : Cv) (f : FB), ((okCtlU f && f.imm = 0) = true) ∧ (s.canIssue u []) ∧ ((s.cv u).stack.length < 2)) ∧
    (∃ (s : State) (u : Cv) (f : FB), (okCtlU f = true) ∧ (s.canIssue u []) ∧ ((s.cv u).stack.length < 32)) ∧
    (∃ (s : State) (u : Cv) (f : FB), (okCtlB f = true) ∧ (s.canIssue u [])) ∧
    (∃ (s : State) (u : Cv) (f : FB), (okCtlU f = true) ∧ (s.canIssue u []) ∧ ((s.cv u).top ≠ 0)) ∧
    (∃ (s : State) (u : Cv) (f : FB) (a : BitVec 32) (b : BitVec 32) (r : List (BitVec 32)), (okCtlU f = true) ∧ (s.canIssue u []) ∧
      ((s.cv u).stack = a :: b :: r) ∧ (a = 0)) ∧
    (∃ (s : State) (u : Cv) (f : FB), ((okCtlU f && f.imm = 0) = true) ∧ (s.canIssue u [])) :=
  ⟨⟨cvs, cv0, fb 0 0 0 (typ := 0), by decide +kernel⟩,
   ⟨cvs, cv0, fb 0 0 0x1FFFFFE (typ := 0) (gd := gAll), by decide +kernel⟩,
   ⟨cvs, cv0, fb 0 0 0x1FFFFFE (typ := 0), by decide +kernel⟩,
   ⟨cvs, cv0, fb 0 0 7 (typ := 0), by decide +kernel⟩,
   ⟨cvs, cv0, fb 0 0 7 (typ := 0) (gd := gP 3), by decide +kernel⟩,
   ⟨cvs, cv0, fb 0 0 7 (typ := 0), by decide +kernel⟩,
   ⟨(cvs.modCv cv0 fun c => { c with stack := List.replicate 32 1 }), cv0, fb 0 0 7 (typ := 0), by decide +kernel⟩,
   ⟨(cvs.modCv cv0 fun c => { c with stack := List.replicate 32 1 }), cv0, fb 0 0 7 (typ := 0) (gd := gAll), by decide +kernel⟩,
   ⟨cvs, cv0, fb 0 0 7 (typ := 0) (gd := gAll), by decide +kernel⟩,
   ⟨(cvs.modCv cv0 fun c => { c with stack := [0] }), cv0, fb 0 0 7 (typ := 0) (gd := gAll), by decide +kernel⟩,
   ⟨(cvs.modCv cv0 fun c => { c with stack := [5, 13, 15] }), cv0, fb 0 0 7 (typ := 0) (gd := gAll), 5, 13, [15], by decide +kernel⟩,
   ⟨(cvs.modCv cv0 fun c => { c with stack := [5, 13, 15] }), cv0, fb 0 0 0 (typ := 0) (gd := gAll), 5, 13, [15], by decide +kernel⟩,
   ⟨cvs, cv0, fb 0 0 0 (typ := 0) (gd := gAll), by decide +kernel⟩,
   ⟨cvs, cv0, fb 0 0 7 (typ := 0) (gd := gAll), by decide +kernel⟩,
   ⟨cvs, cv0, fb 0 0 7 (typ := 0), by decide +kernel⟩,
   ⟨cvs, cv0, fb 0 0 0x1FFFFFE (typ := 0) (gd := gAll), by decide +kernel⟩,
   ⟨(cvs.modCv cv0 fun c => { c with stack := [0, 13, 15] }), cv0, fb 0 0 7 (typ := 0) (gd := gAll), 0, 13, [15], by decide +kernel⟩,
   ⟨cvs, cv0, fb 0 0 0 (typ := 0) (gd := gAll), by decide +kernel⟩⟩

/-- Every hypothesis of BarriersAndFences is met somewhere, clause by clause. -/
theorem witness_BarriersAndFences :
    (∃ (s : State) (u : Cv) (f : FB) (n : Fin 4), (okCtlU f = true) ∧ (s.canIssue u []) ∧ (f.imm.toNat = n.val) ∧
      (((kget {} (s.cluster (coreStack u.g) (coreCluster u.g)).barriers n.val).arrived + 1).toNat < (kget {} (s.cluster (coreStack u.g) (coreCluster u.g)).barriers n.val).participants.toNat)) ∧
    (∃ (s : State) (u : Cv) (f : FB) (n : Fin 4), (okCtlU f = true) ∧ (s.canIssue u []) ∧ (f.imm.toNat = n.val) ∧
      ((kget {} (s.cluster (coreStack u.g) (coreCluster u.g)).barriers n.val).participants ≠ 0) ∧
      ((kget {} (s.cluster (coreStack u.g) (coreCluster u.g)).barriers n.val).participants.toNat ≤ ((kget {} (s.cluster (coreStack u.g) (coreCluster u.g)).barriers n.val).arrived + 1).toNat)) ∧
    (∃ (s : State) (u : Cv) (f : FB) (n : Fin 4), (okCtlU f = true) ∧ (s.canIssue u []) ∧ (f.imm.toNat = n.val) ∧
      ((kget {} (s.cluster (coreStack u.g) (coreCluster u.g)).barriers n.val).participants = 0)) ∧
    (∃ (s : State) (u : Cv) (f : FB), ((okCtlU f && f.imm = 0) = true) ∧ (s.canIssue u []) ∧ (((s.core u.g).cv (u.h + 1)).run = .running)) ∧
    (∃ (s : State) (u : Cv) (f : FB), ((okCtlU f && f.imm = 0) = true) ∧ (s.canIssue u []) ∧ (((s.core u.g).cv (u.h + 1)).run.fenced = true)) ∧
    (∃ (s : State) (u : Cv) (f : FB), ((f.gd.ok && f.gd.unguarded && f.typ = 0 && f.rnd = 0 && f.dest = 0 && f.src1 = 0 && f.imm = 0) = true) ∧ (s.canIssue u []) ∧
      (s.covered u 0xFFFFFFFF = false)) ∧
    (∃ (s : State) (u : Cv) (f : FB), ((f.gd.ok && f.gd.unguarded && f.typ = 0 && f.rnd = 0 && f.dest = 0 && f.src1 = 0 && f.imm = 0) = true) ∧ (s.canIssue u []) ∧
      (s.covered u 0xFFFFFFFF = true)) :=
  ⟨⟨(cvs.modCluster 0 0 fun k => { k with barriers := [(2, { participants := 2 })] }), cv0, fb 0 0 2 (typ := 0) (gd := gAll), 2, by decide +kernel⟩,
   ⟨(cvs.modCluster 0 0 fun k => { k with barriers := [(2, { participants := 1 })] }), cv0, fb 0 0 2 (typ := 0) (gd := gAll), 2, by decide +kernel⟩,
   ⟨(cvs.modCluster 0 0 fun k => { k with barriers := [(2, { participants := 0 })] }), cv0, fb 0 0 2 (typ := 0) (gd := gAll), 2, by decide +kernel⟩,
   ⟨(cvs.modCv ⟨0, 1⟩ fun c => { c with run := .running }), cv0, fb 0 0 0 (typ := 0) (gd := gAll), by decide +kernel⟩,
   ⟨cvs, cv0, fb 0 0 0 (typ := 0) (gd := gAll), by decide +kernel⟩,
   ⟨cvs, cv0, fb 0 0 0 (typ := 0) (gd := gAll), by decide +kernel⟩,
   ⟨{ cvs with ops := [{ kind := .store, issuer := .convoy cv0, snd := 0, part := 0 }] }, cv0, fb 0 0 0 (typ := 0) (gd := gAll), by decide +kernel⟩⟩

/-- Every hypothesis of WaymarksAndIdentity is met somewhere, clause by clause. -/
theorem witness_WaymarksAndIdentity :
    (∃ (s : State) (u : Cv) (f : FB), (okWm f = true) ∧ (s.canIssue u []) ∧ ((s.cv u).active f.gd ≠ 0) ∧
      ((kget 0 (s.core u.g).wm f.dest.toNat).toNat + (wmOperand (s.cv u) f).toNat < 2 ^ 32)) ∧
    (∃ (s : State) (u : Cv) (f : FB), (okWm f = true) ∧ (s.canIssue u []) ∧ ((s.cv u).active f.gd ≠ 0) ∧
      (2 ^ 32 ≤ (kget 0 (s.core u.g).wm f.dest.toNat).toNat + (wmOperand (s.cv u) f).toNat)) ∧
    (∃ (s : State) (u : Cv) (f : FB), (okWm f = true) ∧ (s.canIssue u []) ∧ ((s.cv u).active f.gd ≠ 0)) ∧
    (∃ (s : State) (u : Cv) (f : FB), (okWm f = true) ∧ (s.canIssue u []) ∧ ((s.cv u).active f.gd ≠ 0) ∧
      (((wmOperand (s.cv u) f).setWidth 32 : BitVec 32).toNat ≤ (kget 0 (s.core u.g).wm f.dest.toNat).toNat)) ∧
    (∃ (s : State) (u : Cv) (f : FB), (okWm f = true) ∧ (s.canIssue u []) ∧ ((s.cv u).active f.gd ≠ 0) ∧
      ((kget 0 (s.core u.g).wm f.dest.toNat).toNat < ((wmOperand (s.cv u) f).setWidth 32 : BitVec 32).toNat)) ∧
    (∃ (s : State) (u : Cv) (f : FB), ((f.gd.ok && f.typ = 0 && f.rnd = 0 && okS f.dest && f.imm = 0) = true) ∧ (s.canIssue u [])) ∧
    (∃ (s : State) (u : Cv) (f : FB), ((f.gd.ok && f.typ = 0 && f.rnd = 0 && f.src1 = 0) = true) ∧ (f.imm = 0) ∧ (s.canIssue u [f.dest.toNat])) ∧
    (∃ (s : State) (u : Cv) (f : FB), ((f.gd.ok && f.typ = 0 && f.rnd = 0 && f.src1 = 0) = true) ∧ (f.imm = 1) ∧ (s.canIssue u [f.dest.toNat])) ∧
    (∃ (s : State) (u : Cv) (f : FB), ((f.gd.ok && f.typ = 0 && f.rnd = 0 && f.src1 = 0 && okS f.dest) = true) ∧ (f.imm = 2) ∧ (s.canIssue u [])) ∧
    (∃ (s : State) (u : Cv) (f : FB), ((f.gd.ok && f.typ = 0 && f.rnd = 0 && f.src1 = 0 && okS f.dest) = true) ∧ (f.imm = 3) ∧ (s.canIssue u [])) ∧
    (∃ (s : State) (u : Cv) (f : FB), ((f.gd.ok && f.typ = 0 && f.rnd = 0 && f.src1 = 0 && okS f.dest) = true) ∧ (f.imm = 4) ∧ (s.canIssue u [])) ∧
    (∃ (s : State) (u : Cv) (f : FB), ((f.gd.ok && f.typ = 0 && f.rnd = 0 && f.src1 = 0 && okS f.dest) = true) ∧ (f.imm = 5) ∧ (s.canIssue u [])) ∧
    (∃ (s : State) (u : Cv) (f : FB), ((f.gd.ok && f.typ = 0 && f.rnd = 0 && f.src1 = 0 && okS f.dest) = true) ∧ (f.imm = 6) ∧ (s.canIssue u [])) ∧
    (∃ (s : State) (u : Cv) (f : FB), ((f.gd.ok && f.typ = 0 && f.rnd = 0 && f.src1 = 0 && okS f.dest) = true) ∧ (f.imm = 7) ∧
      ((s.cluster (coreStack u.g) (coreCluster u.g)).mode = 1) ∧ (s.canIssue u [])) ∧
    (∃ (s : State) (u : Cv) (f : FB), ((f.gd.ok && f.typ = 0 && f.rnd = 0 && f.src1 = 0 && okS f.dest) = true) ∧ (f.imm = 8) ∧
      ((s.cluster (coreStack u.g) (coreCluster u.g)).mode ≠ 1) ∧ (s.canIssue u [])) ∧
    (∃ (s : State) (u : Cv) (f : FB), ((f.gd.ok && f.typ = 0 && f.rnd = 0 && f.src1 = 0 && okS f.dest && f.imm = 0) = true) ∧ (s.canIssue u [])) ∧
    (∃ (s : State) (u : Cv) (f : FB), ((f.gd.ok && f.typ = 0 && f.rnd = 0 && f.src1 = 0 && f.dest = 0) = true) ∧ (f.imm.toNat < 64) ∧ (s.canIssue u []) ∧
      ((s.cv u).active f.gd ≠ 0)) ∧
    (∃ (s : State) (u : Cv) (f : FB), ((f.gd.ok && f.typ = 0 && f.rnd = 0 && f.src1 = 0 && f.dest = 0) = true) ∧ (f.imm.toNat < 256) ∧ (s.canIssue u []) ∧
      ((s.cv u).active f.gd ≠ 0)) ∧
    (∃ (s : State) (u : Cv) (w : BitVec 64), ((s.cv u).run = .running) ∧ (s.mayIssue u = true) ∧ (reservedWord w = true)) ∧
    (∃ (s : State) (u : Cv), ((s.cv u).run = .running) ∧ (s.mayIssue u = true) ∧ (s.progLen u.g ≤ (s.cv u).pc)) :=
  ⟨⟨cvs, cv0, fb 9 3 5 (typ := 0), by decide +kernel⟩,
   ⟨(cvs.modCv cv0 fun c => { c with s := [(3, 0xFFFFFFFF)] }), cv0, fb 9 3 5 (typ := 0), by decide +kernel⟩,
   ⟨cvs, cv0, fb 9 3 5 (typ := 0), by decide +kernel⟩,
   ⟨cvs, cv0, fb 9 63 0 (typ := 0), by decide +kernel⟩,
   ⟨cvs, cv0, fb 9 3 5 (typ := 0), by decide +kernel⟩,
   ⟨cvs, cv0, fb 9 3 0 (typ := 0), by decide +kernel⟩,
   ⟨cvs, cv0, fb 9 0 0 (typ := 0), by decide +kernel⟩,
   ⟨cvs, cv0, fb 9 0 1 (typ := 0), by decide +kernel⟩,
   ⟨cvs, cv0, fb 9 0 2 (typ := 0), by decide +kernel⟩,
   ⟨cvs, cv0, fb 9 0 3 (typ := 0), by decide +kernel⟩,
   ⟨cvs, cv0, fb 9 0 4 (typ := 0), by decide +kernel⟩,
   ⟨cvs, cv0, fb 9 0 5 (typ := 0), by decide +kernel⟩,
   ⟨cvs, cv0, fb 9 0 6 (typ := 0), by decide +kernel⟩,
   ⟨(cvs.modCluster 0 0 fun k => { k with mode := 1, period := 9, deadline := 100 }), cv0, fb 9 0 7 (typ := 0), by decide +kernel⟩,
   ⟨cvs, cv0, fb 9 0 8 (typ := 0), by decide +kernel⟩,
   ⟨cvs, cv0, fb 9 0 0 (typ := 0), by decide +kernel⟩,
   ⟨(cvs.modCv cv0 fun c => { c with flags := 0x13 }), cv0, fb 0 0 3 (typ := 0), by decide +kernel⟩,
   ⟨cvs, cv0, fb 0 0 255 (typ := 0), by decide +kernel⟩,
   ⟨cvs, cv0, 0, by decide +kernel⟩,
   ⟨cvs, cv0, by decide +kernel⟩⟩

/-- Every hypothesis of PortDieOperations is met somewhere, clause by clause. -/
theorem witness_PortDieOperations :
    (∃ (s : State) (a : Arr) (k : Fin 8), (s.takesData a .load) ∧ (epDie a.rx = some k) ∧ (a.h.mcast = false) ∧ (a.h.origin ≠ a.rx) ∧
      (s.dieGone a.rx .load = false) ∧ (s.hbmGone a.rx .load a.h.loc = false) ∧ (s.hbmHasBad (a.h.loc - a.h.loc % 64) 64 = false)) ∧
    (∃ (s : State) (a : Arr) (be : BitVec 64) (d : List Byte) (k : Fin 8) (b : Nat), (s.takesData a .store) ∧ (epDie a.rx = some k) ∧ (a.h.mcast = false) ∧
      (a.h.origin ≠ a.rx) ∧ (s.dieGone a.rx .store = false) ∧ (s.hbmGone a.rx .store a.h.loc = false) ∧ (s.sealHolds a.h.loc = false) ∧ (d.length = 64)) ∧
    (∃ (s : State) (a : Arr) (k : Fin 8) (opd : List Byte), (s.takesData a .atomic) ∧ (epDie a.rx = some k) ∧ (a.h.mcast = false) ∧ (a.h.origin ≠ a.rx) ∧
      (s.dieGone a.rx .atomic = false) ∧ (s.hbmGone a.rx .atomic a.h.loc = false) ∧ (s.sealHolds a.h.loc = false) ∧ ((s.die k).replay = []) ∧
      (ageOf (s.copyNow a.rx) (tagFirst a.h.otag) < 99990) ∧ (beforeReset (s.die k).resetAt (s.copyNow a.rx) (tagFirst a.h.otag) = false) ∧
      (s.hbmHasBad a.h.loc 4 = false) ∧ (opd.length = 4)) ∧
    (∃ (s : State) (a : Arr) (k : Fin 8) (p : AtomP) (r : Replay), (s.takesData a .atomic) ∧ (epDie a.rx = some k) ∧ (a.h.mcast = false) ∧ (a.h.origin ≠ a.rx) ∧
      (s.dieGone a.rx .atomic = false) ∧ (s.hbmGone a.rx .atomic a.h.loc = false) ∧ (s.sealHolds a.h.loc = false) ∧ ((s.die k).replay = [r]) ∧
      (r.id = tagId a.h.otag) ∧ (s.copyNow a.rx < r.expiry)) ∧
    (∃ (s : State) (a : Arr) (dst : BitVec 64) (n : Nat) (de : EpId) (dl : Nat) (k : Fin 8), (s.takesData a .copyRead) ∧ (epDie a.rx = some k) ∧
      (a.h.mcast = false) ∧ (a.h.origin ≠ a.rx) ∧ (s.dieGone a.rx .copyRead = false) ∧ (s.hbmGone a.rx .copyRead a.h.loc = false) ∧
      (s.hbmHasBad a.h.loc n = false) ∧ (de ≠ a.rx)) ∧
    (∃ (s : State) (a : Arr) (d : List Byte) (k : Fin 8) (b : Nat), (s.takesData a .copyData) ∧ (epDie a.rx = some k) ∧ (a.h.mcast = false) ∧ (a.h.origin ≠ a.rx) ∧
      (s.dieGone a.rx .copyData = false) ∧ (s.hbmGone a.rx .copyData a.h.loc = false) ∧ (s.sealHolds a.h.loc = false) ∧ (a.h.otag.toNat % 32 ≠ a.rx.val)) ∧
    (∃ (s : State) (e : EpId) (id : BitVec 48) (k : Fin 8), (epDie e = some k) ∧ ((s.die k).full = [])) :=
  ⟨⟨fab, dat 0 19 824633720896, 3, by decide +kernel⟩,
   ⟨fab, dat 0 19 824633720896, 3, List.replicate 64 1, 3, 5, by decide +kernel⟩,
   ⟨fab, dat 0 19 824633720896, 3, [1, 0, 0, 0], by decide +kernel⟩,
   ⟨fab.modDie 3 (fun d => { d with replay := [⟨0, 0, 7, 100⟩] }), dat 0 19 824633720896, 3, ⟨0, 0xC, []⟩, ⟨0, 0, 7, 100⟩, by decide +kernel⟩,
   ⟨fab, dat 0 19 824633720896, 0, 8, 5, 0, 3, by decide +kernel⟩,
   ⟨fab, dat 5 19 824633720896, [1, 2], 3, 5, by decide +kernel⟩,
   ⟨fab.modDie 3 (fun d => { d with replay := [⟨0, 0, 7, 0⟩] }), 19, 0, 3, by decide +kernel⟩⟩

/-- Every hypothesis of RepliesAndCompletions is met somewhere, clause by clause. -/
theorem witness_RepliesAndCompletions :
    (∃ (s : State) (a : Arr) (d : List Byte) (q : RemOp) (att : Attempt) (u : Cv) (l : Fin 32) (b : Nat), (s.takesData a .readData) ∧
      (s.dieGone a.rx .readData = false) ∧ (a.h.status = 0) ∧ (q.kind = .load) ∧ (s.ops = [q]) ∧ (q.attempts = [att]) ∧ (att.sent = true) ∧
      (att.answered = false) ∧ (att.mcast = false) ∧ (q.issuer = .convoy u) ∧ (q.snd = a.rx) ∧ (q.tgt = a.h.origin) ∧ (q.typ = 0xC) ∧
      ((s.cv u).run = .running) ∧ (att.seq = a.h.otag.setWidth 24) ∧ (q.dests = [{ lane := l, byte := b, size := 4, skip := 0, width := 32, pos := 0 }])) ∧
    (∃ (s : State) (a : Arr) (r1 : AtomR) (r2 : AtomR) (q : RemOp) (att : Attempt) (u : Cv) (l : Fin 32), (s.hears a) ∧ (a.turnpike = true) ∧ (r1.id ≠ 0) ∧
      (r2.id = 0) ∧ (r1.status = 0) ∧ (q.kind = .atomic) ∧ (s.ops = [q]) ∧ (q.attempts = [att]) ∧ (att.sent = true) ∧ (att.answered = false) ∧
      (att.mcast = false) ∧ (q.issuer = .convoy u) ∧ (q.snd = a.rx) ∧ (q.tgt = a.h.origin) ∧ (q.typ = 0xC) ∧ ((s.cv u).run = .running) ∧ (att.seq = r1.seq) ∧
      (q.dests = [{ lane := l, byte := 0, size := 4, skip := 0, width := 32, pos := 0 }])) ∧
    (∃ (s : State) (a : Arr) (g : CoreId) (w : BitVec 6) (n : Nat), (s.takesData a .wmAdd) ∧ (a.rx = stackEp (coreStack g)) ∧ (s.dieGone a.rx .wmAdd = false) ∧
      ((s.ep a.rx).wmReplay = []) ∧ (ageOf (s.copyNow a.rx) (tagFirst a.h.otag) < 99990) ∧ (a.h.origin ≠ a.rx) ∧
      (∀ r, s.physOf (coreStack g) (coreCluster g) = some r → (s.region (coreStack g) r).depth = .awake) ∧ ((kget 0 (s.core g).wm w.toNat).toNat + n < 2 ^ 32)) ∧
    (∃ (s : State) (t : PortId) (tag : Nat) (d : List Byte) (r : HostRead), ((s.port t).pendingReads = [r]) ∧ (r.tag = tag) ∧ (r.op = .load) ∧
      (r.a.h.origin ≠ gwEp t)) ∧
    (∃ (s : State) (n : Nat) (q : RemOp) (f : Nat) (att : Attempt), (s.ops = [q]) ∧ (q.serial = n) ∧ (q.first = some f) ∧ (q.attempts = [att]) ∧
      (att.sent = true) ∧ (att.answered = true) ∧ (q.deadline = none) ∧ (f + s.timeoutOf q.part ≤ s.copyNow q.snd) ∧
      (hasBit (s.ep q.snd).lost q.tgt.val = false)) :=
  ⟨⟨{ cvs.modEp 0 (fun e => { e with synced := true }) with ops := [ldOp] }, { dat 19 0 0 with h := { (dat 19 0 0).h with otag := 5 } }, [1, 2, 3, 4, 5, 6, 7, 8], ldOp, ⟨5, false, true, false, false⟩, cv0, 3, 4, by decide +kernel⟩,
   ⟨{ cvs with ops := [atOp] }, dat 19 0 0, ⟨1, 5, 0, 77⟩, ⟨0, 0, 0, 0⟩, atOp, ⟨5, false, true, false, false⟩, cv0, 3, by decide +kernel⟩,
   ⟨fab, dat 19 5 0, 7685, 9, 4, by decide +kernel⟩,
   ⟨ready.modPort 2 (fun q => { q with pendingReads := [⟨7, arr 5 26, .none, .load, 0, 64⟩] }), 2, 7, [1], ⟨7, arr 5 26, .none, .load, 0, 64⟩, by decide +kernel⟩,
   ⟨{ cvs with now := 20000, ops := [{ ldOp with attempts := [⟨5, false, true, true, false⟩], last := 2 }] }, 0, { ldOp with attempts := [⟨5, false, true, true, false⟩], last := 2 }, 0, ⟨5, false, true, true, false⟩, by decide +kernel⟩⟩

/-- Every hypothesis of AcksAndCredits is met somewhere, clause by clause. -/
theorem witness_AcksAndCredits :
    (∃ (s : State) (a : Arr) (p : AckP), (s.hears a) ∧ (a.turnpike = true) ∧ (p.entries = []) ∧ (a.h.origin.val < 28) ∧ (s.ops = [])) ∧
    (∃ (s : State) (e : EpId) (o : EpId) (k : AckState) (n : Nat), (kget {} (s.ep e).acks o.val = k) ∧ (k.oldest = some n) ∧ (n + 100 ≤ s.now) ∧
      (k.entries.length ≤ 8)) ∧
    (∃ (s : State) (a : Arr), (s.hears a)) ∧
    (∃ (s : State) (a : Arr), (s.takesData a .windowAudit) ∧ (s.dieGone a.rx .windowAudit = false) ∧ (a.h.vc = 2) ∧ ((s.ep a.rx).held = []) ∧
      ((s.ep a.rx).stalled = [])) ∧
    (∃ (s : State) (a : Arr) (held : Nat) (ret : Nat) (n : Nat) (sent : Nat), (s.hears a) ∧ (a.turnpike = true) ∧
      ((s.link a.rx a.h.origin).audit2 = some (n, sent))) ∧
    (∃ (s : State) (i : EpId) (j : EpId), (s.on = true) ∧ ((s.ep i).isolated = false) ∧ (0 < (s.link i j).win2) ∧ ((s.link i j).auditTick.2 + 1000000 ≤ s.now)) :=
  ⟨⟨ready.modLink 0 19 (fun l => { l with win2 := 30 }), dat 19 0 0, ⟨0, 12, 0, []⟩, by decide +kernel⟩,
   ⟨{ ready with now := 100 }.modEp 5 (fun e => { e with acks := [(19, { entries := [⟨5, 0, false⟩], oldest := some 0, freed2 := 3 })] }), 5, 19, { entries := [⟨5, 0, false⟩], oldest := some 0, freed2 := 3 }, 0, by decide +kernel⟩,
   ⟨ready.modEp 5 (fun e => { e with sentCredits := [(19, 9)] }), { arr 19 5 with h := { (arr 19 5).h with credit := 8 } }, by decide +kernel⟩,
   ⟨fab, dat 0 19 0, by decide +kernel⟩,
   ⟨ready.modLink 0 19 (fun l => { l with win2 := 30, sent2 := 40, audit2 := some (1, 40) }), dat 19 0 0, 7, 0, 1, 40, by decide +kernel⟩,
   ⟨{ ready with now := 1000000 }.modLink 0 19 (fun l => { l with win2 := 30 }), 0, 19, by decide +kernel⟩⟩

/-- Every hypothesis of SendingAndRoutes is met somewhere, clause by clause. -/
theorem witness_SendingAndRoutes :
    (∃ (s : State) (i : EpId) (j : EpId) (x : TxEntry), (s.on = true) ∧ ((s.ep i).isolated = false) ∧ (bestTx ((s.ep i).outbox.filter (s.sendable i j)) = some x) ∧
      (x.op.control = true)) ∧
    (∃ (s : State) (i : EpId) (j : EpId) (x : TxEntry), (s.on = true) ∧ ((s.ep i).isolated = false) ∧ (bestTx ((s.ep i).outbox.filter (s.sendable i j)) = some x) ∧
      (x.op = .readData) ∧ (x.transit = false) ∧ (x.h.mcast = false) ∧ (x.h.target = j) ∧ (x.ops = []) ∧ (∀ n, x.p ≠ .auditReq n)) ∧
    (∃ (s : State) (e : EpId) (x : TxEntry), ((s.ep e).outbox = [x]) ∧ (x.op.control = false) ∧ (x.transit = false) ∧ (x.h.vc = 2) ∧ (x.promotedAt = none) ∧
      (x.since + 50000 ≤ s.now)) ∧
    (∃ (s : State) (e : EpId), ((s.ep e).drainWait ≠ []) ∧ ((s.ep e).flipTick + 10000 ≤ s.now) ∧ ((s.ep e).routeWaits = false)) ∧
    (∃ (s : State) (a : Arr), (s.takesData a .drainMarker) ∧ ((s.ep a.rx).held = []) ∧ (a.h.origin ≠ a.rx)) ∧
    (∃ (s : State) (e : EpId) (o : EpId) (vc : BitVec 2) (k : HeldPkt), ((s.ep e).held = [k]) ∧ (k.a.h.origin = o) ∧ (k.a.h.vc = vc) ∧ (k.since + 10000 ≤ s.now) ∧
      (k.op = .windowAudit) ∧ (k.a.rx = e) ∧ (k.a.h.tag = 0) ∧ (k.a.h.epoch ≠ kget false (s.ep e).accEpoch (epochKey o vc))) ∧
    (∃ (s : State) (a : Arr) (m : BitVec 32) (r : BitVec 8) (h : TileId), (s.hears a) ∧ (a.h.origin = hubEp h)) ∧
    (∃ (s : State) (t : TileId), (s.on = true) ∧ ((s.ep (hubEp t)).isolated = false)) ∧
    (∃ (s : State) (t : TileId) (u : TileId) (x : TxEntry), ((s.ep (hubEp t)).outbox = [x]) ∧ (x.transit = true) ∧ (x.ring = true) ∧ (x.seg = none) ∧
      (tileOfEp x.h.target = u) ∧ (u ≠ t) ∧ (x.op.control = true) ∧ (s.ringSeg = []) ∧ (s.hubDown t u = false) ∧
      ((ringBetween t u).all (fun h => !s.hubDown t h) = true)) ∧
    (∃ (s : State) (e : EpId) (x : StackId) (y : TxEntry) (be : BitVec 64) (d : List Byte) (pl : MlPlace) (r : RegionNo), (e = stackEp x) ∧
      ((s.ep e).outbox = [y]) ∧ (y.op = .store) ∧ (y.p = .store be d) ∧ (y.h.target = e) ∧ (y.h.origin = e) ∧ (y.transit = false) ∧ (y.h.mcast = false) ∧
      (y.h.tag = 0) ∧ (y.h.iss = none) ∧ ((s.stack x).mlLost = false) ∧ (mlPlace y.h.loc = some pl) ∧ (s.physOf pl.stack pl.cluster = some r) ∧
      ((s.region pl.stack r).depth = .awake) ∧ (s.still) ∧ (s.mlAccess .fabric (y.h.loc - y.h.loc % 64) (some y.since) = .ok) ∧ (s.mlBad = []) ∧ (s.ops = [])) :=
  ⟨⟨(ready.modLink 5 19 (fun l => { l with mask := 0xF })).sendCtl 5 19 .credit .none, 5, 19, { op := .credit, h := { hopDst := 19, target := 19, hopSrc := 5, origin := 5 }, p := .none, since := 0 }, by decide +kernel⟩,
   ⟨((ready.modLink 5 19 (fun l => { l with mask := 0xF, trained := true })).modEp 19 (fun x => { x with synced := true })).modEp 5 (fun x => { x with synced := true, bankA := [(19, 0x800000000000000F)], outbox := [{ op := .readData, h := { hopDst := 19, target := 19, hopSrc := 5, origin := 5, vc := 2, len := 64 }, p := .line [], since := 0 }] }), 5, 19, { op := .readData, h := { hopDst := 19, target := 19, hopSrc := 5, origin := 5, vc := 2, len := 64 }, p := .line [], since := 0 }, by decide, by decide, rfl, rfl, rfl, rfl, rfl, rfl, by intro n h; cases h⟩,
   ⟨{ ready with now := 50000 }.modEp 5 (fun e => { e with outbox := [{ op := .load, h := { vc := 2 }, p := .none, since := 0 }] }), 5, { op := .load, h := { vc := 2 }, p := .none, since := 0 }, by decide +kernel⟩,
   ⟨{ ready with now := 10000 }.modEp 5 (fun e => { e with drainWait := [(1, 1, none)] }), 5, by decide +kernel⟩,
   ⟨fab, dat 0 19 0, by decide +kernel⟩,
   ⟨{ fab with now := 10000 }.modEp 19 (fun e => { e with held := [⟨.windowAudit, { dat 0 19 0 with h := { (dat 0 19 0).h with epoch := true } }, .auditReq 1, 0, {}⟩] }), 19, 0, 2, ⟨.windowAudit, { dat 0 19 0 with h := { (dat 0 19 0).h with epoch := true } }, .auditReq 1, 0, {}⟩, by decide +kernel⟩,
   ⟨ready, arr 29 5, 0xF, 3, 1, by decide +kernel⟩,
   ⟨ready, 2, by decide +kernel⟩,
   ⟨ready.modEp 28 (fun e => { e with outbox := [{ op := .ack, h := { target := 31 }, p := .none, since := 0, transit := true, ring := true }] }), 0, 3, { op := .ack, h := { target := 31 }, p := .none, since := 0, transit := true, ring := true }, by decide +kernel⟩,
   ⟨((ready.modStack 5 fun k => { k with cmap := 0xFFFFFFFFFFFFFFFFFFFFFFFF }).modOwner 5 0 0 fun w => { w with owner := 2 }).modEp 5 (fun e => { e with outbox := [{ op := .store, h := { target := 5, origin := 5, vc := 2, loc := 2684354560 }, p := .store 1 [9], since := 0 }] }), 5, 5, { op := .store, h := { target := 5, origin := 5, vc := 2, loc := 2684354560 }, p := .store 1 [9], since := 0 }, 1, [9], ⟨5, 0, some 0⟩, 0, by decide +kernel⟩⟩

/-- Every hypothesis of PeriodStartsAndStops is met somewhere, clause by clause. -/
theorem witness_PeriodStartsAndStops :
    (∃ (s : State) (p : PartId) (k : Bundle) (n : Period) (x : StackId) (c : ClusterNo) (r : RegionNo), (s.still) ∧ ((s.part p).bundle = some k) ∧
      ((s.part p).nextPeriod = some n) ∧ (n.start ≤ s.copyNow (s.gwOf p) + 1000) ∧ (x ∈ s.stacksOf p) ∧ (s.physOf x c = some r) ∧
      ((s.region x r).depth = .clockStopped) ∧ (((coresOfCluster x c).any fun g => (k.progOf n.set g).isSome) = true)) ∧
    (∃ (s : State) (p : PartId) (n : Period), ((s.part p).nextPeriod = some n) ∧ (s.copyNow (s.gwOf p) + 1000 < n.start)) ∧
    (∃ (s : State) (g : CoreId) (p : PartId) (k : Bundle) (n : Period) (q : Program) (w : List (BitVec 64)), (s.partOfStack (coreStack g) = some p) ∧
      ((s.part p).bundle = some k) ∧ ((s.part p).nextPeriod = some n) ∧ (k.progOf n.set g = some q) ∧ ((s.core g).holds (s.core g).active q = false) ∧
      ((s.core g).nextLoaded = false) ∧ ((s.stack (coreStack g)).cdLost = false) ∧ (s.awakeAt (coreStack g) (coreCluster g) = true) ∧
      ((s.readProgram p k (coreStack g) (periodTag n.no) q).1 = some w)) ∧
    (∃ (s : State) (g : CoreId) (p : PartId) (k : Bundle) (n : Period) (q : Program), (s.partOfStack (coreStack g) = some p) ∧ ((s.part p).bundle = some k) ∧
      ((s.part p).nextPeriod = some n) ∧ (k.progOf n.set g = some q) ∧ ((s.core g).holds (s.core g).active q = false) ∧ ((s.core g).nextLoaded = false) ∧
      ((s.stack (coreStack g)).cdLost = false) ∧ (s.awakeAt (coreStack g) (coreCluster g) = false)) ∧
    (∃ (s : State) (g : CoreId) (p : PartId) (k : Bundle) (n : Period) (q : Program), (s.partOfStack (coreStack g) = some p) ∧ ((s.part p).bundle = some k) ∧
      ((s.part p).nextPeriod = some n) ∧ (k.progOf n.set g = some q) ∧ ((s.core g).holds (s.core g).active q = true)) ∧
    (∃ (s : State) (x : StackId) (c : ClusterNo) (p : PartId) (k : Bundle) (n : Period), (s.partOfStack x = some p) ∧ (s.toStart p x c = some n) ∧ (s.still) ∧
      ((s.part p).bundle = some k) ∧ ((s.part p).kernel = none) ∧ (n.stage = .noticed)) ∧
    (∃ (s : State) (x : StackId) (c : ClusterNo) (p : PartId) (k : Bundle) (n : Period) (g : CoreId) (q : Program), (s.partOfStack x = some p) ∧
      (s.toStart p x c = some n) ∧ (s.still) ∧ ((s.part p).bundle = some k) ∧ ((s.part p).kernel = none) ∧ (g ∈ coresOfCluster x c) ∧
      (k.progOf n.set g = some q) ∧ ((s.core g).holds (s.core g).active q = true)) ∧
    (∃ (s : State) (x : StackId) (c : ClusterNo) (p : PartId) (k : Bundle) (n : Period) (g : CoreId) (q : Program), (s.partOfStack x = some p) ∧
      (s.toStart p x c = some n) ∧ (s.still) ∧ ((s.part p).bundle = some k) ∧ ((s.part p).kernel = none) ∧ (g ∈ coresOfCluster x c) ∧
      (k.progOf n.set g = some q) ∧ ((s.core g).holds (s.core g).active q = false) ∧ ((s.core g).nextLoaded = true) ∧
      ((s.core g).holds ((s.core g).active + 1) q = true)) ∧
    (∃ (s : State) (x : StackId) (c : ClusterNo) (p : PartId), (s.partOfStack x = some p) ∧ (s.toStart p x c = none)) ∧
    (∃ (s : State) (g : CoreId) (o : Fin 2 × Nat × Nat) (p : PartId) (n : Period), ((s.core g).outs = [o]) ∧ (s.outRipe g o = true) ∧
      ((s.cluster (coreStack g) (coreCluster g)).mode = 1) ∧ (s.partOfStack (coreStack g) = some p) ∧ ((s.part p).periods = [n]) ∧
      (n.no = (s.cluster (coreStack g) (coreCluster g)).period) ∧ (n.stage = .running) ∧ ((n.outs.any fun d => d.number = o.2.1) = true)) ∧
    (∃ (s : State) (g : CoreId), ((s.core g).outs = [])) ∧
    (∃ (s : State) (x : StackId) (c : ClusterNo) (g : CoreId), ((s.cluster x c).mode = 1) ∧ ((s.cluster x c).deadline < s.clusterNow x c) ∧
      (g ∈ coresOfCluster x c)) ∧
    (∃ (s : State) (x : StackId) (c : ClusterNo), (s.clusterNow x c < (s.cluster x c).deadline)) ∧
    (∃ (s : State) (p : PartId) (k : Kernel) (l : Nat) (x : StackId) (g : CoreId), ((s.part p).kernel = some k) ∧ (k.launch = some l) ∧
      (l + k.limit ≤ s.copyNow (s.gwOf p)) ∧ (k.fault = none) ∧ (s.lone p k.d) ∧ (x ∈ s.stacksOf p) ∧ (g.val / 1536 = x.val)) ∧
    (∃ (s : State) (p : PartId) (k : Kernel) (l : Nat), ((s.part p).kernel = some k) ∧ (k.launch = some l) ∧ (s.copyNow (s.gwOf p) < l + k.limit)) ∧
    (∃ (s : State) (x : StackId) (m : MarchResult), ((s.stack x).marching = some false) ∧ (s.still) ∧ (∀ p, s.partOfStack x = some p → (s.part p).descs = []) ∧
      (m.failed = [])) ∧
    (∃ (s : State) (x : StackId) (m : MarchResult) (r : RegionNo) (row : Nat) (k : Nat), ((s.stack x).marching = some true) ∧ (s.still) ∧
      (∀ p, s.partOfStack x = some p → (s.part p).descs = []) ∧ (m.badSpares = []) ∧ (m.failed = [(r, row)]) ∧
      ((sparesOf row).find? (fun q => !((s.region x r).repairs.filter fun e => e.1 ≠ row).any (fun e => e.2 = q) && !(s.region x r).badSpares.any (fun e => e = q)) = some k)) :=
  ⟨⟨(sched 1000 [perA]).modRegion 0 0 (fun q => { q with depth := .clockStopped }), 1, bunA, perA, 0, 0, 0, by decide +kernel⟩,
   ⟨sched 999 [perA], 1, perA, by decide +kernel⟩,
   ⟨forEach allEps (fun e s => s.acceptTag e 1 { tag := 2, start := 2000, deadline := 12000 }) (sched 1000 [perA]), 0, 1, bunA, perA, prog0, [0], by decide +kernel⟩,
   ⟨(sched 1000 [perA]).modRegion 0 0 (fun r => { r with depth := .clockStopped }), 0, 1, bunA, perA, prog0, by decide +kernel⟩,
   ⟨(sched 1000 [perA]).modCore 0 (fun c => { c with bankA := [0], digest := [(0, 5)] }), 0, 1, bunA, perA, prog0, by decide +kernel⟩,
   ⟨sched 2000 [perA], 0, 0, 1, bunA, perA, by decide +kernel⟩,
   ⟨(sched 2000 [perA]).modCore 0 (fun c => { c with bankA := [0], digest := [(0, 5)] }), 0, 0, 1, bunA, perA, 0, prog0, by decide +kernel⟩,
   ⟨(sched 2000 [perA]).modCore 0 (fun c => { c with bankB := [0], digest := [(1, 5)], nextLoaded := true }), 0, 0, 1, bunA, perA, 0, prog0, by decide +kernel⟩,
   ⟨sched 1999 [perA], 0, 0, 1, by decide +kernel⟩,
   ⟨(runs 5000 perO).modCore 0 (fun c => { c with outs := [(0, 3, 0)] }), 0, (0, 3, 0), 1, { perO with stage := .running }, by decide +kernel⟩,
   ⟨ready, 0, by decide +kernel⟩,
   ⟨(runs 12001 perO).modCore 0 (fun c => { c with c0 := { c.c0 with run := .running } }), 0, 0, 0, by decide +kernel⟩,
   ⟨runs 11999 perO, 0, 0, by decide +kernel⟩,
   ⟨{ kern with now := 50 }, 1, kernA, 0, 0, 5, by decide +kernel⟩,
   ⟨{ kern with now := 49 }, 1, kernA, 0, by decide +kernel⟩,
   ⟨{ (ready.modStack 0 fun k => { k with marching := some false }) with ml := [(5, 1), (536870912, 2)] }, 0, ⟨[], []⟩, by decide +kernel⟩,
   ⟨ready.modStack 0 (fun k => { k with marching := some true }), 0, { failed := [(3, 1030)], badSpares := [] }, 3, 1030, 8, by decide +kernel⟩⟩

/-- Every hypothesis of PeriodDecisions is met somewhere, clause by clause. -/
theorem witness_PeriodDecisions :
    (∃ (s : State) (p : PartId) (t : TileId) (n : Period), ((s.part p).periods = [n]) ∧ (n.stage = .ended) ∧ (hasBit n.flipped t.val = false) ∧
      (hasBit n.failSeen t.val = false) ∧ (hasBit n.decided t.val = false) ∧ (n.deadline + max 1 ((n.pages.length + 63) / 64) ≤ s.copyNow (hubEp t)) ∧
      (hasBit s.pm.repDown t.val = false) ∧ (s.ops = [])) ∧
    (∃ (s : State) (p : PartId) (t : TileId) (n : Period), ((s.part p).periods = [n]) ∧ (s.copyNow (hubEp t) ≤ n.deadline)) ∧
    (∃ (s : State) (x : StackId) (p : PartId) (n : Period), (s.partOfStack x = some p) ∧ ((s.part p).periods = [n]) ∧ (n.stage = .ended) ∧
      (hasBit n.judged x.val = false) ∧ (n.deadline + 14 ≤ s.copyNow (stackEp x)) ∧ (n.stackComplete x = true)) ∧
    (∃ (s : State) (x : StackId) (p : PartId) (n : Period), (s.partOfStack x = some p) ∧ ((s.part p).periods = [n]) ∧ (n.stage = .ended) ∧
      (hasBit n.judged x.val = false) ∧ (n.deadline + 14 ≤ s.copyNow (stackEp x)) ∧ (n.stackComplete x = false) ∧ ((s.stack x).cdLost = false)) ∧
    (∃ (s : State) (p : PartId) (x : StackId) (n : Period) (t0 : Nat) (k : Nat), ((s.part p).periods = [n]) ∧ (n.sentFail = [(stackEp x, t0, k)]) ∧ (k < 3) ∧
      (t0 + 100 * k ≤ s.now)) ∧
    (∃ (s : State) (a : Arr) (tag : BitVec 8) (start : Nat) (dl : Nat), (s.hears a)) ∧
    (∃ (s : State) (a : Arr) (tag : BitVec 8) (tick : Nat) (n : Period) (h : TileId), (s.hears a) ∧ ((s.part a.h.part).block = .committed) ∧
      ((s.part a.h.part).periods = [n]) ∧ (n.stage ≠ .noticed) ∧ (periodTag n.no = tag) ∧ (s.copyNow a.rx < n.deadline + 3300) ∧ (epHub a.rx = some h) ∧
      (epStack a.rx = none) ∧ (s.ops = []) ∧ ((s.part a.h.part).descs = [])) ∧
    (∃ (s : State) (a : Arr) (tag : BitVec 8) (tick : Nat) (n : Period) (x : StackId) (c : ClusterNo) (g : CoreId), (s.hears a) ∧
      ((s.part a.h.part).block = .committed) ∧ ((s.part a.h.part).periods = [n]) ∧ (n.stage ≠ .noticed) ∧ (periodTag n.no = tag) ∧
      (s.copyNow a.rx < n.deadline + 3300) ∧ (epStack a.rx = some x) ∧ (hasBit (s.part a.h.part).stackMask x.val = true) ∧ (c ∈ s.clustersOf x) ∧
      ((s.cluster x c).mode = 1) ∧ ((s.cluster x c).period = n.no) ∧ (g ∈ coresOfCluster x c) ∧ ((s.part a.h.part).kernel = none)) ∧
    (∃ (s : State) (a : Arr) (tag : BitVec 8) (tick : Nat) (n : Period), (s.hears a) ∧ ((s.part a.h.part).block = .committed) ∧ ((s.part a.h.part).periods = [n]) ∧
      (n.stage ≠ .noticed) ∧ (periodTag n.no = tag) ∧ (n.deadline + 3300 ≤ s.copyNow a.rx)) ∧
    (∃ (s : State) (p : PartId) (t : TileId) (n : Period), ((s.part p).periods = [n]) ∧ (n.stage = .ended) ∧ (hasBit n.decided t.val = false) ∧
      (n.deadline + 3300 ≤ s.copyNow (hubEp t)) ∧ (hasBit n.failSeen t.val = false) ∧ (hasBit n.lossSeen t.val = false) ∧ (hasBit n.flipped t.val = true) ∧
      (hasBit s.pm.repDown t.val = false) ∧ (putBit n.decided t.val true ||| s.pm.repDown ≠ 0xF) ∧ (s.ops = []) ∧ (∀ e, (s.ep e).stalled = [])) ∧
    (∃ (s : State) (p : PartId) (t : TileId) (n : Period), ((s.part p).periods = [n]) ∧ (n.stage = .ended) ∧ (hasBit n.decided t.val = false) ∧
      (n.deadline + 3300 ≤ s.copyNow (hubEp t)) ∧ (hasBit n.failSeen t.val = true) ∧ (hasBit n.flipped t.val = true) ∧ (hasBit s.pm.repDown t.val = false) ∧
      (putBit n.decided t.val true ||| s.pm.repDown ≠ 0xF) ∧ (s.ops = []) ∧ (∀ e, (s.ep e).stalled = [])) ∧
    (∃ (s : State) (p : PartId) (t : TileId) (n : Period), ((s.part p).periods = [n]) ∧ (n.stage = .ended) ∧ (hasBit n.decided t.val = false) ∧
      (n.deadline + 3300 ≤ s.copyNow (hubEp t)) ∧ (hasBit n.failSeen t.val = false) ∧ (hasBit n.lossSeen t.val = false) ∧ (hasBit n.flipped t.val = true) ∧
      (hasBit s.pm.repDown t.val = false) ∧ (putBit n.decided t.val true = 0xF) ∧
      (hasBit (putBit n.confirmed t.val true) (s.servTile (s.gwOf p)).val = true) ∧ (s.ops = []) ∧ (∀ e, (s.ep e).stalled = [])) :=
  ⟨⟨sched 12001 [perE], 1, 2, perE, by decide +kernel⟩,
   ⟨sched 12000 [perE], 1, 2, perE, by decide +kernel⟩,
   ⟨sched 12014 [{ perE with reports := [⟨3, 0, 12000⟩] }], 0, 1, { perE with reports := [⟨3, 0, 12000⟩] }, by decide +kernel⟩,
   ⟨sched 12014 [{ perE with reports := [⟨3, 0, 12001⟩] }], 0, 1, { perE with reports := [⟨3, 0, 12001⟩] }, by decide +kernel⟩,
   ⟨sched 12114 [{ perE with sentFail := [(0, 12014, 1)] }], 1, 0, { perE with sentFail := [(0, 12014, 1)] }, 12014, 1, by decide +kernel⟩,
   ⟨sched 1000 [perA], { arr 18 5 with h := { (arr 18 5).h with part := 1 } }, 2, 2000, 12000, by decide +kernel⟩,
   ⟨sched 12000 [perE], { arr 18 29 with h := { (arr 18 29).h with part := 1 } }, 2, 12000, perE, 1, by decide +kernel⟩,
   ⟨runs 5000 perO, { arr 18 0 with h := { (arr 18 0).h with part := 1 } }, 2, 5000, { perO with stage := .running }, 0, 0, 0, by decide +kernel⟩,
   ⟨sched 15300 [perE], { arr 18 29 with h := { (arr 18 29).h with part := 1 } }, 2, 12000, perE, by decide +kernel⟩,
   ⟨sched 15300 [{ perE with flipped := 15 }], 1, 2, { perE with flipped := 15 }, by decide +kernel⟩,
   ⟨sched 15300 [{ perE with flipped := 15, failSeen := 15 }], 1, 2, { perE with flipped := 15, failSeen := 15 }, by decide +kernel⟩,
   ⟨sched 15300 [{ perE with flipped := 15, decided := 11, confirmed := 15 }], 1, 2, { perE with flipped := 15, decided := 11, confirmed := 15 }, by decide +kernel⟩⟩

/-- Every hypothesis of RingsAndDoorbells is met somewhere, clause by clause. -/
theorem witness_RingsAndDoorbells :
    (∃ (s : State) (p : PartId) (l : Fin 8), (s.live p = true) ∧ (hasBit (s.part p).heldLines l.val = true) ∧ ((s.part p).wakeAt = none)) ∧
    (∃ (s : State) (p : PartId) (l : Fin 8), (hasBit (s.part p).heldLines l.val = false)) ∧
    (∃ (s : State) (p : PartId) (v : List (BitVec 64)) (l : Fin 8) (j : Fin 8) (w : Nat), (s.live p = true) ∧ ((s.part p).wakeAt = some w) ∧ (w ≤ s.now) ∧
      ((s.part p).lostLines = putBit 0 l.val true) ∧ ((s.part p).resync = false) ∧ (v.length = 64) ∧
      (∀ i : Fin 8, i ≠ j → v.getD (8 * l.val + i.val) 0 = (kget [] (s.part p).lines l.val).getD i.val 0) ∧
      ((v.getD (8 * l.val + j.val) 0) ≠ (kget [] (s.part p).lines l.val).getD j.val 0) ∧ ((kget {} (s.part p).rings (8 * l.val + j.val)).enabled = true) ∧
      ((kget {} (s.part p).crings (8 * l.val + j.val)).enabled = true) ∧
      (0 < diff32 ((v.getD (8 * l.val + j.val) 0).setWidth 32) (kget {} (s.part p).rings (8 * l.val + j.val)).fetch) ∧
      (diff32 ((v.getD (8 * l.val + j.val) 0).setWidth 32) (kget {} (s.part p).rings (8 * l.val + j.val)).fetch ≤ (kget {} (s.part p).rings (8 * l.val + j.val)).entries) ∧
      (diff32 (kget {} (s.part p).crings (8 * l.val + j.val)).write (((v.getD (8 * l.val + j.val) 0) >>> 32).setWidth 32) ≤ (kget {} (s.part p).crings (8 * l.val + j.val)).entries)) ∧
    (∃ (s : State) (p : PartId) (r : Fin 64) (bs : List Byte), (s.live p = true) ∧ ((s.port (s.part p).servPort).detached = false) ∧
      ((s.part p).nextRing = some r.val) ∧ ((s.part p).compl = []) ∧ ((s.part p).descs = []) ∧
      (diff32 (kget {} (s.part p).rings r.val).tail (kget {} (s.part p).rings r.val).fetch = 1) ∧ (bs.length = 64) ∧ ((bs.getD 0 0).toNat ≤ 0x0D) ∧
      ((bs.getD 1 0).toNat < 4) ∧ ((bs.getD 2 0).toNat < 64) ∧ (field bs 3 5 = 0) ∧ ((kget {} (s.part p).crings (bs.getD 2 0).toNat).enabled = true)) ∧
    (∃ (s : State) (p : PartId) (r : Fin 64) (bs : List Byte), (s.live p = true) ∧ ((s.port (s.part p).servPort).detached = false) ∧
      ((s.part p).nextRing = some r.val) ∧ ((s.part p).compl = []) ∧ ((s.part p).descs = []) ∧
      (diff32 (kget {} (s.part p).rings r.val).tail (kget {} (s.part p).rings r.val).fetch = 1) ∧ (bs.length = 64) ∧ (0x0D < (bs.getD 0 0).toNat) ∧
      ((bs.getD 2 0).toNat < 64) ∧ ((kget {} (s.part p).crings (bs.getD 2 0).toNat).room = true)) ∧
    (∃ (s : State) (p : PartId) (r : Fin 64) (bs : List (List Byte)),
      (s.live p = false ∨ (kget {} (s.part p).rings r.val).enabled = false ∨ 256 ≤ (s.part p).compl.length)) ∧
    (∃ (s : State) (p : PartId) (r : Fin 64) (c : Compl), (s.live p = true) ∧ ((s.part p).compl = [c]) ∧ (c.d.cring = r.val) ∧
      ((kget {} (s.part p).crings r.val).room = true)) ∧
    (∃ (s : State) (p : PartId) (r : Fin 64), ((kget {} (s.part p).crings r.val).room = false)) ∧
    (∃ (s : State) (p : PartId) (r : Fin 64), (s.hostUp (s.part p).servPort = true) ∧
      ((s.port (s.part p).servPort).msixPend.contains (64 * p.val + r.val) = true) ∧ (hasBit (s.part p).irq r.val = true) ∧
      (kget 0 (s.port (s.part p).servPort).msixNext (64 * p.val + r.val) ≤ s.now)) :=
  ⟨⟨host.modPart 1 (fun b => { b with heldLines := 255, lastWake := 5 }), 1, 3, by decide +kernel⟩,
   ⟨host, 1, 3, by decide +kernel⟩,
   ⟨(ring1 []).modPart 1 (fun b => { b with lostLines := 1, wakeAt := some 900 }), 1, 2 :: List.replicate 63 0, 0, 0, 900, by decide +kernel⟩,
   ⟨(ring1 []).modPart 1 (fun b => { b with rings := [(0, { enabled := true, tail := 1 })] }), 1, 0, List.replicate 64 0, by decide +kernel⟩,
   ⟨(ring1 []).modPart 1 (fun b => { b with rings := [(0, { enabled := true, tail := 1 })] }), 1, 0, 0x0E :: List.replicate 63 0, by decide +kernel⟩,
   ⟨ready, 1, 0, [], by decide +kernel⟩,
   ⟨(ring1 []).modPart 1 (fun b => { b with compl := [{ d := ⟨0, 0, 0, 0⟩, last := true, status := 0, detail := 0 }] }), 1, 0, { d := ⟨0, 0, 0, 0⟩, last := true, status := 0, detail := 0 }, by decide +kernel⟩,
   ⟨host, 1, 0, by decide +kernel⟩,
   ⟨((ring1 []).modPart 1 fun b => { b with irq := 1 }).modPort 2 (fun q => { q with msixPend := [64] }), 1, 0, by decide +kernel⟩⟩

/-- Every hypothesis of DescriptorsOfMemory is met somewhere, clause by clause. -/
theorem witness_DescriptorsOfMemory :
    (∃ (s : State) (p : PartId) (n : Nat) (d : Desc), (s.turn p n 0x00 = some d) ∧ (s.lone p d.d)) ∧
    (∃ (s : State) (p : PartId) (n : Nat) (d : Desc), (s.turn p n 0x07 = some d) ∧ (s.lone p d.d) ∧ (d.clean [] = true)) ∧
    (∃ (s : State) (p : PartId) (n : Nat) (d : Desc), (s.turn p n 0x07 = some d) ∧ (d.clean [] = true) ∧ ((s.part p).alone d = false) ∧
      (∀ x ∈ (s.part p).descs, (s.part p).badHeader x = false)) ∧
    (∃ (s : State) (p : PartId) (n : Nat) (d : Desc) (h : List Byte) (e : Ecc), (s.turn p n 0x04 = some d) ∧ (s.lone p d.d) ∧ (d.claims = false) ∧
      (d.clean [(8, 20)] = true) ∧ ((d.field 0x18 4) ≠ 0) ∧ (touchesMl (d.field 0x10 8) (d.field 0x18 4) = false ∨ s.stopped? p = none) ∧
      (((linesFrom (d.field 0x10 8) (d.field 0x18 4)).any fun q => s.lineWaits (s.gwOf p) p .copyWrite .desc 0 d.wait q.1) = false) ∧
      (((s.acceptDesc p n).writeBytes (s.gwOf p) p .desc d.wait e h (d.field 0x10 8) (linesFrom (d.field 0x10 8) (d.field 0x18 4)) 0).2.1 = none)) ∧
    (∃ (s : State) (p : PartId) (n : Nat) (d : Desc) (h : List Byte) (e : Ecc) (st : BitVec 4), (s.turn p n 0x04 = some d) ∧ (s.lone p d.d) ∧ (d.claims = false) ∧
      (d.clean [(8, 20)] = true) ∧ ((d.field 0x18 4) ≠ 0) ∧ (touchesMl (d.field 0x10 8) (d.field 0x18 4) = false ∨ s.stopped? p = none) ∧
      (((linesFrom (d.field 0x10 8) (d.field 0x18 4)).any fun q => s.lineWaits (s.gwOf p) p .copyWrite .desc 0 d.wait q.1) = false) ∧
      (((s.acceptDesc p n).writeBytes (s.gwOf p) p .desc d.wait e h (d.field 0x10 8) (linesFrom (d.field 0x10 8) (d.field 0x18 4)) 0).2.1 = some st)) ∧
    (∃ (s : State) (p : PartId) (n : Nat) (d : Desc) (h : List Byte) (e : Ecc), (s.turn p n 0x04 = some d) ∧ (s.lone p d.d) ∧
      (d.clean [(8, 20)] = false ∨ (d.field 0x18 4) = 0)) ∧
    (∃ (s : State) (p : PartId) (n : Nat) (d : Desc) (h : List Byte) (q : Place) (k : StackId), (s.turn p n 0x04 = some d) ∧ (s.lone p d.d) ∧ (d.claims = false) ∧
      (d.clean [(8, 20)] = true) ∧ (0 < d.field 0x18 4) ∧ (d.field 0x10 8 % 64 + d.field 0x18 4 ≤ 64) ∧ (h.length = d.field 0x18 4) ∧
      (touchesMl (d.field 0x10 8) (d.field 0x18 4) = false ∨ s.stopped? p = none) ∧
      ((s.check (s.gwOf p) p .copyWrite .desc 0 (d.field 0x10 8)).1 = .ok [q] none) ∧ (epStack q.tgt = some k) ∧ (s.placeUp (s.gwOf p) q = true) ∧
      (s.mlAccess .gateway q.loc d.wait = .ok) ∧ (s.mlBad = [])) ∧
    (∃ (s : State) (p : PartId) (n : Nat) (d : Desc) (h : List Byte) (e : Ecc), (s.turn p n 0x05 = some d) ∧ (s.lone p d.d) ∧ (d.claims = false) ∧
      (d.clean [(8, 20)] = true) ∧ ((d.field 0x18 4) ≠ 0) ∧
      (((s.acceptDesc p n).readBytes (s.gwOf p) p .desc 0 d.wait e h (d.field 0x08 8) (linesFrom (d.field 0x08 8) (d.field 0x18 4))).1.length = d.field 0x18 4) ∧
      (touchesMl (d.field 0x08 8) (d.field 0x18 4) = false ∨ s.stopped? p = none) ∧
      (((linesFrom (d.field 0x08 8) (d.field 0x18 4)).any fun q => s.lineWaits (s.gwOf p) p .read .desc 0 d.wait q.1) = false) ∧
      (((s.acceptDesc p n).readBytes (s.gwOf p) p .desc 0 d.wait e h (d.field 0x08 8) (linesFrom (d.field 0x08 8) (d.field 0x18 4))).2.1 = none)) ∧
    (∃ (s : State) (p : PartId) (n : Nat) (d : Desc) (h : List Byte) (e : Ecc), (s.turn p n 0x05 = some d) ∧ (s.lone p d.d) ∧
      (d.clean [(8, 20)] = false ∨ (d.field 0x18 4) = 0)) ∧
    (∃ (s : State) (p : PartId) (n : Nat) (d : Desc) (e : Ecc), (s.turn p n 0x06 = some d) ∧ (s.lone p d.d) ∧ (d.claims = false) ∧
      (d.clean [(8, 12), (0x18, 8)] = true) ∧ ((d.field 0x10 4) ≠ 0) ∧ (touchesMl (d.field 0x08 8) (d.field 0x10 4) = false ∨ s.stopped? p = none) ∧
      (((linesFrom (d.field 0x08 8) (d.field 0x10 4)).any fun q => s.lineWaits (s.gwOf p) p .copyWrite .desc 0 d.wait q.1) = false) ∧
      (((s.acceptDesc p n).writeBytes (s.gwOf p) p .desc d.wait e ((List.range (d.field 0x10 4)).map fun i => (leBytes 8 (d.field 0x18 8)).getD (i % 8) 0) (d.field 0x08 8) (linesFrom (d.field 0x08 8) (d.field 0x10 4)) 0).2.1 = none)) ∧
    (∃ (s : State) (p : PartId) (n : Nat) (d : Desc) (e : Ecc), (s.turn p n 0x06 = some d) ∧ (s.lone p d.d) ∧
      (d.clean [(8, 12), (0x18, 8)] = false ∨ (d.field 0x10 4) = 0)) ∧
    (∃ (s : State) (p : PartId) (n : Nat) (d : Desc) (bs : List Byte) (recs : List (Nat × BitVec 64)), (s.turn p n 0x08 = some d) ∧ (d.clean [(8, 11)] = true) ∧
      (1 ≤ d.field 0x10 2 ∧ d.field 0x10 2 ≤ 4096) ∧ (d.byte 0x12 ≤ 1) ∧ (mapRecords bs (d.field 0x10 2) = some recs) ∧
      (∀ x ∈ (s.part p).descs, (s.part p).badHeader x = false)) ∧
    (∃ (s : State) (p : PartId) (n : Nat) (d : Desc) (bs : List Byte), (s.turn p n 0x08 = some d) ∧ (s.lone p d.d) ∧
      (d.clean [(8, 11)] = false ∨ d.field 0x10 2 = 0 ∨ 1 < d.byte 0x12)) ∧
    (∃ (s : State) (p : PartId) (n : Nat) (d : Desc) (g : CoreId) (k : Kernel) (l : Nat), (s.turn p n 0x09 = some d) ∧ (s.lone p d.d) ∧
      (d.clean [(8, 3), (0xC, 4)] = true) ∧ (d.byte 0x0A < 64) ∧ (d.field 8 2 < 24576) ∧ ((s.part p).work ≠ .stopped) ∧ ((s.part p).work ≠ .resetting) ∧
      (g.val = d.field 8 2) ∧ ((s.part p).kernel = some k) ∧ (k.launch = some l) ∧ (hasBit (s.part p).stackMask (g.val / 1536) = true)) ∧
    (∃ (s : State) (p : PartId) (n : Nat) (d : Desc), (s.turn p n 0x09 = some d) ∧ (s.lone p d.d) ∧ (d.clean [(8, 3), (0xC, 4)] = true) ∧ (d.byte 0x0A < 64) ∧
      (d.field 8 2 < 24576) ∧ ((s.part p).work ≠ .stopped) ∧ ((s.part p).work ≠ .resetting) ∧ ((s.part p).kernel = none)) ∧
    (∃ (s : State) (p : PartId) (n : Nat) (d : Desc) (x : Seal), (s.turn p n 0x0B = some d) ∧ (s.lone p d.d) ∧ (d.clean [(8, 16)] = true) ∧
      ((s.part p).seals = [x]) ∧ (x.period = d.field 8 8)) ∧
    (∃ (s : State) (p : PartId) (n : Nat) (d : Desc), (s.turn p n 0x0B = some d) ∧ (s.lone p d.d) ∧ (d.clean [(8, 16)] = true) ∧ ((s.part p).seals = [])) ∧
    (∃ (s : State) (p : PartId) (n : Nat) (d : Desc) (x : StackId), (s.pyhDown = false) ∧ (s.turn p n 0x0C = some d) ∧ (d.clean [(8, 3)] = true) ∧
      (d.byte 0x0A = 1) ∧ (x ∈ maskStacks (d.field 8 2)) ∧
      (∀ y ∈ maskStacks (d.field 8 2), hasBit (s.part p).stackMask y.val = true ∧ (s.stack y).marching = none) ∧ ((s.part p).work ≠ .stopped) ∧
      ((s.part p).work ≠ .resetting) ∧ ((s.part p).running = none)) ∧
    (∃ (s : State) (p : PartId) (n : Nat) (d : Desc), (s.pyhDown = false) ∧ (s.turn p n 0x0C = some d) ∧ (s.lone p d.d) ∧ (d.clean [(8, 3)] = true) ∧
      (d.byte 0x0A = 0) ∧ (maskStacks (d.field 8 2) ≠ []) ∧
      (∀ y ∈ maskStacks (d.field 8 2), hasBit (s.part p).stackMask y.val = true ∧ (s.stack y).marching = none) ∧ ((s.part p).work ≠ .stopped) ∧
      ((s.part p).work ≠ .resetting) ∧ ((s.part p).bundle ≠ none)) ∧
    (∃ (s : State) (p : PartId) (n : Nat) (d : Desc), (s.turn p n 0x0D = some d) ∧ (s.lone p d.d) ∧ (d.clean [(8, 13)] = true) ∧
      (64 ≤ d.field 0x10 4 ∧ d.field 0x10 4 ≤ 2 ^ 20) ∧ (d.byte 0x14 = 3)) ∧
    (∃ (s : State) (p : PartId) (n : Nat) (d : Desc), (s.turn p n 0x0D = some d) ∧ (s.lone p d.d) ∧
      (d.clean [(8, 13)] = false ∨ d.field 0x10 4 < 64 ∨ 2 ^ 20 < d.field 0x10 4 ∨ 3 < d.byte 0x14)) :=
  ⟨⟨ring1 [dsc 0 []], 1, 7, dsc 0 [], by decide +kernel⟩,
   ⟨ring1 [dsc 7 []], 1, 7, dsc 7 [], by decide +kernel⟩,
   ⟨ring1 [{ dsc 4 [] with serial := 3, accepted := true }, dsc 7 []], 1, 7, dsc 7 [], by decide +kernel⟩,
   ⟨ring1 [dsc 4 [52, 18, 0, 0, 0, 0, 0, 0, 0, 0, 0, 24, 0, 2, 0, 0, 8, 0, 0, 0]], 1, 7, dsc 4 [52, 18, 0, 0, 0, 0, 0, 0, 0, 0, 0, 24, 0, 2, 0, 0, 8, 0, 0, 0], [1, 2, 3, 4, 5, 6, 7, 8], {}, by decide +kernel⟩,
   ⟨ring1 [dsc 4 [0, 0, 0, 0, 0, 0, 0, 0, 0, 0, 0, 0, 0, 0, 4, 0, 8, 0, 0, 0]], 1, 7, dsc 4 [0, 0, 0, 0, 0, 0, 0, 0, 0, 0, 0, 0, 0, 0, 4, 0, 8, 0, 0, 0], [1], {}, stAddress, by decide +kernel⟩,
   ⟨ring1 [dsc 4 []], 1, 7, dsc 4 [], [], {}, by decide +kernel⟩,
   ⟨ring1 [dsc 4 [52, 18, 0, 0, 0, 0, 0, 0, 0, 0, 0, 24, 0, 2, 0, 0, 8, 0, 0, 0]], 1, 7, dsc 4 [52, 18, 0, 0, 0, 0, 0, 0, 0, 0, 0, 24, 0, 2, 0, 0, 8, 0, 0, 0], [1, 2, 3, 4, 5, 6, 7, 8], ⟨0, 0x18000000⟩, 0, by decide +kernel⟩,
   ⟨ring1 [dsc 5 [0, 0, 0, 24, 0, 2, 0, 0, 52, 18, 0, 0, 0, 0, 0, 0, 8, 0, 0, 0]], 1, 7, dsc 5 [0, 0, 0, 24, 0, 2, 0, 0, 52, 18, 0, 0, 0, 0, 0, 0, 8, 0, 0, 0], [], {}, by decide +kernel⟩,
   ⟨ring1 [dsc 5 []], 1, 7, dsc 5 [], [], {}, by decide +kernel⟩,
   ⟨ring1 [dsc 6 [0, 0, 0, 24, 0, 2, 0, 0, 16, 0, 0, 0, 0, 0, 0, 0, 8, 7, 6, 5, 4, 3, 2, 1]], 1, 7, dsc 6 [0, 0, 0, 24, 0, 2, 0, 0, 16, 0, 0, 0, 0, 0, 0, 0, 8, 7, 6, 5, 4, 3, 2, 1], {}, by decide +kernel⟩,
   ⟨ring1 [dsc 6 []], 1, 7, dsc 6 [], {}, by decide +kernel⟩,
   ⟨ring1 [dsc 8 [0, 0, 0, 0, 0, 0, 0, 0, 1, 0, 0]], 1, 7, dsc 8 [0, 0, 0, 0, 0, 0, 0, 0, 1, 0, 0], [5, 0, 0, 0, 0, 0, 0, 0, 1, 0, 0, 0, 0, 0, 0, 0], [(5, 1)], by decide +kernel⟩,
   ⟨ring1 [dsc 8 []], 1, 7, dsc 8 [], [], by decide +kernel⟩,
   ⟨(ring1 [dsc 9 [5, 0, 3, 0, 77, 0, 0, 0]]).modPart 1 (fun b => { b with work := .freeRun, kernel := some kernA }), 1, 7, dsc 9 [5, 0, 3, 0, 77, 0, 0, 0], 5, kernA, 0, by decide +kernel⟩,
   ⟨ring1 [dsc 9 [5, 0, 3, 0, 77, 0, 0, 0]], 1, 7, dsc 9 [5, 0, 3, 0, 77, 0, 0, 0], by decide +kernel⟩,
   ⟨(ring1 [dsc 11 [4, 0, 0, 0, 0, 0, 0, 0, 0, 112, 0, 0, 0, 0, 0, 0]]).modPart 1 (fun b => { b with seals := [⟨4, [1, 2]⟩] }), 1, 7, dsc 11 [4, 0, 0, 0, 0, 0, 0, 0, 0, 112, 0, 0, 0, 0, 0, 0], ⟨4, [1, 2]⟩, by decide +kernel⟩,
   ⟨ring1 [dsc 11 [4, 0, 0, 0, 0, 0, 0, 0, 0, 112, 0, 0, 0, 0, 0, 0]], 1, 7, dsc 11 [4, 0, 0, 0, 0, 0, 0, 0, 0, 112, 0, 0, 0, 0, 0, 0], by decide +kernel⟩,
   ⟨pyhOn (ring1 [dsc 12 [1, 0, 1]]), 1, 7, dsc 12 [1, 0, 1], 0, by decide +kernel⟩,
   ⟨pyhOn ((ring1 [dsc 12 [1]]).modPart 1 (fun b => { b with bundle := some bunA })), 1, 7, dsc 12 [1], by decide +kernel⟩,
   ⟨ring1 [dsc 13 [0, 112, 0, 0, 0, 0, 0, 0, 64, 0, 0, 0, 3]], 1, 7, dsc 13 [0, 112, 0, 0, 0, 0, 0, 0, 64, 0, 0, 0, 3], by decide +kernel⟩,
   ⟨ring1 [dsc 13 []], 1, 7, dsc 13 [], by decide +kernel⟩⟩

/-- Every hypothesis of WorkOfAPartition is met somewhere, clause by clause. -/
theorem witness_WorkOfAPartition :
    (∃ (s : State) (p : PartId) (n : Nat) (d : Desc) (bs : List Byte), (s.turn p n 0x01 = some d) ∧ (d.clean [(8, 24)] = true) ∧
      (4096 ≤ d.field 0x10 8 ∧ d.field 0x10 8 ≤ 2 ^ 32) ∧ ((s.part p).work ≠ .stopped) ∧ ((s.part p).work ≠ .resetting) ∧ ((s.part p).loading = none) ∧
      ((s.part p).kernel = none) ∧ ((s.part p).runs = []) ∧ (allPages (d.field 0x18 4) (d.field 0x1C 4) (s.imagePageOk p) = false) ∧
      (∀ x ∈ (s.part p).descs, (s.part p).badHeader x = false)) ∧
    (∃ (s : State) (p : PartId) (n : Nat) (d : Desc) (bs : List Byte), (s.turn p n 0x01 = some d) ∧ (d.clean [(8, 24)] = true) ∧
      (4096 ≤ d.field 0x10 8 ∧ d.field 0x10 8 ≤ 2 ^ 32) ∧ ((s.part p).work ≠ .stopped) ∧ ((s.part p).work ≠ .resetting) ∧ ((s.part p).loading = none) ∧
      ((s.part p).kernel = none) ∧ ((s.part p).runs = []) ∧ (allPages (d.field 0x18 4) (d.field 0x1C 4) (s.imagePageOk p) = true) ∧
      (d.field 0x10 8 ≤ d.field 0x1C 4 * 2 ^ 20) ∧
      (((s.imageReady p n).writeBytes (s.gwOf p) p .desc none {} (slice bs 0 (d.field 0x10 8)) (d.field 0x18 4 * 2 ^ 20) (linesFrom (d.field 0x18 4 * 2 ^ 20) (slice bs 0 (d.field 0x10 8)).length) 0).2.1 = none) ∧
      (∀ x ∈ (s.part p).descs, (s.part p).badHeader x = false)) ∧
    (∃ (s : State) (p : PartId) (n : Nat) (d : Desc) (bs : List Byte), (s.turn p n 0x01 = some d) ∧ (s.lone p d.d) ∧ (d.clean [(8, 24)] = true) ∧
      (4096 ≤ d.field 0x10 8 ∧ d.field 0x10 8 ≤ 2 ^ 32) ∧ ((s.part p).work ≠ .stopped) ∧ ((s.part p).work ≠ .resetting) ∧ ((s.part p).loading = none) ∧
      ((s.part p).kernel ≠ none ∨ (s.part p).runs ≠ [])) ∧
    (∃ (s : State) (p : PartId) (l : Loading) (st : Nat) (det : Nat), ((s.part p).loading = some l) ∧ (s.lone p l.d) ∧ (l.kernel = false) ∧
      (s.loaderDown = false) ∧ (s.allPowered p = true) ∧ (s.admission p l = some (st, det))) ∧
    (∃ (s : State) (p : PartId) (l : Loading), ((s.part p).loading = some l) ∧ (s.lone p l.d) ∧ ((s.part p).periods = []) ∧ ((s.part p).runs = []) ∧
      ((s.part p).stopping = []) ∧ ((s.part p).kernel = none) ∧ ((s.part p).work = .idle) ∧ (l.kernel = false) ∧ (s.loaderDown = false) ∧
      (s.allPowered p = true) ∧ (s.admission p l = none)) ∧
    (∃ (s : State) (p : PartId) (n : Nat) (d : Desc) (bs : List Byte), (s.turn p n 0x0A = some d) ∧ (d.clean [(8, 0x28)] = true) ∧
      (4096 ≤ d.field 0x10 8 ∧ d.field 0x10 8 ≤ 2 ^ 32) ∧ (1 ≤ d.field 0x28 8 ∧ d.field 0x28 8 ≤ 2 ^ 40) ∧ ((s.part p).work ≠ .stopped) ∧
      ((s.part p).work ≠ .resetting) ∧ ((s.part p).loading = none) ∧ ((s.part p).kernel = none) ∧ ((s.part p).bundle = none) ∧
      (allPages (d.field 0x18 4) (d.field 0x1C 4) (s.imagePageOk p) = false) ∧ (∀ x ∈ (s.part p).descs, (s.part p).badHeader x = false)) ∧
    (∃ (s : State) (p : PartId) (n : Nat) (d : Desc) (bs : List Byte), (s.turn p n 0x0A = some d) ∧ (d.clean [(8, 0x28)] = true) ∧
      (4096 ≤ d.field 0x10 8 ∧ d.field 0x10 8 ≤ 2 ^ 32) ∧ (1 ≤ d.field 0x28 8 ∧ d.field 0x28 8 ≤ 2 ^ 40) ∧ ((s.part p).work ≠ .stopped) ∧
      ((s.part p).work ≠ .resetting) ∧ ((s.part p).loading = none) ∧ ((s.part p).kernel = none) ∧ ((s.part p).bundle = none) ∧
      (allPages (d.field 0x18 4) (d.field 0x1C 4) (s.imagePageOk p) = true) ∧ (d.field 0x10 8 ≤ d.field 0x1C 4 * 2 ^ 20) ∧
      (((s.imageReady p n).writeBytes (s.gwOf p) p .desc none {} (slice bs 0 (d.field 0x10 8)) (d.field 0x18 4 * 2 ^ 20) (linesFrom (d.field 0x18 4 * 2 ^ 20) (slice bs 0 (d.field 0x10 8)).length) 0).2.1 = none) ∧
      (∀ x ∈ (s.part p).descs, (s.part p).badHeader x = false)) ∧
    (∃ (s : State) (p : PartId) (n : Nat) (d : Desc) (bs : List Byte), (s.turn p n 0x0A = some d) ∧ (s.lone p d.d) ∧ (d.clean [(8, 0x28)] = true) ∧
      (4096 ≤ d.field 0x10 8 ∧ d.field 0x10 8 ≤ 2 ^ 32) ∧ (1 ≤ d.field 0x28 8 ∧ d.field 0x28 8 ≤ 2 ^ 40) ∧ ((s.part p).work ≠ .stopped) ∧
      ((s.part p).work ≠ .resetting) ∧ ((s.part p).loading = none) ∧ ((s.part p).kernel ≠ none ∨ (s.part p).bundle ≠ none)) ∧
    (∃ (s : State) (p : PartId) (l : Loading) (st : Nat) (det : Nat), ((s.part p).loading = some l) ∧ (s.lone p l.d) ∧ (l.kernel = true) ∧ (s.loaderDown = false) ∧
      (s.allPowered p = true) ∧ (s.still) ∧ ((s.startClocks p).admission p l = some (st, det))) ∧
    (∃ (s : State) (p : PartId) (l : Loading) (x : StackId) (c : ClusterNo), ((s.part p).loading = some l) ∧ (s.lone p l.d) ∧ ((s.part p).periods = []) ∧
      ((s.part p).runs = []) ∧ ((s.part p).stopping = []) ∧ ((s.part p).work = .idle) ∧ (l.kernel = true) ∧ (s.loaderDown = false) ∧ (s.allPowered p = true) ∧
      (s.still) ∧ ((s.startClocks p).admission p l = none) ∧
      ((((s.startClocks p).modPart p fun b => { b with loading := none }).launchAll p l ((s.startClocks p).clusterPairs p)).2 = true) ∧
      ((((s.startClocks p).modPart p fun b => { b with loading := none }).launchAll p l ((s.startClocks p).clusterPairs p)).1.allHalted p = false) ∧
      ((x, c) ∈ (s.startClocks p).clusterPairs p)) ∧
    (∃ (s : State) (p : PartId) (n : Nat) (d : Desc) (k : Bundle) (r : Run), (s.turn p n 0x02 = some d) ∧ ((s.part p).loading = none) ∧
      ((s.part p).bundle = some k) ∧ (d.clean [(8, 0x14), (0x20, 8)] = true) ∧ (0 < d.field 0x14 4) ∧ (0 < d.field 0x18 4) ∧
      (d.field 0x10 4 + d.field 0x14 4 ≤ k.periods.length) ∧ ((s.part p).work ≠ .stopped) ∧ ((s.part p).work ≠ .resetting) ∧ ((s.part p).periods = []) ∧
      ((s.part p).runs = []) ∧ ((s.part p).stopping = []) ∧ ((s.part p).kernel = none) ∧
      (r = { d := d.d, base := (if d.field 8 8 = 0 then s.copyNow (s.gwOf p) + 20000 else d.field 8 8), entries := (k.periods.drop (d.field 0x10 4)).take (d.field 0x14 4), repeats := d.field 0x18 4, stride := d.field 0x20 8 }) ∧
      (s.copyNow (s.gwOf p) + 20000 ≤ r.startOf 0) ∧ (r.repeatsOk k = true) ∧ (∀ x ∈ (s.part p).descs, (s.part p).badHeader x = false)) ∧
    (∃ (s : State) (p : PartId) (n : Nat) (d : Desc) (k : Bundle) (e : PeriodEntry) (l : List PeriodEntry), (s.turn p n 0x02 = some d) ∧ (s.lone p d.d) ∧
      ((s.part p).loading = none) ∧ ((s.part p).bundle = some k) ∧ (d.clean [(8, 0x14), (0x20, 8)] = true) ∧ (0 < d.field 0x14 4) ∧ (0 < d.field 0x18 4) ∧
      (d.field 0x10 4 + d.field 0x14 4 ≤ k.periods.length) ∧ ((s.part p).work ≠ .stopped) ∧ ((s.part p).work ≠ .resetting) ∧ ((s.part p).stopping = []) ∧
      (k.periods.drop (d.field 0x10 4) = e :: l) ∧ (0 < d.field 8 8) ∧ (d.field 8 8 + e.start < s.copyNow (s.gwOf p) + 20000)) ∧
    (∃ (s : State) (p : PartId) (n : Nat) (d : Desc), (s.turn p n 0x02 = some d) ∧ (s.lone p d.d) ∧ ((s.part p).loading = none) ∧ ((s.part p).stopping = []) ∧
      ((s.part p).bundle = none) ∧ (d.clean [(8, 0x14), (0x20, 8)] = true) ∧ (0 < d.field 0x14 4) ∧ (0 < d.field 0x18 4) ∧ ((s.part p).work ≠ .stopped) ∧
      ((s.part p).work ≠ .resetting)) ∧
    (∃ (s : State) (p : PartId) (n : Nat) (d : Desc), (s.turn p n 0x03 = some d) ∧ (s.lone p d.d) ∧ (d.clean [(8, 1)] = true) ∧ (d.byte 8 < 4) ∧
      ((s.part p).periods = []) ∧ ((s.part p).runs = []) ∧ ((s.part p).stopping = []) ∧ ((s.part p).kernel = none) ∧ ((s.part p).loading = none)) ∧
    (∃ (s : State) (p : PartId) (n : Nat) (d : Desc) (m : Period), (s.turn p n 0x03 = some d) ∧ (d.clean [(8, 1)] = true) ∧ (d.byte 8 = 1) ∧
      ((s.part p).periods = [m]) ∧ (m.stage = .running) ∧ (m.fails = []) ∧ (m.decided = 0) ∧ (s.copyNow (s.gwOf p) ≤ m.deadline) ∧
      ((s.part p).kernel = none) ∧ ((s.part p).loading = none) ∧ ((s.part p).runs = []) ∧ (∀ x ∈ (s.part p).descs, (s.part p).badHeader x = false)) ∧
    (∃ (s : State) (p : PartId) (n : Nat) (d : Desc) (k : Kernel) (x : StackId) (g : CoreId), (s.turn p n 0x03 = some d) ∧ (d.clean [(8, 1)] = true) ∧
      (d.byte 8 < 4) ∧ ((s.part p).periods = []) ∧ ((s.part p).runs = []) ∧ ((s.part p).stopping = []) ∧ ((s.part p).kernel = some k) ∧ (x ∈ s.stacksOf p) ∧
      (g.val / 1536 = x.val)) :=
  ⟨⟨ring1 [dsc 1 [0, 112, 0, 0, 0, 0, 0, 0, 0, 16, 0, 0, 0, 0, 0, 0, 5, 0, 0, 0, 1, 0, 0, 0]], 1, 7, dsc 1 [0, 112, 0, 0, 0, 0, 0, 0, 0, 16, 0, 0, 0, 0, 0, 0, 5, 0, 0, 0, 1, 0, 0, 0], [], by decide +kernel⟩,
   ⟨paged (ring1 [dsc 1 [0, 112, 0, 0, 0, 0, 0, 0, 0, 16, 0, 0, 0, 0, 0, 0, 5, 0, 0, 0, 1, 0, 0, 0]]), 1, 7, dsc 1 [0, 112, 0, 0, 0, 0, 0, 0, 0, 16, 0, 0, 0, 0, 0, 0, 5, 0, 0, 0, 1, 0, 0, 0], [], by decide +kernel⟩,
   ⟨(ring1 [dsc 1 [0, 112, 0, 0, 0, 0, 0, 0, 0, 16, 0, 0, 0, 0, 0, 0, 5, 0, 0, 0, 1, 0, 0, 0]]).modPart 1 (fun b => { b with kernel := some kernA }), 1, 7, dsc 1 [0, 112, 0, 0, 0, 0, 0, 0, 0, 16, 0, 0, 0, 0, 0, 0, 5, 0, 0, 0, 1, 0, 0, 0], [], by decide +kernel⟩,
   ⟨(ring1 []).modPart 1 (fun b => { b with loading := some { d := ⟨0, 0, 0, 1⟩, kernel := false, host := 0, length := 4096, first := 5, pages := 1, image := { stks := 1 } } }), 1, { d := ⟨0, 0, 0, 1⟩, kernel := false, host := 0, length := 4096, first := 5, pages := 1, image := { stks := 1 } }, 3, 4, by decide +kernel⟩,
   ⟨(ring1 []).modPart 1 (fun b => { b with loading := some { d := ⟨0, 0, 0, 1⟩, kernel := false, host := 0, length := 0, first := 0, pages := 0, image := kimg } }), 1, { d := ⟨0, 0, 0, 1⟩, kernel := false, host := 0, length := 0, first := 0, pages := 0, image := kimg }, by decide +kernel⟩,
   ⟨ring1 [dsc 10 [0, 112, 0, 0, 0, 0, 0, 0, 0, 16, 0, 0, 0, 0, 0, 0, 5, 0, 0, 0, 1, 0, 0, 0, 9, 0, 0, 0, 0, 0, 0, 0, 100, 0, 0, 0, 0, 0, 0, 0]], 1, 7, dsc 10 [0, 112, 0, 0, 0, 0, 0, 0, 0, 16, 0, 0, 0, 0, 0, 0, 5, 0, 0, 0, 1, 0, 0, 0, 9, 0, 0, 0, 0, 0, 0, 0, 100, 0, 0, 0, 0, 0, 0, 0], [], by decide +kernel⟩,
   ⟨paged (ring1 [dsc 10 [0, 112, 0, 0, 0, 0, 0, 0, 0, 16, 0, 0, 0, 0, 0, 0, 5, 0, 0, 0, 1, 0, 0, 0, 9, 0, 0, 0, 0, 0, 0, 0, 100, 0, 0, 0, 0, 0, 0, 0]]), 1, 7, dsc 10 [0, 112, 0, 0, 0, 0, 0, 0, 0, 16, 0, 0, 0, 0, 0, 0, 5, 0, 0, 0, 1, 0, 0, 0, 9, 0, 0, 0, 0, 0, 0, 0, 100, 0, 0, 0, 0, 0, 0, 0], [], by decide +kernel⟩,
   ⟨(ring1 [dsc 10 [0, 112, 0, 0, 0, 0, 0, 0, 0, 16, 0, 0, 0, 0, 0, 0, 5, 0, 0, 0, 1, 0, 0, 0, 9, 0, 0, 0, 0, 0, 0, 0, 100, 0, 0, 0, 0, 0, 0, 0]]).modPart 1 (fun b => { b with kernel := some kernA }), 1, 7, dsc 10 [0, 112, 0, 0, 0, 0, 0, 0, 0, 16, 0, 0, 0, 0, 0, 0, 5, 0, 0, 0, 1, 0, 0, 0, 9, 0, 0, 0, 0, 0, 0, 0, 100, 0, 0, 0, 0, 0, 0, 0], [], by decide +kernel⟩,
   ⟨(ring1 []).modPart 1 (fun b => { b with loading := some { d := ⟨0, 0, 0, 10⟩, kernel := true, host := 0, length := 4096, first := 5, pages := 1, limit := 9, image := { stks := 1 } } }), 1, { d := ⟨0, 0, 0, 10⟩, kernel := true, host := 0, length := 4096, first := 5, pages := 1, limit := 9, image := { stks := 1 } }, 3, 4, by decide +kernel⟩,
   ⟨((ring1 []).modPart 1 (fun b => { b with loading := some { d := ⟨0, 0, 0, 10⟩, kernel := true, host := 0, length := 0, first := 0, pages := 0, limit := 9, image := kimg } })).modStack 0 (fun k => { k with cmap := 0xFFFFFFFFFFFFFFFFFFFFFFFF }), 1, { d := ⟨0, 0, 0, 10⟩, kernel := true, host := 0, length := 0, first := 0, pages := 0, limit := 9, image := kimg }, 0, 0, by decide +kernel⟩,
   ⟨(ring1 [dsc 2 [0, 0, 0, 0, 0, 0, 0, 0, 0, 0, 0, 0, 1, 0, 0, 0, 1, 0, 0, 0, 0, 0, 0, 0, 0, 0, 0, 0, 0, 0, 0, 0]]).modPart 1 (fun b => { b with bundle := some { bunA with periods := [{ start := 0, length := 10000, work := 0, seed := 3, set := 0, plan := 0, outs := 0 }] } }), 1, 7, dsc 2 [0, 0, 0, 0, 0, 0, 0, 0, 0, 0, 0, 0, 1, 0, 0, 0, 1, 0, 0, 0, 0, 0, 0, 0, 0, 0, 0, 0, 0, 0, 0, 0], { bunA with periods := [{ start := 0, length := 10000, work := 0, seed := 3, set := 0, plan := 0, outs := 0 }] }, { d := ⟨0, 0, 0, 2⟩, base := 21000, entries := [{ start := 0, length := 10000, work := 0, seed := 3, set := 0, plan := 0, outs := 0 }], repeats := 1, stride := 0 }, by decide +kernel⟩,
   ⟨(ring1 [dsc 2 [7, 82, 0, 0, 0, 0, 0, 0, 0, 0, 0, 0, 1, 0, 0, 0, 1, 0, 0, 0, 0, 0, 0, 0, 0, 0, 0, 0, 0, 0, 0, 0]]).modPart 1 (fun b => { b with bundle := some { bunA with periods := [{ start := 0, length := 10000, work := 0, seed := 3, set := 0, plan := 0, outs := 0 }] } }), 1, 7, dsc 2 [7, 82, 0, 0, 0, 0, 0, 0, 0, 0, 0, 0, 1, 0, 0, 0, 1, 0, 0, 0, 0, 0, 0, 0, 0, 0, 0, 0, 0, 0, 0, 0], { bunA with periods := [{ start := 0, length := 10000, work := 0, seed := 3, set := 0, plan := 0, outs := 0 }] }, { start := 0, length := 10000, work := 0, seed := 3, set := 0, plan := 0, outs := 0 }, [], by decide +kernel⟩,
   ⟨ring1 [dsc 2 [0, 0, 0, 0, 0, 0, 0, 0, 0, 0, 0, 0, 1, 0, 0, 0, 1, 0, 0, 0, 0, 0, 0, 0, 0, 0, 0, 0, 0, 0, 0, 0]], 1, 7, dsc 2 [0, 0, 0, 0, 0, 0, 0, 0, 0, 0, 0, 0, 1, 0, 0, 0, 1, 0, 0, 0, 0, 0, 0, 0, 0, 0, 0, 0, 0, 0, 0, 0], by decide +kernel⟩,
   ⟨(ring1 [dsc 3 [2]]).modPart 1 (fun b => { b with bundle := some bunA }), 1, 7, dsc 3 [2], by decide +kernel⟩,
   ⟨(ring1 [dsc 3 [1]]).modPart 1 (fun b => { b with bundle := some bunA, work := .scheduled, periods := [{ perA with stage := .running }] }), 1, 7, dsc 3 [1], { perA with stage := .running }, by decide +kernel⟩,
   ⟨(ring1 [dsc 3 [2]]).modPart 1 (fun b => { b with work := .freeRun, kernel := some kernA }), 1, 7, dsc 3 [2], kernA, 0, 5, by decide +kernel⟩⟩

/-- Every hypothesis of LanesRingsAndLasers is met somewhere, clause by clause. -/
theorem witness_LanesRingsAndLasers :
    (∃ (s : State) (l : LaneId) (d : Int), (s.on = true) ∧ (100 ≤ marginOf d)) ∧
    (∃ (s : State) (l : LaneId) (d : Int), (50 ≤ marginOf d) ∧ (marginOf d < 100) ∧ (s.laneInService l = true) ∧ ((s.lane l).warned = false)) ∧
    (∃ (s : State) (l : LaneId) (d : Int), (marginOf d < 50) ∧ (s.laneInService l = true) ∧ (l.snd ≠ l.rcv) ∧ (l.rcv.val < 28)) ∧
    (∃ (s : State) (l : LaneId) (d : Int), (d < -2400) ∧ (s.laneInService l = true) ∧ (s.switching l.rcv (groupOf l.plane) = false) ∧ (l.snd ≠ l.rcv) ∧
      (l.rcv.val < 28)) ∧
    (∃ (s : State) (l : LaneId) (d : Int), (d < -2400) ∧ (s.switching l.rcv (groupOf l.plane) = true)) ∧
    (∃ (s : State) (l : LaneId) (d : Int), ((s.laneInService l = false ∧ s.switching l.rcv (groupOf l.plane) = false) ∨ -2400 ≤ d)) ∧
    (∃ (s : State) (l : LaneId) (n : Nat) (c : Nat) (b : List Nat), (s.on = true) ∧ (1000 * c ≤ n) ∧ ((b.filter codewordLost).length ≠ 0)) ∧
    (∃ (s : State) (l : LaneId) (n : Nat) (c : Nat) (b : List Nat), (n < 1000 * c) ∧ (s.laneInService l = true) ∧ (l.snd ≠ l.rcv) ∧ (l.rcv.val < 28)) ∧
    (∃ (s : State) (l : LaneId) (er : Nat) (uw : Nat) (gr : Bool), (2000 < er ∨ ((uw = 0 ∨ 2000 ≤ uw) ∧ gr = true)) ∧ (s.laneInService l = true) ∧
      (l.snd ≠ l.rcv) ∧ (l.rcv.val < 28)) ∧
    (∃ (s : State) (l : LaneId) (er : Nat) (uw : Nat) (gr : Bool), (2000 < er ∨ ((uw = 0 ∨ 2000 ≤ uw) ∧ gr = true)) ∧ (s.on = true) ∧ (l.snd ≠ l.rcv) ∧
      ((s.ep l.snd).isolated = false)) ∧
    (∃ (s : State) (l : LaneId) (n : Nat), (s.laneInService l = true) ∧ (l.snd ≠ l.rcv) ∧ (l.rcv.val < 28) ∧ (n ≠ pilotKhz (lineOf l.snd l.rcv))) ∧
    (∃ (s : State) (l : LaneId) (n : Nat), (s.on = true) ∧ (l.snd ≠ l.rcv) ∧ ((s.ep l.snd).isolated = false) ∧ (n ≠ pilotKhz (lineOf l.snd l.rcv))) ∧
    (∃ (s : State) (l : LaneId) (dips : List Dip) (x : Dip), (s.on = true) ∧ (l.snd ≠ l.rcv) ∧ (hasBit (s.lane l).relocking 0 = true) ∧
      (acquire (s.baseline l false) (lineOf l.snd l.rcv) (some ((s.lane l).lockOf false, 830)) dips = some x)) ∧
    (∃ (s : State) (l : LaneId) (dips : List Dip), (hasBit (s.lane l).relocking 0 = true) ∧
      (acquire (s.baseline l false) (lineOf l.snd l.rcv) (some ((s.lane l).lockOf false, 830)) dips = none) ∧ (s.laneInService l = true) ∧ (l.snd ≠ l.rcv) ∧
      (l.rcv.val < 28)) ∧
    (∃ (s : State) (l : LaneId) (dips : List Dip) (x : Dip), (s.on = true) ∧ (hasBit (s.lane l).relocking 1 = true) ∧
      (acquire (s.baseline l true) (lineOf l.snd l.rcv) (some ((s.lane l).lockOf true, 830)) dips = some x) ∧ (l.snd ≠ l.rcv) ∧
      ((s.ep l.snd).isolated = false)) ∧
    (∃ (s : State) (e : EpId) (d : Int) (b : Bool), (s.on = true) ∧ (d < 1000) ∧ (b = false ∨ (s.ep e).laserWarned = true) ∧ ((s.ep e).laserEol = false)) ∧
    (∃ (s : State) (e : EpId) (d : Int) (b : Bool), (s.on = true) ∧ (1000 ≤ d) ∧ (d < 1200) ∧ (b = true) ∧ ((s.ep e).laserWarned = false)) ∧
    (∃ (s : State) (e : EpId) (d : Int) (b : Bool), (1200 ≤ d ∨ (1000 ≤ d ∧ b = false))) ∧
    (∃ (s : State) (e : EpId) (d : Int), (s.on = true) ∧ (d < 1000)) ∧
    (∃ (s : State) (l : LaneId), (s.on = true) ∧ ((s.lane l).failOn (s.pathOf l) ≠ none) ∧ ((s.lane l).held = false) ∧ ((s.lane l).testing = false) ∧
      ((s.lane l).tests < 10) ∧ ((s.lane l).lastTest + 1000000000 ≤ s.now)) ∧
    (∃ (s : State) (l : LaneId), (s.now < (s.lane l).lastTest + 1000000000)) ∧
    (∃ (s : State) (l : LaneId) (c : BitVec 8) (r : LaneTest), (s.on = true) ∧ ((s.lane l).testing = true) ∧ ((s.lane l).failOn (s.pathOf l) = some c) ∧
      ((s.lane l).ring = none) ∧ (r.passes l 320 = true) ∧ ((s.lane l).relocking = 0) ∧ ((s.lane l).parked = 0)) ∧
    (∃ (s : State) (l : LaneId) (c : BitVec 8) (r : LaneTest), (s.on = true) ∧ ((s.lane l).testing = true) ∧ ((s.lane l).ring = some c) ∧ (r.passes l 320 = true) ∧
      ((s.lane l).relocking = 0) ∧ ((s.lane l).parked = 0)) ∧
    (∃ (s : State) (l : LaneId) (r : LaneTest), (s.on = true) ∧ ((s.lane l).testing = true) ∧ ((s.lane l).failOn (s.pathOf l) ≠ none) ∧ ((s.lane l).tests < 9) ∧
      (r.passes l 320 = false)) ∧
    (∃ (s : State) (l : LaneId) (r : LaneTest), (s.on = true) ∧ ((s.lane l).testing = true) ∧ ((s.lane l).failOn (s.pathOf l) ≠ none) ∧ ((s.lane l).tests = 9) ∧
      ((s.lane l).held = false) ∧ (r.passes l 320 = false)) :=
  ⟨⟨shining, ⟨3, 5, 7⟩, -1700, by decide +kernel⟩,
   ⟨shining, ⟨3, 5, 7⟩, -1701, by decide +kernel⟩,
   ⟨shining, ⟨3, 5, 7⟩, -1751, by decide +kernel⟩,
   ⟨shining, ⟨3, 5, 7⟩, -2401, by decide +kernel⟩,
   ⟨{ (shining.modEp 5 fun e => { e with pends := [⟨0, true, 90, 0⟩] }) with now := 100 }, ⟨3, 5, 7⟩, -2401, by decide +kernel⟩,
   ⟨shining, ⟨3, 5, 7⟩, -2400, by decide +kernel⟩,
   ⟨shining, ⟨3, 5, 7⟩, 1000, 1, [15, 16], by decide +kernel⟩,
   ⟨shining, ⟨3, 5, 7⟩, 999, 1, [], by decide +kernel⟩,
   ⟨shining, ⟨3, 5, 7⟩, 2001, 5, false, by decide +kernel⟩,
   ⟨shining, ⟨3, 5, 7⟩, 9, 2000, true, by decide +kernel⟩,
   ⟨shining, ⟨3, 5, 7⟩, 9, by decide +kernel⟩,
   ⟨shining, ⟨3, 5, 7⟩, 9, by decide +kernel⟩,
   ⟨shining.modLane ⟨3, 5, 7⟩ (fun k => { k with relocking := 1 }), ⟨3, 5, 7⟩, [⟨20, 9, 1025⟩, ⟨700, 2000, 1050⟩], ⟨700, 2000, 1050⟩, by decide +kernel⟩,
   ⟨shining.modLane ⟨3, 5, 7⟩ (fun k => { k with relocking := 1 }), ⟨3, 5, 7⟩, [⟨20, 9, 1025⟩, ⟨900, 9, 1050⟩], by decide +kernel⟩,
   ⟨shining.modLane ⟨3, 5, 7⟩ (fun k => { k with modBad := true, relocking := 2 }), ⟨3, 5, 7⟩, [⟨0, 0, 1050⟩], ⟨0, 0, 1050⟩, by decide +kernel⟩,
   ⟨shining, 3, 999, false, by decide +kernel⟩,
   ⟨shining, 3, 1000, true, by decide +kernel⟩,
   ⟨shining, 3, 1199, false, by decide +kernel⟩,
   ⟨shining, 3, 999, by decide +kernel⟩,
   ⟨{ shining with now := 1000000000 }.modLane ⟨3, 5, 7⟩ (fun k => { k with failA := some 0 }), ⟨3, 5, 7⟩, by decide +kernel⟩,
   ⟨shining, ⟨3, 5, 7⟩, by decide +kernel⟩,
   ⟨shining.modLane ⟨3, 5, 7⟩ (fun k => { k with failA := some 0, failB := some 2, testing := true, tests := 3 }), ⟨3, 5, 7⟩, 0, ⟨markerWord 3 5 7 0 0xFF 3 false 0, 1050, [0, 0, -1650, -1700, -1700], 320⟩, by decide +kernel⟩,
   ⟨shining.modLane ⟨3, 5, 7⟩ (fun k => { k with ring := some 4, failB := some 2, testing := true }), ⟨3, 5, 7⟩, 4, ⟨markerWord 3 5 7 0 0xFF 3 false 0, 1050, [0, 0, -1650, -1700, -1700], 320⟩, by decide +kernel⟩,
   ⟨shining.modLane ⟨3, 5, 7⟩ (fun k => { k with failA := some 0, failB := some 2, testing := true, tests := 8 }), ⟨3, 5, 7⟩, ⟨markerWord 3 5 7 0 0xFF 3 false 0, 1050, [0, 0, -1651, -1700, -1700], 320⟩, by decide +kernel⟩,
   ⟨shining.modLane ⟨3, 5, 7⟩ (fun k => { k with failA := some 0, failB := some 2, testing := true, tests := 9 }), ⟨3, 5, 7⟩, ⟨markerWord 3 5 7 0 0xFF 3 false 0, 1050, [0, 0, -1651, -1700, -1700], 320⟩, by decide +kernel⟩⟩

/-- Every hypothesis of MasksAndSwitchovers is met somewhere, clause by clause. -/
theorem witness_MasksAndSwitchovers :
    (∃ (s : State) (j : EpId) (p : PlaneNo) (k : Fin 32) (w : Option (BitVec 170)), (s.on = true) ∧ ((s.ep j).isolated = false) ∧ (senderOn j k ≠ j) ∧
      ((w.any fun v => markerGood j p k v) = false) ∧ (hasBit (s.link (senderOn j k) j).mask p.val = true) ∧ (s.switching j (groupOf p) = false) ∧
      (s.laneInService ⟨senderOn j k, j, p⟩ = true)) ∧
    (∃ (s : State) (j : EpId) (p : PlaneNo) (k : Fin 32) (w : BitVec 170), (s.on = true) ∧ ((s.ep j).isolated = false) ∧ (senderOn j k ≠ j) ∧
      (markerGood j p k w = true) ∧ (mkWidth w ≠ 6) ∧ (s.switching j (groupOf p) = false) ∧ ((s.link (senderOn j k) j).seen = true) ∧
      ((s.link (senderOn j k) j).sndEpoch = mkEpoch w) ∧ (mkMask w = (s.link (senderOn j k) j).mask) ∧ (mkMask w ≠ 0) ∧
      ((s.link (senderOn j k) j).trained = false)) ∧
    (∃ (s : State) (j : EpId) (p : PlaneNo) (k : Fin 32) (w : BitVec 170), (s.on = true) ∧ ((s.ep j).isolated = false) ∧ (senderOn j k ≠ j) ∧
      (markerGood j p k w = true) ∧ (mkWidth w ≠ 6) ∧ ((s.link (senderOn j k) j).seen = true) ∧ ((s.link (senderOn j k) j).sndEpoch = mkEpoch w) ∧
      ((s.link (senderOn j k) j).trained = true) ∧ (s.switching j (groupOf p) = true) ∧ (mkPath w = hasBit (s.ep j).drivers (groupOf p).val)) ∧
    (∃ (s : State) (j : EpId) (p : PlaneNo) (k : Fin 32) (w : BitVec 170), (s.on = true) ∧ ((s.ep j).isolated = false) ∧ (senderOn j k ≠ j) ∧
      (markerGood j p k w = true) ∧ (mkWidth w ≠ 6) ∧ ((s.link (senderOn j k) j).seen = false ∨ (s.link (senderOn j k) j).sndEpoch ≠ mkEpoch w) ∧
      (hasBit (s.link (senderOn j k) j).mask p.val = true) ∧ (s.switching j (groupOf p) = false) ∧ (s.laneInService ⟨senderOn j k, j, p⟩ = true)) ∧
    (∃ (s : State) (j : EpId) (p : PlaneNo) (k : Fin 32) (w : BitVec 170), (s.on = true) ∧ ((s.ep j).isolated = false) ∧ (senderOn j k ≠ j) ∧
      (markerGood j p k w = true) ∧ (mkWidth w = 6) ∧ ((s.link (senderOn j k) j).trained = false) ∧ ((s.ep j).held = [])) ∧
    (∃ (s : State) (a : Arr) (m : LinkMask), (s.hears a) ∧ (m.snd = a.rx) ∧ (m.rcv = a.h.origin) ∧ (m.sndEpoch = (s.ep a.rx).epoch) ∧
      ((s.link a.rx a.h.origin).decTick < m.tick) ∧ ((s.link a.rx a.h.origin).excluded = 0)) ∧
    (∃ (s : State) (a : Arr) (m : LinkMask), (s.hears a) ∧
      (m.snd ≠ a.rx ∨ m.rcv ≠ a.h.origin ∨ m.sndEpoch ≠ (s.ep a.rx).epoch ∨ (m.tick ≤ (s.link a.rx a.h.origin).decTick ∧ (s.link a.rx a.h.origin).decTick ≠ 0))) ∧
    (∃ (s : State) (a : Arr) (m : LinkMask) (p : PlaneNo), (s.hears a) ∧ (m.snd = a.h.origin) ∧ (m.rcv = a.rx) ∧ (a.h.origin ≠ a.rx) ∧ (a.rx.val < 28) ∧
      (((List.finRange 32).filter fun p => hasBit (s.link a.h.origin a.rx).usableSnd p.val && !hasBit m.mask p.val) = [p]) ∧
      (s.laneInService ⟨a.h.origin, a.rx, p⟩ = true) ∧ ((s.ep a.rx).held = [])) ∧
    (∃ (s : State) (i : EpId) (j : EpId) (p : PlaneNo), (s.on = true) ∧ (i ≠ j) ∧ ((s.ep i).isolated = false) ∧ ((s.link i j).trained = false) ∧
      ((s.link i j).repTick + 10000 ≤ s.now) ∧ (hasBit (s.usableTx i j) p.val = true)) ∧
    (∃ (s : State) (i : EpId) (j : EpId), ((s.link i j).trained = true ∨ s.now < (s.link i j).repTick + 10000)) ∧
    (∃ (s : State) (i : EpId) (j : EpId), ((s.link i j).trained = true) ∧ ((s.link i j).lastPkt + 10000 ≤ s.now)) ∧
    (∃ (s : State) (i : EpId) (j : EpId), ((s.link i j).trained = false ∨ s.now < (s.link i j).lastPkt + 10000)) ∧
    (∃ (s : State) (e : EpId) (j : EpId) (w : Switch), ((s.ep e).pends = [w]) ∧ (w.t ≤ s.copyNow e + 200) ∧ (j ≠ e)) ∧
    (∃ (s : State) (e : EpId) (w : Switch), ((s.ep e).pends = [w]) ∧ (s.copyNow e + 200 < w.t)) ∧
    (∃ (s : State) (e : EpId) (w : Switch), ((s.ep e).pends = [w]) ∧ (w.t ≤ s.copyNow e) ∧ (hasBit (s.ep e).drivers w.group.val ≠ w.path)) ∧
    (∃ (s : State) (e : EpId) (w : Switch), ((s.ep e).pends = [w]) ∧ (s.copyNow e < w.t)) ∧
    (∃ (s : State) (e : EpId) (j : EpId) (w : Switch), ((s.ep e).pends = [w]) ∧ (w.t + 800 ≤ s.copyNow e) ∧ (hasBit (s.ep e).drivers w.group.val = w.path) ∧
      (j ≠ e)) :=
  ⟨⟨shining.modLink 3 5 (fun k => { k with mask := 0xFF }), 5, 7, 2, some (markerWord 4 5 7 0 0xFF 3 false 9), by decide +kernel⟩,
   ⟨shining.modLink 3 5 (fun k => { k with mask := 0xFF, seen := true }), 5, 7, 2, markerWord 3 5 7 0 0xFF 3 false 9, by decide +kernel⟩,
   ⟨{ (shining.modLink 3 5 (fun k => { k with mask := 0xFF, seen := true, trained := true })).modEp 5 (fun e => { e with pends := [⟨0, true, 90, 0⟩] }) with now := 100 }, 5, 7, 2, markerWord 3 5 7 0 0xFF 3 false 9, by decide +kernel⟩,
   ⟨shining.modLink 3 5 (fun k => { k with mask := 0xFF, seen := true, trained := true }), 5, 7, 2, markerWord 3 5 7 1 0xFF 3 false 9, by decide +kernel⟩,
   ⟨shining.modLane ⟨3, 5, 7⟩ (fun k => { k with untested := true }), 5, 7, 2, markerWord 3 5 7 4 0xFF 6 false 9, by decide +kernel⟩,
   ⟨shining, arr 3 5, { snd := 5, rcv := 3, sndEpoch := 0, rcvEpoch := 0, width := 3, path := false, mask := 0xFF, rcvUsable := 0xFFFF, tick := 9 }, by decide +kernel⟩,
   ⟨shining.modLink 5 3 (fun k => { k with decTick := 9 }), arr 3 5, { snd := 5, rcv := 3, sndEpoch := 0, rcvEpoch := 0, width := 3, path := false, mask := 0xFF, rcvUsable := 0xFFFF, tick := 9 }, by decide +kernel⟩,
   ⟨shining.modLink 3 5 (fun k => { k with usableSnd := 0xFF, seen := true }), arr 3 5, { snd := 3, rcv := 5, sndEpoch := 0, rcvEpoch := 0, width := 4, path := false, mask := 0x7F, rcvUsable := 0, tick := 9 }, 7, by decide +kernel⟩,
   ⟨{ shining with now := 10000 }, 3, 5, 7, by decide +kernel⟩,
   ⟨shining, 3, 5, by decide +kernel⟩,
   ⟨{ shining with now := 10000 }.modLink 3 5 (fun k => { k with trained := true }), 3, 5, by decide +kernel⟩,
   ⟨shining, 3, 5, by decide +kernel⟩,
   ⟨{ (shining.modEp 3 fun e => { e with pends := [⟨1, true, 5000, 0⟩] }).modLink 3 5 (fun k => { k with mask := 0xFFFF, agreed := 0xFFFF, trained := true }) with now := 4800 }, 3, 5, ⟨1, true, 5000, 0⟩, by decide +kernel⟩,
   ⟨{ (shining.modEp 3 fun e => { e with pends := [⟨1, true, 5000, 0⟩] }).modLink 3 5 (fun k => { k with mask := 0xFFFF, agreed := 0xFFFF, trained := true }) with now := 4799 }, 3, ⟨1, true, 5000, 0⟩, by decide +kernel⟩,
   ⟨{ (shining.modEp 3 fun e => { e with pends := [⟨1, true, 5000, 0⟩] }).modLink 3 5 (fun k => { k with mask := 0xFFFF, agreed := 0xFFFF, trained := true }) with now := 5000 }, 3, ⟨1, true, 5000, 0⟩, by decide +kernel⟩,
   ⟨{ (shining.modEp 3 fun e => { e with pends := [⟨1, true, 5000, 0⟩] }).modLink 3 5 (fun k => { k with mask := 0xFFFF, agreed := 0xFFFF, trained := true }) with now := 4999 }, 3, ⟨1, true, 5000, 0⟩, by decide +kernel⟩,
   ⟨({ (shining.modEp 3 fun e => { e with pends := [⟨1, true, 5000, 0⟩] }).modLink 3 5 (fun k => { k with mask := 0xFFFF, agreed := 0xFFFF, trained := true }) with now := 5800 }).modEp 3 (fun e => { e with drivers := 2 }), 3, 5, ⟨1, true, 5000, 0⟩, by decide +kernel⟩⟩

/-- Every hypothesis of PathStewards is met somewhere, clause by clause. -/
theorem witness_PathStewards :
    (∃ (s : State) (h : Fin 2), (s.stewUp h = true) ∧ ((s.stew h).holds ≠ 0) ∧ ((s.stew h).lastRenew + 250 ≤ s.copyNow (stewHub h))) ∧
    (∃ (s : State) (h : Fin 2), (s.copyNow (stewHub h) < (s.stew h).lastRenew + 250)) ∧
    (∃ (s : State) (h : Fin 2) (g : GroupNo) (gen : Nat) (ex : Nat), (s.stewUp h = true) ∧ (hasBit (s.stew h).holds g.val = false) ∧
      (hasBit (s.stew (otherStew h)).holds g.val = true) ∧ (gen ≤ kget 0 (s.stew (otherStew h)).gen g.val) ∧ (ex ≤ kget 0 (s.stew (otherStew h)).sentE g.val)) ∧
    (∃ (s : State) (h : Fin 2) (g : GroupNo) (ex : Nat), (s.stewUp h = true) ∧ (hasBit (s.stew h).holds g.val = true) ∧ (ex ≤ kget 0 (s.stew h).sentE g.val) ∧
      (ex ≤ kget 0 (s.stew (otherStew h)).heardE g.val)) ∧
    (∃ (s : State) (h : Fin 2) (g : GroupNo) (ex : Nat), (kget 0 (s.stew h).sentE g.val < ex ∨ kget 0 (s.stew (otherStew h)).heardE g.val < ex)) ∧
    (∃ (s : State) (h : Fin 2) (g : GroupNo) (e : EpId), (s.stewUp h = true) ∧ (hasBit (s.stew h).holds g.val = false) ∧ (hasBit (s.stew h).known g.val = true) ∧
      ((s.stew h).returned = false ∨ hasBit (s.stew h).heard g.val = true) ∧ (kget 0 (s.stew h).heardE g.val + 10 ≤ s.copyNow (stewHub h)) ∧ (e ≠ stewHub h)) ∧
    (∃ (s : State) (h : Fin 2) (g : GroupNo), (s.copyNow (stewHub h) < kget 0 (s.stew h).heardE g.val + 10)) ∧
    (∃ (s : State) (h : Fin 2) (g : GroupNo) (k : Nat), (s.stewUp h = true) ∧ ((s.stew h).returned = true) ∧ ((s.stew h).partnerLost = some k) ∧
      (k + 1010 ≤ s.copyNow (stewHub h)) ∧ (hasBit (s.stew h).heard g.val = false) ∧ (hasBit (s.stew h).holds g.val = false)) ∧
    (∃ (s : State) (h : Fin 2) (g : GroupNo) (w : Switch) (e : EpId), ((s.stew h).pend = [w]) ∧ (w.group = g) ∧ (hasBit (s.stew h).echoed g.val = false) ∧
      (s.leaseOk h g = true) ∧ (e ≠ stewHub h)) ∧
    (∃ (s : State) (h : Fin 2) (w : Switch) (e : EpId), ((s.stew h).pend = [w]) ∧ (hasBit (s.stew h).echoed w.group.val = true) ∧ (s.copyNow (stewHub h) < w.t) ∧
      (s.leaseOk h w.group = true) ∧ ((s.ep e).inService = true) ∧ (hasBit (kget 0 (s.stew h).accepted w.group.val) e.val = false) ∧ (e ≠ stewHub h)) ∧
    (∃ (s : State) (h : Fin 2) (e : EpId), (s.stewUp h = true) ∧ ((s.stew h).holds ≠ 0) ∧ (e ≠ stewHub h)) ∧
    (∃ (s : State) (h : Fin 2), ((s.stew h).holds = 0)) ∧
    (∃ (s : State) (h : Fin 2) (g : GroupNo) (w : Switch), ((s.stew h).pend = [w]) ∧ (w.group = g) ∧ (s.stewUp h = true) ∧ (hasBit (s.stew h).holds g.val = true) ∧
      (hasBit (s.stew h).echoed g.val = true) ∧ (w.t + 800 ≤ s.copyNow (stewHub h))) ∧
    (∃ (s : State) (h : Fin 2) (g : GroupNo) (w : Switch), ((s.stew h).pend = [w]) ∧ (w.group = g) ∧ (s.copyNow (stewHub h) < w.t + 800)) ∧
    (∃ (s : State) (a : Arr) (w : Switch) (h : Fin 2), (s.hears a) ∧ (kget 0 (s.ep a.rx).genSeen w.group.val ≤ w.gen) ∧ (s.copyNow a.rx < w.t) ∧ (a.rx ≠ stewHub h)) ∧
    (∃ (s : State) (a : Arr) (w : Switch) (h : Fin 2), (s.hears a) ∧ (kget 0 (s.ep a.rx).genSeen w.group.val ≤ w.gen) ∧ (w.t ≤ s.copyNow a.rx) ∧ (a.rx ≠ stewHub h)) ∧
    (∃ (s : State) (a : Arr) (w : Switch) (h : Fin 2), (s.hears a) ∧ (w.gen < kget 0 (s.ep a.rx).genSeen w.group.val)) ∧
    (∃ (s : State) (a : Arr) (w : Switch) (h : Fin 2), (s.hears a) ∧ (a.rx = stewHub h) ∧ ((s.stew h).pend = [w])) ∧
    (∃ (s : State) (a : Arr) (f : FaultRep) (h : Fin 2), (s.hears a) ∧ (a.rx = stewHub h) ∧ (s.stewUp h = true) ∧ (s.leaseOk h f.group = false) ∧ (f.cause ≠ 4) ∧
      (f.cause ≠ 5) ∧ (f.cause ≠ 6)) ∧
    (∃ (s : State) (a : Arr) (f : FaultRep) (h : Fin 2), (s.hears a) ∧ (a.rx = stewHub h) ∧ (s.stewUp h = true) ∧ (s.leaseOk h f.group = false) ∧
      (f.cause = 4 ∨ f.cause = 5)) ∧
    (∃ (s : State) (a : Arr) (f : FaultRep) (h : Fin 2) (act : Bool), (s.hears a) ∧ (a.rx = stewHub h) ∧ (s.leaseOk h f.group = true) ∧
      ((s.stew h).partnerLost = none) ∧ (act = hasBit (s.stew h).paths f.group.val) ∧ (f.path = act) ∧ (f.cause.toNat < 4) ∧ ((s.stew h).pend = []) ∧
      ((s.stew h).probes = []) ∧ (s.standbyReady f.group = true) ∧
      (3 ≤ distinct ((({ f with tick := s.copyNow a.rx } : FaultRep) :: (s.stew h).reports.filter fun r => s.copyNow a.rx < r.tick + 10000 && r.group = f.group && r.path = act && r.cause.toNat < 6).map (·.snd))) ∧
      (3 ≤ distinct ((({ f with tick := s.copyNow a.rx } : FaultRep) :: (s.stew h).reports.filter fun r => s.copyNow a.rx < r.tick + 10000 && r.group = f.group && r.path = act && r.cause.toNat < 6).map (·.rcv))) ∧
      ((s.stew h).rings = []) ∧ ((if act then (s.stew h).startA else (s.stew h).startB) = []) ∧ (s.stewUp (otherStew h) = true) ∧
      (hasBit f.lanes (8 * f.group.val) = true) ∧ (f.snd ≠ f.rcv)) ∧
    (∃ (s : State) (a : Arr) (ps : BitVec 4) (h : Fin 2) (gen : Nat) (g : GroupNo), (s.hears a) ∧ (kget 0 (s.ep a.rx).genSeen g.val ≤ gen)) ∧
    (∃ (s : State) (a : Arr) (ps : BitVec 4) (h : Fin 2) (gen : Nat) (g : GroupNo), (s.hears a) ∧ (gen < kget 0 (s.ep a.rx).genSeen g.val)) ∧
    (∃ (s : State) (e : EpId) (p : PlaneNo) (d : Int) (k : Nat), (s.on = true) ∧ ((s.ep e).isolated = false) ∧
      (k ≠ pilotKhz 0 ∨ d < kget 0 (s.ep e).probeRef p.val - 300 ∨ d < -4000) ∧ (hasBit (s.ep e).probeFail p.val = false) ∧ (e.val < 28)) ∧
    (∃ (s : State) (e : EpId) (p : PlaneNo) (d : Int) (k : Nat), (s.on = true) ∧ ((s.ep e).isolated = false) ∧ (k = pilotKhz 0) ∧
      (kget 0 (s.ep e).probeRef p.val - 300 ≤ d) ∧ (-4000 ≤ d) ∧ (hasBit (s.ep e).probeFail p.val = true) ∧ (99 ≤ kget 0 (s.ep e).probeClean p.val)) ∧
    (∃ (s : State) (e : EpId) (p : PlaneNo) (d : Int) (k : Nat), (s.on = true) ∧ ((s.ep e).isolated = false) ∧ (k = pilotKhz 0) ∧
      (kget 0 (s.ep e).probeRef p.val - 300 ≤ d) ∧ (-4000 ≤ d) ∧ (hasBit (s.ep e).probeFail p.val = true) ∧ (kget 0 (s.ep e).probeClean p.val < 99)) ∧
    (∃ (s : State) (e : EpId) (r : BitVec 512), (s.on = true) ∧ ((s.ep e).isolated = false) ∧ ((s.ep e).ctlDead = 0) ∧ (cwCheckOk r = false)) ∧
    (∃ (s : State) (e : EpId) (r : BitVec 512) (k : CwSlot), (s.on = true) ∧ ((s.ep e).isolated = false) ∧ ((s.ep e).ctlDead = 0) ∧ (cwCheckOk r = true) ∧
      ((s.ep e).cwRx = none ∨ (s.ep e).cwRx.any (fun c => decide (cwCountOf r = (c + 1) % 65536)) = true) ∧ (cwSlotOf r 0 = k) ∧
      (((List.range 5).all fun i => (cwSlotOf r (i + 1)).kind = 0) = true) ∧ (0 < k.kind.toNat) ∧ (k.kind.toNat < 11) ∧ (k.kind ≠ 7)) ∧
    (∃ (s : State) (e : EpId) (r : BitVec 512) (k : CwSlot), (s.on = true) ∧ ((s.ep e).isolated = false) ∧ ((s.ep e).ctlDead = 0) ∧ (cwCheckOk r = true) ∧
      ((s.ep e).cwRx = none ∨ (s.ep e).cwRx.any (fun c => decide (cwCountOf r = (c + 1) % 65536)) = true) ∧ (cwSlotOf r 0 = k) ∧
      (((List.range 5).all fun i => (cwSlotOf r (i + 1)).kind = 0) = true) ∧ (k.kind = 7)) ∧
    (∃ (s : State) (e : EpId) (r : BitVec 512) (c : Nat), (s.on = true) ∧ ((s.ep e).isolated = false) ∧ ((s.ep e).ctlDead = 0) ∧ ((s.ep e).cwRx = some c) ∧
      (cwCountOf r ≠ (c + 1) % 65536)) ∧
    (∃ (s : State) (e : EpId), (s.on = true) ∧ ((s.ep e).isolated = false) ∧ ((s.ep e).ctlDead = 0)) :=
  ⟨⟨{ ready with stewA := { up := true, holds := 15 }, stewB := { up := true }, now := 250 }, 0, by decide +kernel⟩,
   ⟨ready, 0, by decide +kernel⟩,
   ⟨{ ready with stewA := { up := true, holds := 15, gen := [(2, 3)], sentE := [(2, 1250)] }, stewB := { up := true }, now := 250 }, 1, 2, 3, 1250, by decide +kernel⟩,
   ⟨{ ready with stewA := { up := true, holds := 15, sentE := [(2, 1250)] }, stewB := { up := true, heardE := [(2, 1250)] }, now := 250 }, 0, 2, 1250, by decide +kernel⟩,
   ⟨ready, 0, 2, 5, by decide +kernel⟩,
   ⟨{ ready with stewA := { up := true, holds := 15 }, stewB := { up := true, known := 4, heardE := [(2, 1000)], gen := [(2, 3)] }, now := 1010 }, 1, 2, 5, by decide +kernel⟩,
   ⟨{ ready with stewA := { up := true, holds := 15 }, stewB := { up := true, known := 4, heardE := [(2, 1000)], gen := [(2, 3)] }, now := 1009 }, 1, 2, by decide +kernel⟩,
   ⟨{ ready with stewA := { up := true, holds := 0 }, stewB := { up := true, returned := true, partnerLost := some 0 }, now := 1010 }, 1, 2, 0, by decide +kernel⟩,
   ⟨{ ready with stewA := { up := true, holds := 4, leaseE := [(2, 1000)], pend := [⟨2, true, 0, 3⟩] }, stewB := { up := true, pend := [⟨2, true, 0, 3⟩] }, now := 101 }, 0, 2, ⟨2, true, 0, 3⟩, 5, by decide +kernel⟩,
   ⟨({ ready with stewA := { up := true, holds := 4, leaseE := [(2, 1000)], echoed := 4, pend := [⟨2, true, 2100, 3⟩] }, stewB := { up := true, pend := [⟨2, true, 2100, 3⟩] }, now := 100 }).modEp 5 (fun e => { e with inService := true }), 0, ⟨2, true, 2100, 3⟩, 5, by decide +kernel⟩,
   ⟨{ ready with stewA := { up := true, holds := 4 }, stewB := { up := true }, now := 100 }, 0, 5, by decide +kernel⟩,
   ⟨ready, 0, by decide +kernel⟩,
   ⟨{ ready with stewA := { up := true, holds := 4, echoed := 4, pend := [⟨2, true, 2100, 3⟩] }, stewB := { up := true, pend := [⟨2, true, 2100, 3⟩] }, now := 2900 }, 0, 2, ⟨2, true, 2100, 3⟩, by decide +kernel⟩,
   ⟨{ ready with stewA := { up := true, holds := 4, pend := [⟨2, true, 2100, 3⟩] }, stewB := { up := true, pend := [⟨2, true, 2100, 3⟩] }, now := 2899 }, 0, 2, ⟨2, true, 2100, 3⟩, by decide +kernel⟩,
   ⟨ready, arr 28 5, ⟨2, true, 2100, 3⟩, 0, by decide +kernel⟩,
   ⟨{ ready with now := 2100 }, arr 28 5, ⟨2, true, 2100, 3⟩, 0, by decide +kernel⟩,
   ⟨ready.modEp 5 (fun e => { e with genSeen := [(2, 4)] }), arr 28 5, ⟨2, true, 2100, 3⟩, 0, by decide +kernel⟩,
   ⟨{ ready with stewA := { up := true, holds := 4, pend := [⟨2, true, 2100, 3⟩] }, stewB := { up := true, pend := [⟨2, true, 2100, 3⟩] }, now := 100 }, arr 5 28, ⟨2, true, 2100, 3⟩, 0, by decide +kernel⟩,
   ⟨{ ready with stewA := { up := true, holds := 0 }, stewB := { up := true }, now := 100 }, arr 5 28, { snd := 3, rcv := 5, group := 0, path := false, cause := 0, lanes := 0x80, tick := 0 }, 0, by decide +kernel⟩,
   ⟨{ ready with stewA := { up := true, holds := 0 }, stewB := { up := true }, now := 100 }, arr 5 28, { snd := 3, rcv := 5, group := 0, path := false, cause := 4, lanes := 0x80, tick := 0 }, 0, by decide +kernel⟩,
   ⟨{ ready with stewA := { up := true, holds := 1, leaseE := [(0, 1000)], reports := [⟨1, 2, 0, false, 0, 1, 90⟩, ⟨2, 1, 0, false, 0, 1, 90⟩] }, stewB := { up := true }, now := 100 }, arr 5 28, { snd := 3, rcv := 5, group := 0, path := false, cause := 0, lanes := 1, tick := 0 }, 0, false, by decide +kernel⟩,
   ⟨ready.modEp 5 (fun e => { e with genSeen := [(2, 3)], waits := 15 }), arr 28 5, 6, 0, 3, 2, by decide +kernel⟩,
   ⟨ready.modEp 5 (fun e => { e with genSeen := [(2, 4)], waits := 15 }), arr 28 5, 6, 0, 3, 2, by decide +kernel⟩,
   ⟨ready, 5, 7, -301, 1000, by decide +kernel⟩,
   ⟨ready.modEp 5 (fun e => { e with probeFail := 0x80, probeClean := [(7, 99)] }), 5, 7, -300, 1000, by decide +kernel⟩,
   ⟨ready.modEp 5 (fun e => { e with probeFail := 0x80, probeClean := [(7, 98)] }), 5, 7, -300, 1000, by decide +kernel⟩,
   ⟨ready, 5, cwRecordOf 1 [] ^^^ 1, by decide +kernel⟩,
   ⟨ready.modEp 5 (fun e => { e with cwRx := some 0 }), 5, cwRecordOf 1 [⟨1, 3, 0, 77⟩], ⟨1, 3, 0, 77⟩, by decide +kernel⟩,
   ⟨ready, 5, cwRecordOf 1 [⟨7, 3, 0, 0x1100004D⟩], ⟨7, 3, 0, 0x1100004D⟩, by decide +kernel⟩,
   ⟨ready.modEp 5 (fun e => { e with cwRx := some 1 }), 5, cwRecordOf 1 [], 1, by decide +kernel⟩,
   ⟨ready, 5, by decide +kernel⟩⟩

/-- Every hypothesis of DieLinksAndSites is met somewhere, clause by clause. -/
theorem witness_DieLinksAndSites :
    (∃ (s : State) (l : VLane) (g : VLane) (n : Nat) (w : Nat), (s.on = true) ∧ (s.pw.rails = true) ∧ (l.wf = true) ∧ (s.bt.eyeCounts = []) ∧
      (l.isRegion = false) ∧ (g = { l with lane := l.first }) ∧ (150 ≤ s.eyeRange l n)) ∧
    (∃ (s : State) (l : VLane) (g : VLane) (n : Nat) (w : Nat), (s.on = true) ∧ (s.pw.rails = true) ∧ (l.wf = true) ∧ (s.bt.eyeCounts = []) ∧
      (l.isRegion = false ∨ (s.region l.stack ⟨l.bundle % 100, by omega⟩).mhz ≠ 0) ∧ (g = { l with lane := l.first }) ∧ (100 ≤ s.eyeRange l n) ∧
      (s.eyeRange l n < 150) ∧ (s.bt.eyeWarned.contains (g, false) = false)) ∧
    (∃ (s : State) (l : VLane) (g : VLane) (n : Nat) (w : Nat), (s.on = true) ∧ (s.pw.rails = true) ∧ (l.wf = true) ∧ (s.bt.eyeCounts = []) ∧
      (l.isRegion = false ∨ (s.region l.stack ⟨l.bundle % 100, by omega⟩).mhz ≠ 0) ∧ (g = { l with lane := l.first }) ∧ (100 ≤ s.eyeRange l n) ∧
      (s.eyeRange l n < 150) ∧ (s.bt.eyeWarned.contains (g, false) = true)) ∧
    (∃ (s : State) (l : VLane) (g : VLane) (n : Nat) (w : Nat), (s.on = true) ∧ (s.pw.rails = true) ∧ (l.wf = true) ∧ (s.bt.eyeCounts = []) ∧ (l.isRegion = true) ∧
      ((s.region l.stack ⟨l.bundle % 100, by omega⟩).mhz ≠ 0) ∧ (g = { l with lane := l.first }) ∧ (s.eyeRange l n < 100) ∧ (s.bt.eyeLow = [])) ∧
    (∃ (s : State) (l : VLane) (g : VLane) (n : Nat) (a : Nat) (w : Nat), (s.on = true) ∧ (s.pw.rails = true) ∧ (l.wf = true) ∧ (s.bt.eyeCounts = []) ∧
      (l.isRegion = true) ∧ ((s.region l.stack ⟨l.bundle % 100, by omega⟩).mhz ≠ 0) ∧ (g = { l with lane := l.first }) ∧ (s.eyeRange l n < 100) ∧
      (s.bt.eyeLow = [(g, a)]) ∧ (a + 1000000 ≤ s.now) ∧ (50 ≤ (s.region l.stack ⟨l.bundle % 100, by omega⟩).maxMhz)) ∧
    (∃ (s : State) (l : VLane) (g : VLane) (n : Nat) (a : Nat) (w : Nat), (s.on = true) ∧ (s.pw.rails = true) ∧ (l.wf = true) ∧ (s.bt.eyeCounts = []) ∧
      (l.isRegion = false) ∧ (g = { l with lane := l.first }) ∧ (s.eyeRange l n < 100) ∧ (s.bt.eyeWarned.contains (g, false) = true) ∧
      (s.bt.eyeWarned.contains (g, true) = false)) ∧
    (∃ (s : State) (l : VLane) (n : Nat) (w : Nat) (e : Nat), (s.on = true) ∧ (s.pw.rails = true) ∧ (l.wf = true) ∧ (l.isRegion = false) ∧ (150 ≤ s.eyeRange l n) ∧
      (s.bt.eyeCounts = [])) ∧
    (∃ (s : State) (l : VLane) (n : Nat) (w : Nat) (e : Nat) (a : Nat) (w0 : Nat) (e0 : Nat), (s.on = true) ∧ (s.pw.rails = true) ∧ (l.wf = true) ∧
      (l.isRegion = false) ∧ (150 ≤ s.eyeRange l n) ∧ (s.bt.eyeCounts = [(l, a, w0, e0)]) ∧ (a + 1000000000 ≤ s.now) ∧ (w0 + w < (e0 + e) * 1000000)) ∧
    (∃ (s : State) (u : Fin 76) (bs : List Byte), (s.on = true) ∧ ((s.ucieMod u.val).up = true) ∧ (bs.length = 256) ∧
      (field bs 0xFC 4 = (crc32c (bs.take 0xFC)).toNat) ∧ (field bs 0 2 = (s.ucieMod u.val).count)) ∧
    (∃ (s : State) (u : Fin 76) (bs : List Byte), (s.on = true) ∧ ((s.ucieMod u.val).up = true) ∧
      (bs.length ≠ 256 ∨ field bs 0xFC 4 ≠ (crc32c (bs.take 0xFC)).toNat)) ∧
    (∃ (s : State) (u : Fin 76) (bs : List Byte), (s.on = true) ∧ ((s.ucieMod u.val).up = true) ∧ (bs.length = 256) ∧
      (field bs 0xFC 4 = (crc32c (bs.take 0xFC)).toNat) ∧ (field bs 0 2 ≠ (s.ucieMod u.val).count)) ∧
    (∃ (s : State) (k : Fin 8) (h : TileId), (s.on = true) ∧ (s.pw.rails = true) ∧ (h.val = k.val / 2) ∧ ((s.ep (hubEp h)).isolated = true)) ∧
    (∃ (s : State) (h : TileId), (s.on = true) ∧ (s.pw.rails = true) ∧ ((s.site h).on = true) ∧ ((s.site h).isolated = false)) ∧
    (∃ (s : State) (h : TileId) (d : Int), (s.on = true) ∧ ((s.site h).on = true) ∧ ((s.site h).isolated = false) ∧ (d < (s.site h).limit)) ∧
    (∃ (s : State) (h : TileId) (d : Int), (s.on = true) ∧ ((s.site h).on = true) ∧ ((s.site h).isolated = false) ∧ ((s.site h).limit ≤ d)) ∧
    (∃ (s : State) (h : TileId), (s.on = true) ∧ ((s.site h).on = true) ∧ ((s.site h).isolated = false) ∧ ((s.site h).lastReport + 100000000 ≤ s.now)) ∧
    (∃ (s : State) (h : TileId), (s.now < (s.site h).lastReport + 100000000)) ∧
    (∃ (s : State) (h : TileId) (vc : BitVec 2) (op : POp) (a : BitVec 48) (pl : Payload) (n : Nat), (s.on = true) ∧ ((s.site h).on = true) ∧
      ((s.site h).isolated = false) ∧ ((s.ep (hubEp h)).isolated = false) ∧ (s.siteOwner h = none)) ∧
    (∃ (s : State) (h : TileId) (vc : BitVec 2) (op : POp) (a : BitVec 48) (pl : Payload) (n : Nat) (p : PartId), (s.on = true) ∧ ((s.site h).on = true) ∧
      ((s.site h).isolated = false) ∧ ((s.ep (hubEp h)).isolated = false) ∧ (s.siteOwner h = some p) ∧ (vc ≠ 2)) ∧
    (∃ (s : State) (h : TileId) (vc : BitVec 2) (op : POp) (a : BitVec 48) (pl : Payload) (n : Nat) (p : PartId), (s.on = true) ∧ ((s.site h).on = true) ∧
      ((s.site h).isolated = false) ∧ ((s.ep (hubEp h)).isolated = false) ∧ (s.siteOwner h = some p) ∧ (vc = 2) ∧ (op = .load) ∧ (s.ops = [])) :=
  ⟨⟨ready, ⟨3, 120, 7⟩, ⟨3, 120, 0⟩, 6, 50, by decide +kernel⟩,
   ⟨ready, ⟨3, 120, 300⟩, ⟨3, 120, 256⟩, 4, 50, by decide +kernel⟩,
   ⟨{ ready with bt := { ready.bt with eyeWarned := [(⟨3, 120, 256⟩, false)] } }, ⟨3, 120, 300⟩, ⟨3, 120, 256⟩, 4, 50, by decide +kernel⟩,
   ⟨ready, ⟨3, 12, 1025⟩, ⟨3, 12, 1024⟩, 7, 50, by decide +kernel⟩,
   ⟨{ ready with now := 1000000, bt := { ready.bt with eyeLow := [(⟨3, 12, 1024⟩, 0)] } }, ⟨3, 12, 1025⟩, ⟨3, 12, 1024⟩, 7, 0, 50, by decide +kernel⟩,
   ⟨{ ready with bt := { ready.bt with eyeWarned := [(⟨3, 120, 256⟩, false)] } }, ⟨3, 120, 300⟩, ⟨3, 120, 256⟩, 3, 0, 50, by decide +kernel⟩,
   ⟨ready, ⟨3, 120, 7⟩, 6, 50, 1, by decide +kernel⟩,
   ⟨{ ready with now := 1000000000, bt := { ready.bt with eyeCounts := [(⟨3, 120, 7⟩, 0, 2000000, 2)] } }, ⟨3, 120, 7⟩, 6, 50, 1, 0, 2000000, 2, by decide +kernel⟩,
   ⟨ready.modUcie 3 (fun m => { m with up := true, count := 5, skipping := true, credits := [(1, 9)] }), 3, flit [5, 0, 0, 0x44, 0x99], by decide +kernel⟩,
   ⟨ready.modUcie 3 (fun m => { m with up := true, count := 65535 }), 3, List.replicate 256 0, by decide +kernel⟩,
   ⟨ready.modUcie 3 (fun m => { m with up := true, count := 4 }), 3, flit [5, 0, 0, 0x44, 0x99], by decide +kernel⟩,
   ⟨(ready.modEp 29 fun e => { e with isolated := true }).modDie 3 (fun d => { d with trained := 3 }), 3, 1, by decide +kernel⟩,
   ⟨ready.modSite 2 (fun k => { k with on := true }), 2, by decide +kernel⟩,
   ⟨ready.modSite 2 (fun k => { k with on := true, limit := 90 }), 2, 89, by decide +kernel⟩,
   ⟨ready.modSite 2 (fun k => { k with on := true, limit := 90 }), 2, 90, by decide +kernel⟩,
   ⟨{ ready with now := 100000000 }.modSite 2 (fun k => { k with on := true }), 2, by decide +kernel⟩,
   ⟨ready, 2, by decide +kernel⟩,
   ⟨ready.modSite 2 (fun k => { k with on := true }), 2, 2, .load, 0, .none, 7, by decide +kernel⟩,
   ⟨(host.modSite 2 (fun k => { k with on := true })).modPart 1 (fun b => { b with shape := 0xF200000001 }), 2, 1, .load, 0, .none, 7, 1, by decide +kernel⟩,
   ⟨(host.modSite 2 (fun k => { k with on := true })).modPart 1 (fun b => { b with shape := 0xF200000001 }), 2, 2, .load, 0, .none, 7, 1, by decide +kernel⟩⟩

/-- Every hypothesis of SpdmResponder is met somewhere, clause by clause. -/
theorem witness_SpdmResponder :
    (∃ (s : State) (r : SpdmReq), (s.spdmUp r = true) ∧ (s.pyhDown = true)) ∧
    (∃ (s : State) (r : SpdmReq), (s.spdmUp r = true) ∧ (s.pyhDown = false) ∧ (r.busy = true)) ∧
    (∃ (s : State) (r : SpdmReq), (s.spdmUp r = true) ∧ (s.pyhDown = false) ∧ (r.busy = false) ∧ (r.ses = none) ∧ ((s.spdmOf r.x).state < 3)) ∧
    (∃ (s : State) (r : SpdmReq), (s.spdmUp r = false)) ∧
    (∃ (s : State) (r : SpdmReq), (s.spdmReady r 0) ∧ (r.ses = none)) ∧
    (∃ (s : State) (r : SpdmReq) (v : BitVec 8), (s.spdmReady r 1) ∧ (0x13 ≤ v.toNat)) ∧
    (∃ (s : State) (r : SpdmReq) (v : BitVec 8), (s.spdmReady r 1) ∧ (v.toNat < 0x13)) ∧
    (∃ (s : State) (r : SpdmReq), (s.spdmReady r 2)) ∧
    (∃ (s : State) (r : SpdmReq), (s.spdmReady r 3)) ∧
    (∃ (s : State) (r : SpdmReq) (n : BitVec 8) (o : BitVec 16) (l : BitVec 16) (bs : List Byte), (s.spdmReady r 3) ∧ (n.toNat ≤ 1) ∧
      (o.toNat ≤ (s.chain n.toNat).length) ∧ (bs = ((s.chain n.toNat).drop o.toNat).take l.toNat)) ∧
    (∃ (s : State) (r : SpdmReq) (n : BitVec 8) (o : BitVec 16) (l : BitVec 16), (s.spdmReady r 3) ∧ (1 < n.toNat)) ∧
    (∃ (s : State) (r : SpdmReq) (nc : List Byte) (m : List Byte), (s.spdmReady r 3) ∧ (s.pyh.attKey ≠ 0) ∧ (m = digest48 (Config.sha384 (s.chain 0)) ++ nc)) ∧
    (∃ (s : State) (r : SpdmReq) (n : BitVec 8) (nc : List Byte), (s.spdmReady r 3) ∧ (n ≠ 0)) ∧
    (∃ (s : State) (r : SpdmReq) (op : BitVec 8) (v : List Byte) (nc : List Byte), (s.spdmReady r 3) ∧ (op ≠ 0) ∧ (op ≠ 0xFF) ∧
      (s.measurement r.x op.toNat = some v)) ∧
    (∃ (s : State) (r : SpdmReq) (nc : List Byte), (s.spdmReady r 3)) ∧
    (∃ (s : State) (r : SpdmReq) (op : BitVec 8) (v : List Byte) (nc : List Byte) (k : Bool), (s.spdmReady r 3) ∧ (op ≠ 0) ∧ (op ≠ 0xFF) ∧
      (s.measurement r.x op.toNat = none)) ∧
    (∃ (s : State) (r : SpdmReq) (i : BitVec 16), (s.spdmReady r 3) ∧ (r.ses = none) ∧ ((s.spdmOf r.x).sessions.length < 2) ∧ (s.pyh.attKey ≠ 0)) ∧
    (∃ (s : State) (r : SpdmReq) (i : BitVec 16), (s.spdmReady r 3) ∧ (r.ses = none) ∧ (2 ≤ (s.spdmOf r.x).sessions.length)) ∧
    (∃ (s : State) (r : SpdmReq) (i : BitVec 32) (c : Option PeerCert) (y : Session), (s.spdmReady r 3) ∧ (r.ses = some i) ∧ ((s.spdmOf r.x).sessions = [y]) ∧
      (y.finished = false)) ∧
    (∃ (s : State) (r : SpdmReq) (i : BitVec 32) (c : Option PeerCert) (y : Session), (s.spdmReady r 3) ∧ (r.ses = some i) ∧ ((s.spdmOf r.x).sessions = [y]) ∧
      (y.finished = false)) ∧
    (∃ (s : State) (r : SpdmReq) (y : Session), (s.spdmReady r 3) ∧ (s.sessionOf r = some y)) ∧
    (∃ (s : State) (r : SpdmReq), (s.spdmReady r 3) ∧ (s.sessionOf r = none)) ∧
    (∃ (s : State) (r : SpdmReq) (y : Session) (op : BitVec 8), (s.spdmReady r 3) ∧ (s.sessionOf r = some y) ∧ ((s.spdmOf r.x).sessions = [y]) ∧
      (op = 1 ∨ op = 2 ∨ op = 3)) ∧
    (∃ (s : State) (r : SpdmReq) (y : Session), (s.spdmReady r 3) ∧ (s.sessionOf r = some y) ∧ ((s.spdmOf r.x).sessions = [y])) :=
  ⟨⟨{ up with pyh := { up.pyh with up := true, eid := 9, restarting := true, i3cAddr := some 8, attKey := 1, side := { state := 3, sessions := [] } } }, ⟨.side, ⟨9, false⟩, false, none⟩, by decide +kernel⟩,
   ⟨{ up with pyh := { up.pyh with up := true, eid := 9, i3cAddr := some 8, attKey := 1, side := { state := 3, sessions := [] } } }, ⟨.side, ⟨9, false⟩, true, none⟩, by decide +kernel⟩,
   ⟨{ up with pyh := { up.pyh with up := true, eid := 9, i3cAddr := some 8, attKey := 1, side := { state := 2, sessions := [] } } }, ⟨.side, ⟨9, false⟩, false, none⟩, by decide +kernel⟩,
   ⟨ready, ⟨.side, ⟨9, false⟩, false, none⟩, by decide +kernel⟩,
   ⟨{ up with pyh := { up.pyh with up := true, eid := 9, i3cAddr := some 8, attKey := 1, side := { state := 3, sessions := [⟨5, true, none, false, 0⟩] } } }, ⟨.side, ⟨9, false⟩, false, none⟩, by decide +kernel⟩,
   ⟨{ up with pyh := { up.pyh with up := true, eid := 9, i3cAddr := some 8, attKey := 1, side := { state := 1, sessions := [] } } }, ⟨.side, ⟨9, false⟩, false, none⟩, 0x13, by decide +kernel⟩,
   ⟨{ up with pyh := { up.pyh with up := true, eid := 9, i3cAddr := some 8, attKey := 1, side := { state := 1, sessions := [] } } }, ⟨.side, ⟨9, false⟩, false, none⟩, 0x12, by decide +kernel⟩,
   ⟨{ up with pyh := { up.pyh with up := true, eid := 9, i3cAddr := some 8, attKey := 1, side := { state := 2, sessions := [] } } }, ⟨.side, ⟨9, false⟩, false, none⟩, by decide +kernel⟩,
   ⟨{ up with pyh := { up.pyh with up := true, eid := 9, i3cAddr := some 8, attKey := 1, side := { state := 3, sessions := [] } } }, ⟨.side, ⟨9, false⟩, false, none⟩, by decide +kernel⟩,
   ⟨{ up with pyh := { up.pyh with up := true, eid := 9, i3cAddr := some 8, attKey := 1, side := { state := 3, sessions := [] } } }, ⟨.side, ⟨9, false⟩, false, none⟩, 1, 0, 0, _, by decide, by decide, Nat.zero_le _, rfl⟩,
   ⟨{ up with pyh := { up.pyh with up := true, eid := 9, i3cAddr := some 8, attKey := 1, side := { state := 3, sessions := [] } } }, ⟨.side, ⟨9, false⟩, false, none⟩, 2, 0, 0, by decide +kernel⟩,
   ⟨{ up with pyh := { up.pyh with up := true, eid := 9, i3cAddr := some 8, attKey := 1, side := { state := 3, sessions := [] } } }, ⟨.side, ⟨9, false⟩, false, none⟩, [], _, by decide, by decide, rfl⟩,
   ⟨{ up with pyh := { up.pyh with up := true, eid := 9, i3cAddr := some 8, attKey := 1, side := { state := 3, sessions := [] } } }, ⟨.side, ⟨9, false⟩, false, none⟩, 1, [], by decide +kernel⟩,
   ⟨{ up with pyh := { up.pyh with up := true, eid := 9, i3cAddr := some 8, attKey := 1, side := { state := 3, sessions := [] } } }, ⟨.side, ⟨9, false⟩, false, none⟩, 3, _, [], by decide, by decide, by decide, rfl⟩,
   ⟨{ up with pyh := { up.pyh with up := true, eid := 9, i3cAddr := some 8, attKey := 1, side := { state := 3, sessions := [] } } }, ⟨.side, ⟨9, false⟩, false, none⟩, [], by decide +kernel⟩,
   ⟨{ up with pyh := { up.pyh with up := true, eid := 9, i3cAddr := some 8, attKey := 1, side := { state := 3, sessions := [] } } }, ⟨.side, ⟨9, false⟩, false, none⟩, 7, [], [], true, by decide +kernel⟩,
   ⟨{ up with pyh := { up.pyh with up := true, eid := 9, i3cAddr := some 8, attKey := 1, side := { state := 3, sessions := [] } } }, ⟨.side, ⟨9, false⟩, false, none⟩, 77, by decide +kernel⟩,
   ⟨{ up with pyh := { up.pyh with up := true, eid := 9, i3cAddr := some 8, attKey := 1, side := { state := 3, sessions := [⟨5, true, none, false, 0⟩, ⟨6, true, none, false, 0⟩] } } }, ⟨.side, ⟨9, false⟩, false, none⟩, 77, by decide +kernel⟩,
   ⟨{ up with pyh := { up.pyh with up := true, eid := 9, i3cAddr := some 8, attKey := 1, side := { state := 3, sessions := [⟨5, false, none, false, 0⟩] } } }, ⟨.side, ⟨9, false⟩, false, some 5⟩, 5, none, ⟨5, false, none, false, 0⟩, by decide +kernel⟩,
   ⟨{ up with pyh := { up.pyh with up := true, eid := 9, i3cAddr := some 8, attKey := 1, side := { state := 3, sessions := [⟨5, false, none, false, 0⟩] } } }, ⟨.side, ⟨9, false⟩, false, some 5⟩, 5, none, ⟨5, false, none, false, 0⟩, by decide +kernel⟩,
   ⟨{ up with pyh := { up.pyh with up := true, eid := 9, i3cAddr := some 8, attKey := 1, side := { state := 3, sessions := [⟨5, true, none, false, 0⟩] } } }, ⟨.side, ⟨9, false⟩, false, some 5⟩, ⟨5, true, none, false, 0⟩, by decide +kernel⟩,
   ⟨{ up with pyh := { up.pyh with up := true, eid := 9, i3cAddr := some 8, attKey := 1, side := { state := 3, sessions := [] } } }, ⟨.side, ⟨9, false⟩, false, none⟩, by decide +kernel⟩,
   ⟨{ up with pyh := { up.pyh with up := true, eid := 9, i3cAddr := some 8, attKey := 1, side := { state := 3, sessions := [⟨5, true, none, false, 0⟩] } } }, ⟨.side, ⟨9, false⟩, false, some 5⟩, ⟨5, true, none, false, 0⟩, 2, by decide +kernel⟩,
   ⟨{ up with pyh := { up.pyh with up := true, eid := 9, i3cAddr := some 8, attKey := 1, side := { state := 3, sessions := [⟨5, true, none, true, 0⟩] }, tempDebug := true } }, ⟨.side, ⟨9, false⟩, false, some 5⟩, ⟨5, true, none, true, 0⟩, by decide +kernel⟩⟩

/-- Every hypothesis of BindsAndSeals is met somewhere, clause by clause. -/
theorem witness_BindsAndSeals :
    (∃ (s : State) (r : SpdmReq) (q : BitVec 8) (a : BitVec 64) (l : BitVec 64) (f : BitVec 32) (e : List Byte) (p : PartId) (u : PortId), (s.spdmReady r 0) ∧
      (p.val = q.toNat) ∧ ((s.part p).block = .committed) ∧ ((s.part p).servPort = u) ∧ (s.doePort r = some u) ∧ (s.loaderDown = false)) ∧
    (∃ (s : State) (r : SpdmReq) (q : BitVec 8) (a : BitVec 64) (l : BitVec 64) (f : BitVec 32) (e : List Byte) (p : PartId) (u : PortId), (s.spdmReady r 0) ∧
      (p.val = q.toNat) ∧ ((s.part p).block = .committed) ∧ ((s.part p).servPort = u) ∧ (s.doePort r = some u) ∧ (s.loaderDown = true)) ∧
    (∃ (s : State) (r : SpdmReq) (q : BitVec 8) (a : BitVec 64) (l : BitVec 64) (f : BitVec 32) (e : List Byte), (s.spdmReady r 0) ∧ (s.doePort r = none)) ∧
    (∃ (s : State) (r : SpdmReq) (n : BitVec 16) (u : PortId) (x : Bind), (s.spdmReady r 0) ∧ (s.doePort r = some u) ∧
      ((((allParts.filter fun p => ((s.part p).block = .committed || (s.part p).block = .tearing) && (s.part p).servPort = u).flatMap fun p => (s.part p).binds).find? fun y => y.no = n.toNat) = some x)) ∧
    (∃ (s : State) (r : SpdmReq) (n : BitVec 16) (u : PortId), (s.spdmReady r 0) ∧ (s.doePort r = some u) ∧
      ((((allParts.filter fun p => ((s.part p).block = .committed || (s.part p).block = .tearing) && (s.part p).servPort = u).flatMap fun p => (s.part p).binds).find? fun y => y.no = n.toNat) = none)) ∧
    (∃ (s : State) (p : PartId) (x : Bind) (l : List (List Byte × List Byte)) (st : Nat), (s.on = true) ∧ ((s.part p).binds = [x]) ∧ (x.ended = false) ∧
      (x.key ≠ []) ∧ ((s.bindPages p x l 0).2.1 = some st)) ∧
    (∃ (s : State) (p : PartId) (x : Bind) (l : List (List Byte × List Byte)), (s.on = true) ∧ ((s.part p).binds = [x]) ∧ (x.ended = false) ∧ (x.key ≠ []) ∧
      ((s.bindPages p x l 0).2.1 = none)) ∧
    (∃ (s : State) (p : PartId) (x : Sealing), (s.on = true) ∧ ((s.part p).sealing = [x]) ∧ (x.hashed = false) ∧
      ((x.pages.any fun q => eLost (s.mapEntry q.1)) = false) ∧ (s.ops = []) ∧ (∀ e, (s.ep e).stalled = [])) ∧
    (∃ (s : State) (p : PartId) (x : Sealing), (s.on = true) ∧ ((s.part p).sealing = [x]) ∧ (x.hashed = false) ∧
      ((x.pages.any fun q => eLost (s.mapEntry q.1)) = true) ∧ (s.ops = []) ∧ (∀ e, (s.ep e).stalled = [])) ∧
    (∃ (s : State) (p : PartId) (x : Sealing), (s.on = true) ∧ (s.pyhDown = false) ∧ (s.pyh.attKey ≠ 0) ∧ ((s.part p).sealing = [x]) ∧ (x.hashed = true) ∧
      ((s.part p).periods = []) ∧ ((s.part p).seals.length < 64)) ∧
    (∃ (s : State) (p : PartId) (x : Sealing) (n : Period) (bs : List Byte), (s.on = true) ∧ (s.pyhDown = false) ∧ (s.pyh.attKey ≠ 0) ∧
      ((s.part p).sealing = [x]) ∧ (x.hashed = true) ∧ ((s.part p).periods = [n]) ∧ (n.no = x.period) ∧ (n.decided = 0) ∧ (bs = s.sealBytes p x)) ∧
    (∃ (s : State) (p : PartId) (x : Sealing), (s.pyhDown = true ∨ s.pyh.attKey = 0)) :=
  ⟨⟨{ host.modPort 2 (fun q => { q with doe := { state := 3, sessions := [⟨5, true, none, false, 0⟩] } }) with pyh := { host.pyh with up := true } }, ⟨.doe 2, ⟨0, false⟩, false, some 5⟩, 1, 0, 0, 0, [], 1, 2, by decide +kernel⟩,
   ⟨{ host.modPort 2 (fun q => { q with doe := { state := 3, sessions := [⟨5, true, none, false, 0⟩] } }) with pyh := { host.pyh with up := true }, pm := { host.pm with rebuilding := true } }, ⟨.doe 2, ⟨0, false⟩, false, some 5⟩, 1, 0, 0, 0, [], 1, 2, by decide +kernel⟩,
   ⟨{ up with pyh := { up.pyh with up := true, eid := 9, i3cAddr := some 8, attKey := 1, side := { state := 3, sessions := [] } } }, ⟨.side, ⟨9, false⟩, false, none⟩, 1, 0, 0, 0, [], by decide +kernel⟩,
   ⟨{ (host.modPart 1 fun b => { b with binds := [{ no := 4, status := 1, first := 5, pages := 1, done := 0, id := [], digest := [], permitted := [], key := [], ended := false }] }).modPort 2 (fun q => { q with doe := { state := 3, sessions := [⟨5, true, none, false, 0⟩] } }) with pyh := { host.pyh with up := true } }, ⟨.doe 2, ⟨0, false⟩, false, some 5⟩, 4, 2, { no := 4, status := 1, first := 5, pages := 1, done := 0, id := [], digest := [], permitted := [], key := [], ended := false }, by decide +kernel⟩,
   ⟨{ host.modPort 2 (fun q => { q with doe := { state := 3, sessions := [⟨5, true, none, false, 0⟩] } }) with pyh := { host.pyh with up := true } }, ⟨.doe 2, ⟨0, false⟩, false, some 5⟩, 4, 2, by decide +kernel⟩,
   ⟨host.modPart 1 (fun b => { b with binds := [{ no := 4, status := 1, first := 5, pages := 1, done := 0, id := [], digest := [], permitted := [], key := [1], ended := false }] }), 1, { no := 4, status := 1, first := 5, pages := 1, done := 0, id := [], digest := [], permitted := [], key := [1], ended := false }, [], 4, by decide +kernel⟩,
   ⟨host.modPart 1 (fun b => { b with binds := [{ no := 4, status := 1, first := 5, pages := 0, done := 0, id := [], digest := [], permitted := [], key := [1], ended := false }] }), 1, { no := 4, status := 1, first := 5, pages := 0, done := 0, id := [], digest := [], permitted := [], key := [1], ended := false }, [], by decide +kernel⟩,
   ⟨host.modPart 1 (fun b => { b with sealing := [{ period := 1, pages := [], digest := [], outs := 0, hashed := false, root := [], compl := { d := ⟨0, 0, 0, 2⟩, last := true, status := 0, detail := 0 } }] }), 1, { period := 1, pages := [], digest := [], outs := 0, hashed := false, root := [], compl := { d := ⟨0, 0, 0, 2⟩, last := true, status := 0, detail := 0 } }, by decide +kernel⟩,
   ⟨{ host.modPart 1 (fun b => { b with sealing := [{ period := 1, pages := [(5, 0)], digest := [], outs := 0, hashed := false, root := [], compl := { d := ⟨0, 0, 0, 2⟩, last := true, status := 0, detail := 0 } }] }) with pm := { rep0 := [(5, 0x0980000000000000)], rep1 := [(5, 0x0980000000000000)], rep2 := [(5, 0x0980000000000000)], rep3 := [(5, 0x0980000000000000)] } }, 1, { period := 1, pages := [(5, 0)], digest := [], outs := 0, hashed := false, root := [], compl := { d := ⟨0, 0, 0, 2⟩, last := true, status := 0, detail := 0 } }, by decide +kernel⟩,
   ⟨{ host.modPart 1 (fun b => { b with sealing := [{ period := 1, pages := [], digest := [], outs := 0, hashed := true, root := [], compl := { d := ⟨0, 0, 0, 2⟩, last := true, status := 0, detail := 0 } }] }) with pyh := { host.pyh with up := true, attKey := 1 } }, 1, { period := 1, pages := [], digest := [], outs := 0, hashed := true, root := [], compl := { d := ⟨0, 0, 0, 2⟩, last := true, status := 0, detail := 0 } }, by decide +kernel⟩,
   ⟨{ host.modPart 1 (fun b => { b with sealing := [{ period := 1, pages := [], digest := [], outs := 0, hashed := true, root := [], compl := { d := ⟨0, 0, 0, 2⟩, last := true, status := 0, detail := 0 } }], periods := [{ perA with stage := .ended, decided := 0 }] }) with pyh := { host.pyh with up := true, attKey := 1 } }, 1, { period := 1, pages := [], digest := [], outs := 0, hashed := true, root := [], compl := { d := ⟨0, 0, 0, 2⟩, last := true, status := 0, detail := 0 } }, { perA with stage := .ended, decided := 0 }, _, by decide, by decide, by decide, by decide, by decide, by decide, by decide, by decide, rfl⟩,
   ⟨host, 1, { period := 1, pages := [], digest := [], outs := 0, hashed := true, root := [], compl := { d := ⟨0, 0, 0, 2⟩, last := true, status := 0, detail := 0 } }, by decide +kernel⟩⟩

/-- Every hypothesis of SidebandMessages is met somewhere, clause by clause. -/
theorem witness_SidebandMessages :
    (∃ (s : State) (m : Mctp) (e : BitVec 8), (s.takesControl m = true) ∧ (e ≠ 0) ∧ (e ≠ 0xFF)) ∧
    (∃ (s : State) (m : Mctp) (e : BitVec 8), (s.takesControl m = true) ∧ (e = 0 ∨ e = 0xFF)) ∧
    (∃ (s : State) (m : Mctp), (s.takesControl m = true)) ∧
    (∃ (s : State) (m : Mctp), (s.takesControl m = false)) ∧
    (∃ (s : State) (m : Mctp), (s.takesControl m = true)) ∧
    (∃ (s : State) (m : Mctp) (y : BitVec 8), (s.takesControl m = true) ∧ (y = 0xFF ∨ y = 0 ∨ y = 1 ∨ y = 5 ∨ y = 6 ∨ y = 0x7E)) ∧
    (∃ (s : State) (m : Mctp) (y : BitVec 8), (s.takesControl m = true) ∧ (y ≠ 0xFF) ∧ (y ≠ 0) ∧ (y ≠ 1) ∧ (y ≠ 5) ∧ (y ≠ 6) ∧ (y ≠ 0x7E)) ∧
    (∃ (s : State) (m : Mctp), (s.takesControl m = true)) ∧
    (∃ (s : State) (m : Mctp) (k : BitVec 8), (s.takesControl m = true)) ∧
    (∃ (s : State) (m : Mctp) (e : BitVec 8), (s.takes m = true) ∧ (s.pyhDown = false) ∧ (e ≠ 0) ∧ (e ≠ 0xFF)) ∧
    (∃ (s : State) (m : Mctp) (e : BitVec 8), (s.takes m = true) ∧ (s.pyhDown = false) ∧ (e = 0 ∨ e = 0xFF)) ∧
    (∃ (s : State) (m : Mctp), (s.takes m = true) ∧ (s.pyhDown = false)) ∧
    (∃ (s : State) (m : Mctp), (s.takes m = true) ∧ (s.pyhDown = true)) ∧
    (∃ (s : State) (m : Mctp), (s.takes m = false)) ∧
    (∃ (s : State) (m : Mctp) (y : BitVec 8), (s.takes m = true) ∧ (s.pyhDown = false)) ∧
    (∃ (s : State) (m : Mctp), (s.takes m = true) ∧ (s.pyhDown = false)) ∧
    (∃ (s : State) (m : Mctp) (y : BitVec 8), (s.takes m = true) ∧ (s.pyhDown = false) ∧ (y = 0 ∨ y = 2 ∨ y = 5)) ∧
    (∃ (s : State) (m : Mctp), (s.takes m = true) ∧ (s.pyhDown = false)) ∧
    (∃ (s : State) (m : Mctp) (h : BitVec 32) (i : Nat), (s.takes m = true) ∧ (s.pyhDown = false) ∧ (1 ≤ h.toNat) ∧ (sensorIds[h.toNat - 1]? = some i)) ∧
    (∃ (s : State) (m : Mctp) (h : BitVec 32), (s.takes m = true) ∧ (s.pyhDown = false) ∧ (98 < h.toNat)) ∧
    (∃ (s : State) (m : Mctp) (i : BitVec 16) (v : Int), (s.takes m = true) ∧ (s.pyhDown = false) ∧ (s.sensorValue i.toNat = some (some v))) ∧
    (∃ (s : State) (m : Mctp) (i : BitVec 16), (s.takes m = true) ∧ (s.pyhDown = false) ∧ (s.sensorValue i.toNat = some none)) ∧
    (∃ (s : State) (m : Mctp) (i : BitVec 16), (s.takes m = true) ∧ (s.pyhDown = false) ∧ (102 < i.toNat)) ∧
    (∃ (s : State) (m : Mctp) (i : BitVec 16) (v : Nat), (s.takes m = true) ∧ (s.pyhDown = false) ∧ (s.stateSensor i.toNat = some v)) ∧
    (∃ (s : State) (m : Mctp) (i : BitVec 16), (s.takes m = true) ∧ (s.pyhDown = false) ∧ (i ≠ 100) ∧ (i ≠ 101)) :=
  ⟨⟨{ up with pyh := { up.pyh with up := true, eid := 9, i3cAddr := some 8 } }, ⟨9, false⟩, 12, by decide +kernel⟩,
   ⟨{ up with pyh := { up.pyh with up := true, eid := 9, i3cAddr := some 8 } }, ⟨9, false⟩, 0, by decide +kernel⟩,
   ⟨{ up with pyh := { up.pyh with up := true, eid := 9, i3cAddr := some 8 } }, ⟨0, false⟩, by decide +kernel⟩,
   ⟨{ up with pyh := { up.pyh with up := true, eid := 9, i3cAddr := some 8 } }, ⟨9, true⟩, by decide +kernel⟩,
   ⟨{ up with pyh := { up.pyh with up := true, eid := 9, i3cAddr := some 8 } }, ⟨9, false⟩, by decide +kernel⟩,
   ⟨{ up with pyh := { up.pyh with up := true, eid := 9, i3cAddr := some 8 } }, ⟨9, false⟩, 5, by decide +kernel⟩,
   ⟨{ up with pyh := { up.pyh with up := true, eid := 9, i3cAddr := some 8 } }, ⟨9, false⟩, 2, by decide +kernel⟩,
   ⟨{ up with pyh := { up.pyh with up := true, eid := 9, i3cAddr := some 8 } }, ⟨9, false⟩, by decide +kernel⟩,
   ⟨{ up with pyh := { up.pyh with up := true, eid := 9, i3cAddr := some 8 } }, ⟨9, false⟩, 0, by decide +kernel⟩,
   ⟨{ up with pyh := { up.pyh with up := true, eid := 9, i3cAddr := some 8 } }, ⟨9, false⟩, 12, by decide +kernel⟩,
   ⟨{ up with pyh := { up.pyh with up := true, eid := 9, i3cAddr := some 8 } }, ⟨9, false⟩, 0xFF, by decide +kernel⟩,
   ⟨{ up with pyh := { up.pyh with up := true, eid := 9, i3cAddr := some 8 } }, ⟨9, false⟩, by decide +kernel⟩,
   ⟨{ up with pyh := { up.pyh with up := true, eid := 9, i3cAddr := some 8, restarting := true } }, ⟨9, false⟩, by decide +kernel⟩,
   ⟨{ up with pyh := { up.pyh with up := true, eid := 9, i3cAddr := some 8 } }, ⟨0, false⟩, by decide +kernel⟩,
   ⟨{ up with pyh := { up.pyh with up := true, eid := 9, i3cAddr := some 8 } }, ⟨9, false⟩, 2, by decide +kernel⟩,
   ⟨{ up with pyh := { up.pyh with up := true, eid := 9, i3cAddr := some 8 } }, ⟨9, false⟩, by decide +kernel⟩,
   ⟨{ up with pyh := { up.pyh with up := true, eid := 9, i3cAddr := some 8 } }, ⟨9, false⟩, 2, by decide +kernel⟩,
   ⟨{ up with pyh := { up.pyh with up := true, eid := 9, i3cAddr := some 8 } }, ⟨9, false⟩, by decide +kernel⟩,
   ⟨{ up with pyh := { up.pyh with up := true, eid := 9, i3cAddr := some 8 } }, ⟨9, false⟩, 98, 102, by decide +kernel⟩,
   ⟨{ up with pyh := { up.pyh with up := true, eid := 9, i3cAddr := some 8 } }, ⟨9, false⟩, 99, by decide +kernel⟩,
   ⟨{ up with pyh := { up.pyh with up := true, eid := 9, i3cAddr := some 8 } }, ⟨9, false⟩, 95, 95, by decide +kernel⟩,
   ⟨{ up with pyh := { up.pyh with up := true, eid := 9, i3cAddr := some 8 } , stks := [(2, { oos := true })] }, ⟨9, false⟩, 39, by decide +kernel⟩,
   ⟨{ up with pyh := { up.pyh with up := true, eid := 9, i3cAddr := some 8 } }, ⟨9, false⟩, 103, by decide +kernel⟩,
   ⟨{ up with pyh := { up.pyh with up := true, eid := 9, i3cAddr := some 8 } }, ⟨9, false⟩, 100, 0, by decide +kernel⟩,
   ⟨{ up with pyh := { up.pyh with up := true, eid := 9, i3cAddr := some 8 } }, ⟨9, false⟩, 99, by decide +kernel⟩⟩

/-- Every hypothesis of PyhietAndFirmware is met somewhere, clause by clause. -/
theorem witness_PyhietAndFirmware :
    (∃ (s : State), (s.on = true) ∧ (s.pyhDown = false)) ∧
    (∃ (s : State), (s.on = true) ∧ (s.pyhDown = false) ∧ (s.pyh.lastWork + 1000000 ≤ s.now)) ∧
    (∃ (s : State), (s.pyhDown = true ∨ s.now < s.pyh.lastWork + 1000000)) ∧
    (∃ (s : State), (s.on = true) ∧ (s.pyh.up = true) ∧ (s.pyh.wdDisarmed = false) ∧ (s.pyh.restarting = false) ∧ (s.pyh.kickAt + 100000000 ≤ s.now) ∧
      (s.pw.phase ≠ .starting) ∧ (s.pyh.update = none) ∧ (s.pyh.liveTick = none)) ∧
    (∃ (s : State), (s.pyh.wdDisarmed = true) ∧ (s.now < s.pyh.restartTick + 250000000)) ∧
    (∃ (s : State), (s.on = true) ∧ (s.pyh.restarting = true) ∧ (s.pyh.activating = false)) ∧
    (∃ (s : State), (s.on = true) ∧ (s.pyh.restarting = true) ∧ (s.pyh.activating = true)) ∧
    (∃ (s : State) (v : Vendor), (s.takes v.m = true) ∧ (s.pyhDown = false) ∧ (v.clean = true) ∧ (s.pyh.restartDue = none)) ∧
    (∃ (s : State) (v : Vendor), (s.takes v.m = true) ∧ (s.pyhDown = false) ∧ (v.clean = true) ∧ (s.pyh.restartDue ≠ none)) ∧
    (∃ (s : State) (k : Nat), (s.on = true) ∧ (s.pyh.restartDue = some k) ∧ (k ≤ s.now) ∧ (s.pw.phase ≠ .starting) ∧ (s.pyh.update = none)) ∧
    (∃ (s : State) (k : Nat), (s.pyh.restartDue = some k) ∧ (s.now < k)) ∧
    (∃ (s : State) (m : Mctp) (sp : BitVec 32) (n : Nat) (w : Nat), (s.takes m = true) ∧ (s.pyhDown = false) ∧ (s.pyh.update = none) ∧ (32 ≤ w) ∧ (n ≤ 196608) ∧
      (s.pyh.floor ≤ sp.toNat) ∧ (0 < n)) ∧
    (∃ (s : State) (m : Mctp) (sp : BitVec 32) (n : Nat) (w : Nat), (s.takes m = true) ∧ (s.pyhDown = false) ∧ (s.pyh.update = none) ∧ (32 ≤ w) ∧ (n ≤ 196608) ∧
      (sp.toNat < s.pyh.floor)) ∧
    (∃ (s : State) (m : Mctp) (sp : BitVec 32) (n : Nat) (w : Nat) (c : BitVec 16) (i : BitVec 16), (s.takes m = true) ∧ (s.pyhDown = false) ∧
      (s.pyh.update = none) ∧ (32 ≤ w) ∧ (c ≠ 0x000A ∨ i ≠ 1 ∨ 196608 < n)) ∧
    (∃ (s : State) (m : Mctp) (sp : BitVec 32) (n : Nat) (w : Nat) (c : BitVec 16) (i : BitVec 16), (s.takes m = true) ∧ (s.pyhDown = false) ∧
      (s.pyh.update ≠ none)) ∧
    (∃ (s : State) (m : Mctp) (d : List Byte) (u : Update), (s.takes m = true) ∧ (s.pyhDown = false) ∧ (s.pyh.update = some u) ∧ (u.requested ≠ none) ∧
      (d.length = u.next (s.pyh.slot s.pyh.updSlot).length)) ∧
    (∃ (s : State) (m : Mctp) (d : List Byte) (u : Update), (s.pyh.update = some u) ∧ (d.length ≠ u.next (s.pyh.slot s.pyh.updSlot).length)) ∧
    (∃ (s : State) (u : Update) (k : Nat), (s.on = true) ∧ (s.pyhDown = false) ∧ (s.pyh.update = some u) ∧ (u.requested = some k) ∧ (k + 60000000000 ≤ s.now)) ∧
    (∃ (s : State) (u : Update) (k : Nat), (s.pyh.update = some u) ∧ (u.requested = some k) ∧ (s.now < k + 60000000000)) ∧
    (∃ (s : State) (u : Update), (s.on = true) ∧ (s.pyhDown = false) ∧ (s.pyh.update = some u) ∧ (u.checked = false) ∧ (u.requested = none) ∧
      (u.length ≤ (s.pyh.slot s.pyh.updSlot).length)) ∧
    (∃ (s : State) (m : Mctp) (u : Update), (s.takes m = true) ∧ (s.pyhDown = false) ∧ (s.pyh.update = some u) ∧ (u.checked = true)) ∧
    (∃ (s : State) (m : Mctp) (u : Update), (s.takes m = true) ∧ (s.pyhDown = false) ∧ (s.pyh.update = some u) ∧ (u.checked = true) ∧ (s.pw.phase ≠ .starting)) ∧
    (∃ (s : State) (m : Mctp) (k : Bool), (s.takes m = true) ∧ (s.pyhDown = false) ∧ (s.pyh.update = none)) ∧
    (∃ (s : State) (m : Mctp) (k : Bool) (u : Update), (s.takes m = true) ∧ (s.pyhDown = false) ∧ (s.pyh.update = some u) ∧ (u.checked = false)) ∧
    (∃ (s : State) (m : Mctp), (s.takes m = true) ∧ (s.pyhDown = false) ∧ (s.pyh.update ≠ none)) ∧
    (∃ (s : State) (m : Mctp), (s.takes m = true) ∧ (s.pyhDown = false) ∧ (s.pyh.update = none)) ∧
    (∃ (s : State) (m : Mctp), (s.takes m = true) ∧ (s.pyhDown = false) ∧ (s.pyh.update ≠ none)) ∧
    (∃ (s : State) (m : Mctp), (s.takes m = true) ∧ (s.pyhDown = false) ∧ (s.pyh.update = none)) :=
  ⟨⟨{ up with pyh := { up.pyh with up := true, eid := 9, i3cAddr := some 8 } }, by decide +kernel⟩,
   ⟨{ up with now := 1000000, pyh := { up.pyh with up := true, awake := true } }, by decide +kernel⟩,
   ⟨{ up with now := 999999, pyh := { up.pyh with up := true, awake := true } }, by decide +kernel⟩,
   ⟨{ up with now := 100000000, pyh := { up.pyh with up := true, eid := 9, i3cAddr := some 8, side := { state := 3, sessions := [⟨5, true, none, false, 0⟩] } } }, by decide +kernel⟩,
   ⟨{ up with pyh := { up.pyh with up := true, eid := 9, i3cAddr := some 8, wdDisarmed := true } }, by decide +kernel⟩,
   ⟨{ up with pyh := { up.pyh with up := true, eid := 9, i3cAddr := some 8, restarting := true, wdFault := true } }, by decide +kernel⟩,
   ⟨{ up with pyh := { up.pyh with up := true, eid := 9, i3cAddr := some 8, restarting := true, activating := true, wdDisarmed := true } }, by decide +kernel⟩,
   ⟨{ up with pyh := { up.pyh with up := true, eid := 9, i3cAddr := some 8 } }, ⟨⟨9, false⟩, 3, 0, 0, 0⟩, by decide +kernel⟩,
   ⟨{ up with pyh := { up.pyh with up := true, eid := 9, i3cAddr := some 8, restartDue := some 7 } }, ⟨⟨9, false⟩, 3, 0, 0, 0⟩, by decide +kernel⟩,
   ⟨{ up with pyh := { up.pyh with up := true, eid := 9, i3cAddr := some 8, restartDue := some 0 } }, 0, by decide +kernel⟩,
   ⟨{ up with pyh := { up.pyh with up := true, eid := 9, i3cAddr := some 8, restartDue := some 7 } }, 7, by decide +kernel⟩,
   ⟨{ up with pyh := { up.pyh with up := true, eid := 9, i3cAddr := some 8, slotB := [1] } }, ⟨9, false⟩, 3, 2000, 4096, by decide +kernel⟩,
   ⟨{ up with pyh := { up.pyh with up := true, eid := 9, i3cAddr := some 8, floor := 4 } }, ⟨9, false⟩, 3, 2000, 4096, by decide +kernel⟩,
   ⟨{ up with pyh := { up.pyh with up := true, eid := 9, i3cAddr := some 8 } }, ⟨9, false⟩, 3, 196609, 4096, 10, 1, by decide +kernel⟩,
   ⟨{ up with pyh := { up.pyh with up := true, eid := 9, i3cAddr := some 8, update := some ⟨9, 4, none, false⟩ } }, ⟨9, false⟩, 3, 20, 4096, 10, 1, by decide +kernel⟩,
   ⟨{ up with pyh := { up.pyh with up := true, eid := 9, i3cAddr := some 8, update := some ⟨9, 4, some 0, false⟩, slotB := [1] } }, ⟨9, false⟩, [1, 2, 3, 4], ⟨9, 4, some 0, false⟩, by decide +kernel⟩,
   ⟨{ up with pyh := { up.pyh with up := true, eid := 9, i3cAddr := some 8, update := some ⟨9, 4, some 0, false⟩ } }, ⟨9, false⟩, [1], ⟨9, 4, some 0, false⟩, by decide +kernel⟩,
   ⟨{ up with now := 60000000000, pyh := { up.pyh with up := true, eid := 9, i3cAddr := some 8, update := some ⟨9, 4, some 0, false⟩, slotB := [1] } }, ⟨9, 4, some 0, false⟩, 0, by decide +kernel⟩,
   ⟨{ up with pyh := { up.pyh with up := true, eid := 9, i3cAddr := some 8, update := some ⟨9, 4, some 0, false⟩ } }, ⟨9, 4, some 0, false⟩, 0, by decide +kernel⟩,
   ⟨{ up with pyh := { up.pyh with up := true, eid := 9, i3cAddr := some 8, update := some ⟨1, 4, none, false⟩, slotB := [1] } }, ⟨1, 4, none, false⟩, by decide +kernel⟩,
   ⟨{ up with pyh := { up.pyh with up := true, eid := 9, i3cAddr := some 8, slotB := [1], update := some ⟨1, 4, none, true⟩ } }, ⟨9, false⟩, ⟨1, 4, none, true⟩, by decide +kernel⟩,
   ⟨{ up with pyh := { up.pyh with up := true, eid := 9, i3cAddr := some 8, slotB := [1], update := some ⟨1, 4, none, true⟩ } }, ⟨9, false⟩, ⟨1, 4, none, true⟩, by decide +kernel⟩,
   ⟨{ up with pyh := { up.pyh with up := true, eid := 9, i3cAddr := some 8 } }, ⟨9, false⟩, true, by decide +kernel⟩,
   ⟨{ up with pyh := { up.pyh with up := true, eid := 9, i3cAddr := some 8, update := some ⟨1, 4, none, false⟩ } }, ⟨9, false⟩, true, ⟨1, 4, none, false⟩, by decide +kernel⟩,
   ⟨{ up with pyh := { up.pyh with up := true, eid := 9, i3cAddr := some 8, slotB := [1], update := some ⟨1, 4, none, true⟩ } }, ⟨9, false⟩, by decide +kernel⟩,
   ⟨{ up with pyh := { up.pyh with up := true, eid := 9, i3cAddr := some 8 } }, ⟨9, false⟩, by decide +kernel⟩,
   ⟨{ up with pyh := { up.pyh with up := true, eid := 9, i3cAddr := some 8, slotB := [1], update := some ⟨1, 4, none, true⟩ } }, ⟨9, false⟩, by decide +kernel⟩,
   ⟨{ up with pyh := { up.pyh with up := true, eid := 9, i3cAddr := some 8 } }, ⟨9, false⟩, by decide +kernel⟩⟩

/-- Every hypothesis of VendorCommands is met somewhere, clause by clause. -/
theorem witness_VendorCommands :
    (∃ (s : State) (v : Vendor), (s.takes v.m = true) ∧ (s.pyhDown = false) ∧ (v.clean = true)) ∧
    (∃ (s : State) (v : Vendor), (s.takes v.m = true) ∧ (s.pyhDown = false) ∧ (v.clean = false)) ∧
    (∃ (s : State) (v : Vendor), (s.takes v.m = true) ∧ (s.pyhDown = true)) ∧
    (∃ (s : State) (v : Vendor) (d : BitVec 8) (n : BitVec 8) (k : DieId) (w : Bool), (s.takes v.m = true) ∧ (s.pyhDown = false) ∧ (v.clean = true) ∧
      (resetTarget d.toNat n.toNat = some (some (k, w))) ∧ (s.pw.phase = .ready) ∧ (s.dieOut k = false) ∧ (s.pyh.resetDue = none)) ∧
    (∃ (s : State) (v : Vendor) (d : BitVec 8) (n : BitVec 8), (s.takes v.m = true) ∧ (s.pyhDown = false) ∧ (v.clean = true) ∧ (resetTarget d.toNat n.toNat = none)) ∧
    (∃ (s : State) (v : Vendor) (d : BitVec 8) (n : BitVec 8) (k : DieId) (w : Bool), (s.takes v.m = true) ∧ (s.pyhDown = false) ∧ (v.clean = true) ∧
      (resetTarget d.toNat n.toNat = some (some (k, w))) ∧ (s.pw.phase ≠ .ready)) ∧
    (∃ (s : State) (v : Vendor), (s.takes v.m = true) ∧ (s.pyhDown = false) ∧ (v.clean = true) ∧
      (s.pw.phase = .starting ∨ s.pw.phase = .ready ∨ s.pw.phase = .startFailed ∨ s.pw.phase = .held) ∧ (s.pyh.resetDue = none)) ∧
    (∃ (s : State) (d : Nat) (n : Nat) (k : Nat), (s.pyh.resetDue = some (d, n, k)) ∧ (s.now < k)) ∧
    (∃ (s : State) (n : Nat) (k : Nat) (x : StackId), (s.on = true) ∧ (s.pyh.resetDue = some (3, n, k)) ∧ (k ≤ s.now) ∧ (n = x.val) ∧ (s.pw.phase = .ready) ∧
      (s.bt.isolated = []) ∧ (s.partOfStack x = none)) ∧
    (∃ (s : State) (k : Nat), (s.on = true) ∧ (s.pyh.resetDue = some (0, 0, k)) ∧ (k ≤ s.now) ∧ (s.pw.resetN = true) ∧ (s.pw.phase = .ready)) ∧
    (∃ (s : State) (v : Vendor) (q : BitVec 8) (u : PortId), (s.takes v.m = true) ∧ (s.pyhDown = false) ∧ (v.clean = true) ∧ (q.toNat = u.val) ∧
      ((s.port u).oos = false) ∧ (s.dieOut (.hg u) = false) ∧ (∀ p, (s.part p).block ≠ .configuring)) ∧
    (∃ (s : State) (v : Vendor) (q : BitVec 8) (u : PortId) (p : PartId), (s.takes v.m = true) ∧ (s.pyhDown = false) ∧ (v.clean = true) ∧ (q.toNat = u.val) ∧
      ((s.port u).oos = false) ∧ (s.dieOut (.hg u) = false) ∧ ((s.part p).block = .configuring) ∧ (s.pagesOf p = []) ∧
      (∀ x, x ≠ p → (s.part x).block ≠ .configuring)) ∧
    (∃ (s : State) (v : Vendor) (q : BitVec 8), (s.takes v.m = true) ∧ (s.pyhDown = false) ∧ (v.clean = true) ∧ (3 < q.toNat)) ∧
    (∃ (s : State) (v : Vendor) (q : BitVec 8) (u : PortId), (s.takes v.m = true) ∧ (s.pyhDown = false) ∧ (v.clean = true) ∧ (q.toNat = u.val) ∧
      ((s.port u).oos = true)) ∧
    (∃ (s : State) (v : Vendor), (s.takes v.m = true) ∧ (s.pyhDown = false) ∧ (v.clean = true) ∧ (s.pw.limited = true)) ∧
    (∃ (s : State) (v : Vendor), (s.takes v.m = true) ∧ (s.pyhDown = false) ∧ (v.clean = true) ∧ (s.pw.limited = false)) ∧
    (∃ (s : State) (v : Vendor) (g : BitVec 8) (w : BitVec 8), (s.takes v.m = true) ∧ (s.pyhDown = false) ∧ (v.clean = true) ∧ (3 < g.toNat ∨ 1 < w.toNat)) ∧
    (∃ (s : State) (v : Vendor) (g : BitVec 8) (w : BitVec 8) (k : GroupNo), (s.takes v.m = true) ∧ (s.pyhDown = false) ∧ (v.clean = true) ∧ (g.toNat = k.val) ∧
      (w.toNat ≤ 1) ∧ (s.pw.phase = .ready) ∧ (s.leaseOk 0 k = false) ∧ (s.leaseOk 1 k = false)) ∧
    (∃ (s : State) (v : Vendor) (g : BitVec 8) (w : BitVec 8) (k : GroupNo) (h : Fin 2), (s.takes v.m = true) ∧ (s.pyhDown = false) ∧ (v.clean = true) ∧
      (g.toNat = k.val) ∧ (w.toNat ≤ 1) ∧ (s.pw.phase = .ready) ∧ (s.leaseOk h k = true) ∧ (s.leaseOk (otherStew h) k = false) ∧
      ((s.stew h).pend.any (fun x => x.group = k) = false) ∧
      (hasBit (s.stew h).paths k.val = (w = 1) ∨ (s.stew h).badCount k (!decide (w = 1)) < (s.stew h).badCount k (w = 1))) ∧
    (∃ (s : State) (v : Vendor) (g : BitVec 8) (w : BitVec 8) (k : GroupNo) (h : Fin 2) (x : Switch), (s.takes v.m = true) ∧ (s.pyhDown = false) ∧
      (v.clean = true) ∧ (g.toNat = k.val) ∧ (w.toNat ≤ 1) ∧ (s.pw.phase = .ready) ∧ (s.leaseOk h k = true) ∧ (s.leaseOk (otherStew h) k = false) ∧
      ((s.stew h).pend.find? (fun x => x.group = k) = some x) ∧ (x.path ≠ (w = 1))) ∧
    (∃ (s : State) (v : Vendor) (g : BitVec 8) (w : BitVec 8) (k : GroupNo) (h : Fin 2) (x : Switch), (s.takes v.m = true) ∧ (s.pyhDown = false) ∧
      (v.clean = true) ∧ (g.toNat = k.val) ∧ (w.toNat ≤ 1) ∧ (s.pw.phase = .ready) ∧ (s.leaseOk h k = true) ∧ (s.leaseOk (otherStew h) k = false) ∧
      ((s.stew h).pend.find? (fun x => x.group = k) = some x) ∧ (x.path = (w = 1)) ∧ (hasBit (s.stew h).echoed k.val = true)) ∧
    (∃ (s : State) (v : Vendor) (g : BitVec 8) (w : BitVec 8) (k : GroupNo) (h : Fin 2), (s.takes v.m = true) ∧ (s.pyhDown = false) ∧ (v.clean = true) ∧
      (g.toNat = k.val) ∧ (w.toNat ≤ 1) ∧ (s.pw.phase = .ready) ∧ (s.leaseOk h k = true) ∧ (s.leaseOk (otherStew h) k = false) ∧
      ((s.stew h).pend.any (fun x => x.group = k) = false) ∧ (hasBit (s.stew h).paths k.val ≠ (w = 1)) ∧ (s.standbyReady k = true) ∧
      ((s.stew h).badCount k (w = 1) ≤ (s.stew h).badCount k (!decide (w = 1))) ∧ ((s.stew h).partnerLost.isSome = true) ∧ ((s.stew h).asked = []) ∧
      (((s.stew h).pend.all fun x => !hasBit (s.stew h).echoed x.group.val) = true)) ∧
    (∃ (s : State) (v : Vendor) (g : BitVec 8) (w : BitVec 8) (k : GroupNo) (h : Fin 2), (s.takes v.m = true) ∧ (s.pyhDown = false) ∧ (v.clean = true) ∧
      (g.toNat = k.val) ∧ (w.toNat ≤ 1) ∧ (s.pw.phase = .ready) ∧ (s.leaseOk h k = true) ∧ (s.leaseOk (otherStew h) k = false) ∧
      ((s.stew h).pend.any (fun x => x.group = k) = false) ∧ (hasBit (s.stew h).paths k.val ≠ (w = 1)) ∧ (s.standbyReady k = true) ∧
      ((s.stew h).badCount k (w = 1) ≤ (s.stew h).badCount k (!decide (w = 1))) ∧ ((s.stew h).partnerLost = none)) ∧
    (∃ (s : State) (v : Vendor) (k : BitVec 8) (p : BitVec 8) (o : BitVec 32) (l : BitVec 16), (s.takes v.m = true) ∧ (s.pyhDown = false) ∧ (v.clean = true) ∧
      (k.toNat = 3) ∧ (0 < l.toNat) ∧ (l.toNat ≤ 1024)) ∧
    (∃ (s : State) (v : Vendor) (k : BitVec 8) (p : BitVec 8) (o : BitVec 32) (l : BitVec 16), (s.takes v.m = true) ∧ (s.pyhDown = false) ∧ (v.clean = true) ∧
      (3 < k.toNat ∨ l = 0 ∨ 1024 < l.toNat)) ∧
    (∃ (s : State) (v : Vendor) (f : BitVec 16) (n : BitVec 8), (s.takes v.m = true) ∧ (s.pyhDown = false) ∧ (v.clean = true) ∧ (n ≠ 0) ∧ (n.toNat ≤ 32)) ∧
    (∃ (s : State) (v : Vendor) (f : BitVec 16) (n : BitVec 8), (s.takes v.m = true) ∧ (s.pyhDown = false) ∧ (v.clean = true) ∧ (n ≠ 0) ∧ (n.toNat ≤ 32)) ∧
    (∃ (s : State) (v : Vendor) (f : BitVec 16) (n : BitVec 8) (k : BitVec 8), (s.takes v.m = true) ∧ (s.pyhDown = false) ∧ (v.clean = true) ∧
      (n = 0 ∨ 32 < n.toNat ∨ 1 < k.toNat)) ∧
    (∃ (s : State) (v : Vendor) (j : Option (BitVec 32)) (x : Session), (s.takes v.m = true) ∧ (s.pyhDown = false) ∧ (v.clean = true) ∧ (s.maintainer j = some x) ∧
      (s.evr.clearQ = none) ∧ (s.on = true)) ∧
    (∃ (s : State) (v : Vendor) (j : Option (BitVec 32)), (s.takes v.m = true) ∧ (s.pyhDown = false) ∧ (v.clean = true) ∧ (s.maintainer j = none)) ∧
    (∃ (s : State) (v : Vendor) (j : Option (BitVec 32)) (x : Session), (s.takes v.m = true) ∧ (s.pyhDown = false) ∧ (v.clean = true) ∧ (s.maintainer j = some x) ∧
      (s.evr.clearQ ≠ none)) ∧
    (∃ (s : State) (v : Vendor) (j : Option (BitVec 32)) (x : Session), (s.takes v.m = true) ∧ (s.pyhDown = false) ∧ (v.clean = true) ∧ (s.on = true) ∧
      (s.maintainer j = some x)) ∧
    (∃ (s : State) (v : Vendor) (j : Option (BitVec 32)) (x : Session), (s.takes v.m = true) ∧ (s.pyhDown = false) ∧ (v.clean = true) ∧ (s.on = true) ∧
      (s.maintainer j = some x)) ∧
    (∃ (s : State) (v : Vendor) (j : Option (BitVec 32)) (f : BitVec 8), (s.takes v.m = true) ∧ (s.pyhDown = false) ∧ (v.clean = true) ∧ (s.maintainer j = none) ∧
      (f.toNat ≤ 1)) :=
  ⟨⟨{ up with pyh := { up.pyh with up := true, eid := 9, i3cAddr := some 8 } }, ⟨⟨9, false⟩, 3, 0, 0, 0⟩, by decide +kernel⟩,
   ⟨{ up with pyh := { up.pyh with up := true, eid := 9, i3cAddr := some 8 } }, ⟨⟨9, false⟩, 3, 1, 0, 0⟩, by decide +kernel⟩,
   ⟨{ up with pyh := { up.pyh with up := true, eid := 9, i3cAddr := some 8, restarting := true } }, ⟨⟨9, false⟩, 3, 0, 0, 0⟩, by decide +kernel⟩,
   ⟨{ ready with pyh := { ready.pyh with up := true, eid := 9, i3cAddr := some 8 }  }, ⟨⟨9, false⟩, 3, 0, 0, 0⟩, 3, 5, .cd 5, false, by decide +kernel⟩,
   ⟨{ ready with pyh := { ready.pyh with up := true, eid := 9, i3cAddr := some 8 }  }, ⟨⟨9, false⟩, 3, 0, 0, 0⟩, 1, 4, by decide +kernel⟩,
   ⟨{ up with pyh := { up.pyh with up := true, eid := 9, i3cAddr := some 8 } }, ⟨⟨9, false⟩, 3, 0, 0, 0⟩, 3, 5, .cd 5, false, by decide +kernel⟩,
   ⟨{ ready with pyh := { ready.pyh with up := true, eid := 9, i3cAddr := some 8 }  }, ⟨⟨9, false⟩, 3, 0, 0, 0⟩, by decide +kernel⟩,
   ⟨{ ready with pyh := { ready.pyh with up := true, eid := 9, i3cAddr := some 8, resetDue := some (3, 5, 7) }  }, 3, 5, 7, by decide +kernel⟩,
   ⟨{ ready with pyh := { ready.pyh with up := true, eid := 9, i3cAddr := some 8, resetDue := some (3, 5, 0) }  }, 5, 0, 5, by decide +kernel⟩,
   ⟨{ ready with pyh := { ready.pyh with up := true, eid := 9, i3cAddr := some 8, resetDue := some (0, 0, 0) }  }, 0, by decide +kernel⟩,
   ⟨{ ready with pyh := { ready.pyh with up := true, eid := 9, i3cAddr := some 8 }  }, ⟨⟨9, false⟩, 3, 0, 0, 0⟩, 2, 2, by decide +kernel⟩,
   ⟨{ ready with pyh := { ready.pyh with up := true, eid := 9, i3cAddr := some 8 }  }.modPart 7 (fun b => { b with block := .configuring }), ⟨⟨9, false⟩, 3, 0, 0, 0⟩, 2, 2, 7, by decide +kernel⟩,
   ⟨{ ready with pyh := { ready.pyh with up := true, eid := 9, i3cAddr := some 8 }  }, ⟨⟨9, false⟩, 3, 0, 0, 0⟩, 4, by decide +kernel⟩,
   ⟨{ ready with pyh := { ready.pyh with up := true, eid := 9, i3cAddr := some 8 }  }.modPort 2 (fun q => { q with oos := true }), ⟨⟨9, false⟩, 3, 0, 0, 0⟩, 2, 2, by decide +kernel⟩,
   ⟨{ ready with pyh := { ready.pyh with up := true, eid := 9, i3cAddr := some 8 }  , pw := { ready.pw with limited := true, restarts := [1] } }, ⟨⟨9, false⟩, 3, 0, 0, 0⟩, by decide +kernel⟩,
   ⟨{ ready with pyh := { ready.pyh with up := true, eid := 9, i3cAddr := some 8 }  }, ⟨⟨9, false⟩, 3, 0, 0, 0⟩, by decide +kernel⟩,
   ⟨{ ready with pyh := { ready.pyh with up := true, eid := 9, i3cAddr := some 8 }  }, ⟨⟨9, false⟩, 3, 0, 0, 0⟩, 4, 0, by decide +kernel⟩,
   ⟨{ ready with pyh := { ready.pyh with up := true, eid := 9, i3cAddr := some 8 } }, ⟨⟨9, false⟩, 3, 0, 0, 0⟩, 2, 1, 2, by decide +kernel⟩,
   ⟨{ ready with pyh := { ready.pyh with up := true, eid := 9, i3cAddr := some 8 }, stewA := { up := true, holds := 15, leaseE := [(2, 1000)], rings := [], badB := [⟨1, 2, 16⟩], startB := [⟨1, 2, 16⟩] }, stewB := { up := true } }, ⟨⟨9, false⟩, 3, 0, 0, 0⟩, 2, 1, 2, 0, by decide +kernel⟩,
   ⟨{ ready with pyh := { ready.pyh with up := true, eid := 9, i3cAddr := some 8 }, stewA := { up := true, holds := 15, leaseE := [(2, 1000)], pend := [⟨2, false, 2100, 0⟩] }, stewB := { up := true } }, ⟨⟨9, false⟩, 3, 0, 0, 0⟩, 2, 1, 2, 0, ⟨2, false, 2100, 0⟩, by decide +kernel⟩,
   ⟨{ ready with pyh := { ready.pyh with up := true, eid := 9, i3cAddr := some 8 }, stewA := { up := true, holds := 15, echoed := 4, leaseE := [(2, 1000)], pend := [⟨2, true, 2100, 0⟩] }, stewB := { up := true } }, ⟨⟨9, false⟩, 3, 0, 0, 0⟩, 2, 1, 2, 0, ⟨2, true, 2100, 0⟩, by decide +kernel⟩,
   ⟨{ ready with pyh := { ready.pyh with up := true, eid := 9, i3cAddr := some 8 }, stewA := { up := true, holds := 15, partnerLost := some 0 } }, ⟨⟨9, false⟩, 3, 0, 0, 0⟩, 2, 1, 2, 0, by decide +kernel⟩,
   ⟨{ ready with pyh := { ready.pyh with up := true, eid := 9, i3cAddr := some 8 }, stewA := { up := true, holds := 15, leaseE := [(2, 1000)] }, stewB := { up := true } }, ⟨⟨9, false⟩, 3, 0, 0, 0⟩, 2, 1, 2, 0, by decide +kernel⟩,
   ⟨{ ready with pyh := { ready.pyh with up := true, eid := 9, i3cAddr := some 8 }  }, ⟨⟨9, false⟩, 3, 0, 0, 0⟩, 3, 0, 16, 64, by decide +kernel⟩,
   ⟨{ ready with pyh := { ready.pyh with up := true, eid := 9, i3cAddr := some 8 }  }, ⟨⟨9, false⟩, 3, 0, 0, 0⟩, 3, 0, 16, 0, by decide +kernel⟩,
   ⟨{ ready with pyh := { ready.pyh with up := true, eid := 9, i3cAddr := some 8 }  }, ⟨⟨9, false⟩, 3, 0, 0, 0⟩, 0, 4, by decide +kernel⟩,
   ⟨{ ready with pyh := { ready.pyh with up := true, eid := 9, i3cAddr := some 8 }  }, ⟨⟨9, false⟩, 3, 0, 0, 0⟩, 0, 4, by decide +kernel⟩,
   ⟨{ ready with pyh := { ready.pyh with up := true, eid := 9, i3cAddr := some 8 }  }, ⟨⟨9, false⟩, 3, 0, 0, 0⟩, 0, 33, 0, by decide +kernel⟩,
   ⟨{ ready with pyh := { ready.pyh with up := true, eid := 9, i3cAddr := some 8, side := { state := 3, sessions := [⟨5, true, none, true, 0⟩] }, maintEnable := true }  }, ⟨⟨9, false⟩, 3, 0, 0, 0⟩, some 5, ⟨5, true, none, true, 0⟩, by decide +kernel⟩,
   ⟨{ ready with pyh := { ready.pyh with up := true, eid := 9, i3cAddr := some 8 }  }, ⟨⟨9, false⟩, 3, 0, 0, 0⟩, some 5, by decide +kernel⟩,
   ⟨{ ready with pyh := { ready.pyh with up := true, eid := 9, i3cAddr := some 8, side := { state := 3, sessions := [⟨5, true, none, true, 0⟩] }, maintEnable := true }  , evr := { clearQ := some { tick := 0, seq := 0, code := 1, sev := 1, cls := 0, num := 0, part := none, detail := 0 } } }, ⟨⟨9, false⟩, 3, 0, 0, 0⟩, some 5, ⟨5, true, none, true, 0⟩, by decide +kernel⟩,
   ⟨{ ready with pyh := { ready.pyh with up := true, eid := 9, i3cAddr := some 8, side := { state := 3, sessions := [⟨5, true, none, true, 0⟩] }, maintEnable := true }  }, ⟨⟨9, false⟩, 3, 0, 0, 0⟩, some 5, ⟨5, true, none, true, 0⟩, by decide +kernel⟩,
   ⟨{ ready with pyh := { ready.pyh with up := true, eid := 9, i3cAddr := some 8, side := { state := 3, sessions := [⟨5, true, none, true, 0⟩] }, maintEnable := true }  }, ⟨⟨9, false⟩, 3, 0, 0, 0⟩, some 5, ⟨5, true, none, true, 0⟩, by decide +kernel⟩,
   ⟨{ ready with pyh := { ready.pyh with up := true, eid := 9, i3cAddr := some 8 }  }, ⟨⟨9, false⟩, 3, 0, 0, 0⟩, some 5, 0, by decide +kernel⟩⟩

/-- Every hypothesis of RecorderAndAgeing is met somewhere, clause by clause. -/
theorem witness_RecorderAndAgeing :
    (∃ (s : State), (s.on = true) ∧ (s.evr.flashing = []) ∧ (s.now / 600000000000 ≠ s.evr.lastFlush / 600000000000)) ∧
    (∃ (s : State), (s.evr.flashing ≠ [] ∨ s.now / 600000000000 = s.evr.lastFlush / 600000000000)) ∧
    (∃ (s : State) (w : BitVec 32) (e : RecEntry) (l : List RecEntry), (s.on = true) ∧ (s.evr.fatalQ = e :: l)) ∧
    (∃ (s : State) (w : BitVec 32) (e : RecEntry) (l : List RecEntry), (s.on = true) ∧ (s.evr.fatalQ = []) ∧ (s.evr.flashing = e :: l)) ∧
    (∃ (s : State) (w : BitVec 32) (e : RecEntry), (s.on = true) ∧ (s.evr.fatalQ = []) ∧ (s.evr.flashing = []) ∧ (s.evr.clearQ = some e)) ∧
    (∃ (s : State) (w : BitVec 32) (e : RecEntry) (l : List RecEntry), (s.on = true) ∧ (s.evr.fatalQ = []) ∧ (s.evr.flashing = e :: l)) ∧
    (∃ (s : State), (s.on = true) ∧ (s.evr.suppressed = []) ∧ (s.now / 1000000000 ≠ s.evr.lastSecond)) ∧
    (∃ (s : State), (s.now / 1000000000 = s.evr.lastSecond)) ∧
    (∃ (s : State) (c : Nat) (n : Nat), (s.on = true) ∧ (s.evr.suppressed = [(c, n)]) ∧ (s.now / 1000000000 ≠ s.evr.lastSecond)) ∧
    (∃ (s : State), (s.on = true) ∧ (s.evr.frozen = true) ∧ (s.evr.freezeTick + 1000000000 ≤ s.now) ∧ (s.readNow = false)) ∧
    (∃ (s : State), (s.now < s.evr.freezeTick + 1000000000 ∨ s.evr.frozen = false ∨ s.readNow = true)) ∧
    (∃ (s : State) (l : List (EpId × Int)) (u : List (Fin 76 × Int)), (s.on = true) ∧ (s.pyh.up = true) ∧ (s.pyh.restarting = false) ∧
      (s.now / 3600000000000 ≠ s.age.lastHour)) ∧
    (∃ (s : State) (e : EpId) (v : Int), (s.on = true) ∧ (s.pyh.up = true) ∧ (s.pyh.restarting = false) ∧ (s.now / 3600000000000 ≠ s.age.lastHour) ∧
      (∀ k, (s.die k).trained = 0) ∧ (∀ x, (s.stack x).cmap = 0) ∧ (s.lanes = []) ∧ (s.bt.eyes = [])) ∧
    (∃ (s : State) (l : List (EpId × Int)) (u : List (Fin 76 × Int)),
      (s.on = false ∨ s.pyh.up = false ∨ s.pyh.restarting = true ∨ s.now / 3600000000000 = s.age.lastHour)) :=
  ⟨⟨{ ready with now := 600000000000 }, by decide +kernel⟩,
   ⟨{ ready with evr := { flashing := [rec1] } }, by decide +kernel⟩,
   ⟨{ ready with evr := { fatalQ := [rec1] } }, 0, rec1, [], by decide +kernel⟩,
   ⟨{ ready with evr := { entries := [rec1], flashing := [rec1] } }, 0, rec1, [], by decide +kernel⟩,
   ⟨{ ready with evr := { entries := [rec1], clearQ := some rec1 } }, 0, rec1, by decide +kernel⟩,
   ⟨{ ready with evr := { entries := [rec1], flashing := [rec1] } }, 0, rec1, [], by decide +kernel⟩,
   ⟨{ ready with now := 1000000000 }, by decide +kernel⟩,
   ⟨ready, by decide +kernel⟩,
   ⟨{ ready with now := 1000000000, evr := { suppressed := [(0x1002, 3)] } }, 0x1002, 3, by decide +kernel⟩,
   ⟨{ ready with now := 1000000000, evr := { frozen := true, hold := [rec1] } }, by decide +kernel⟩,
   ⟨ready, by decide +kernel⟩,
   ⟨{ (pyhOn up) with now := 3600000000000 }, [(3, 12000)], [], by decide +kernel⟩,
   ⟨{ (pyhOn up) with now := 3600000000000 }, 3, 12000, by decide +kernel⟩,
   ⟨ready, [(3, 12000)], [(4, 300)], by decide +kernel⟩⟩

/-- Every hypothesis of SetupRegisters is met somewhere, clause by clause. -/
theorem witness_SetupRegisters :
    (∃ (s : State) (t : PortId) (v : BitVec 64), (s.barUp t = true) ∧ (t = s.pw.steward) ∧ (v.getLsbD 0 = true)) ∧
    (∃ (s : State) (t : PortId) (v : BitVec 64), (s.barUp t = true) ∧ (t = s.pw.steward) ∧ (v.getLsbD 0 = false)) ∧
    (∃ (s : State) (t : PortId) (v : BitVec 64), (s.barUp t = true) ∧ (t ≠ s.pw.steward) ∧ ((s.port t).refuseTick = none)) ∧
    (∃ (s : State) (t : PortId) (v : BitVec 64), (s.barUp t = true) ∧ (t = s.pw.steward) ∧ (1 ≤ bits v.toNat 8 0) ∧ (bits v.toNat 8 0 ≤ 256) ∧
      (1 ≤ bits v.toNat 26 16) ∧ (bits v.toNat 26 16 ≤ 1024)) ∧
    (∃ (s : State) (t : PortId) (v : BitVec 64), (s.barUp t = true) ∧ (t = s.pw.steward) ∧ (bits v.toNat 8 0 = 0) ∧ (1 ≤ bits v.toNat 26 16) ∧
      (bits v.toNat 26 16 ≤ 1024) ∧ (s.evr.rate < 512)) ∧
    (∃ (s : State) (t : PortId) (v : BitVec 64), (s.barUp t = true) ∧ (t = s.pw.steward) ∧ (80 ≤ bits v.toNat 6 0) ∧ (bits v.toNat 6 0 ≤ 95) ∧
      (2000 ≤ bits v.toNat 44 32) ∧ (bits v.toNat 44 32 ≤ 7500)) ∧
    (∃ (s : State) (t : PortId) (v : BitVec 64), (s.barUp t = true) ∧ (t = s.pw.steward) ∧ (bits v.toNat 6 0 < 80) ∧ (2000 ≤ bits v.toNat 44 32) ∧
      (bits v.toNat 44 32 ≤ 7500) ∧ (s.th.tThr < 128)) ∧
    (∃ (s : State) (t : PortId) (v : BitVec 64), (s.barUp t = true) ∧ (t = s.pw.steward) ∧ (bits v.toNat 2 0 ≤ 5) ∧ (v.setWidth 3 ≠ s.tm.source)) ∧
    (∃ (s : State) (t : PortId) (v : BitVec 64), (s.barUp t = true) ∧ (t = s.pw.steward) ∧ (5 < bits v.toNat 2 0)) ∧
    (∃ (s : State) (t : PortId) (v : BitVec 64), (s.barUp t = true) ∧ (t = s.pw.steward)) ∧
    (∃ (s : State) (t : PortId) (v : BitVec 64), (s.barUp t = true)) ∧
    (∃ (s : State) (t : PortId) (v : BitVec 64) (off : Nat) (size : Nat) (tb : List Byte), (s.barUp t = true) ∧ (size ≠ 8 ∨ off % 8 ≠ 0)) ∧
    (∃ (s : State) (t : PortId) (v : BitVec 64) (p : PartId) (tb : List Byte), (s.barUp t = true) ∧ (s.commitsNow p = false) ∧ (t = s.pw.steward) ∧
      ((s.part p).block = .free ∨ (s.part p).block = .configuring) ∧ (bits v.toNat 33 32 ≤ 3)) ∧
    (∃ (s : State) (t : PortId) (v : BitVec 64) (p : PartId) (tb : List Byte), (s.barUp t = true) ∧ (s.commitsNow p = false) ∧ (t = s.pw.steward) ∧
      ((s.part p).block = .committed ∨ (s.part p).block = .tearing)) ∧
    (∃ (s : State) (t : PortId) (v : BitVec 64) (p : PartId) (tb : List Byte), (s.barUp t = true) ∧ (s.commitsNow p = false) ∧ (t = s.pw.steward) ∧
      ((s.part p).block = .configuring) ∧ (bits v.toNat 41 32 < 2) ∧ (bits v.toNat 3 0 ≤ 12) ∧ (bits (s.part p).timing.toNat 41 32 < 1024)) ∧
    (∃ (s : State) (t : PortId) (v : BitVec 64) (p : PartId) (tb : List Byte), (s.barUp t = true) ∧ ((s.part p).block = .committed) ∧ (t = (s.part p).servPort)) ∧
    (∃ (s : State) (t : PortId) (v : BitVec 64) (p : PartId) (tb : List Byte), (s.barUp t = true) ∧ (t ≠ s.pw.steward) ∧ ((s.port t).refuseTick = none)) ∧
    (∃ (s : State) (t : PortId) (v : BitVec 64) (off : Nat) (tb : List Byte), (s.barUp t = true) ∧ (off % 8 = 0) ∧ (0x5000 ≤ off) ∧ (off < 0x10000)) ∧
    (∃ (s : State) (t : PortId) (v : BitVec 64) (p : PartId) (tb : List Byte), (s.barUp t = true) ∧ (t = (s.part p).servPort) ∧ ((s.part p).block = .committed)) :=
  ⟨⟨stewUp, 0, 3, by decide +kernel⟩,
   ⟨stewUp, 0, 2, by decide +kernel⟩,
   ⟨host, 2, 1, by decide +kernel⟩,
   ⟨stewUp, 0, 0x00800020, by decide +kernel⟩,
   ⟨stewUp, 0, 0x00800000, by decide +kernel⟩,
   ⟨stewUp, 0, 0x7D000000050, by decide +kernel⟩,
   ⟨stewUp, 0, 0x7D00000004F, by decide +kernel⟩,
   ⟨stewUp, 0, 5, by decide +kernel⟩,
   ⟨{ stewUp with tm := { stewUp.tm with ppsSec := some 4 } }, 0, 6, by decide +kernel⟩,
   ⟨stewUp, 0, 77, by decide +kernel⟩,
   ⟨host, 2, 0xFFFFFF, by decide +kernel⟩,
   ⟨host, 2, 1, 0x20, 4, [], by decide +kernel⟩,
   ⟨stewUp, 0, 0xFFFFFFFFFFFFFFFF, 7, [], by decide +kernel⟩,
   ⟨host, 0, 5, 1, [], by decide +kernel⟩,
   ⟨conf, 0, 0x0000000100000005, 7, [], by decide +kernel⟩,
   ⟨host, 2, 3, 1, [], by decide +kernel⟩,
   ⟨host, 2, 3, 1, [], by decide +kernel⟩,
   ⟨host, 2, 3, 0x5000, [], by decide +kernel⟩,
   ⟨host, 2, 0, 1, [], by decide +kernel⟩⟩

/-- Every hypothesis of StepsAndQueue is met somewhere, clause by clause. -/
theorem witness_StepsAndQueue :
    (∃ (s : State) (c : Instr) (r : List Instr), (s.pending = c :: r)) ∧
    (∃ (s : State), (s.pending = [])) :=
  ⟨⟨{ ready with pending := [.modPwrenOff, .modPwrenOn []] }, .modPwrenOff, [.modPwrenOn []], by decide +kernel⟩,
   ⟨ready, by decide +kernel⟩⟩

/-- Every hypothesis of QueueOrder is met somewhere, clause by clause. -/
theorem witness_QueueOrder :
    (∃ (s : State) (t : State) (c : Instr) (r : List Instr), (s.pending = c :: r) ∧ (step s = .next t)) ∧
    (∃ (s : State) (t : State), (s.pending = []) ∧ (step s = .next t)) :=
  ⟨⟨{ State.reset with pending := [.modPwrenOn []] }, _, .modPwrenOn [], [], rfl, rfl⟩,
   ⟨State.reset, _, rfl, rfl⟩⟩

/-- Every hypothesis of StepKeepsMemories is met somewhere, clause by clause. -/
theorem witness_StepKeepsMemories :
    (∃ (s : State) (t : State), (s.MemOk) ∧ (step s = .next t)) :=
  ⟨{ State.reset with hbm := [(5, 7)], pending := [.modPwrenOn []] }, _, ⟨rfl, rfl⟩, rfl⟩

/-- Every hypothesis of WordsRoundTrip is met somewhere, clause by clause. -/
theorem witness_WordsRoundTrip :
    (∃ (u : Cv) (e : Ecc) (w : BitVec 64) (i : Instr), (instrOfWord u e w = some i)) ∧
    (∃ (i : Instr) (w : BitVec 64), (wordOf i = some w)) :=
  ⟨⟨cv0, {}, 0x0200000000000000, .intAdd cv0 (.reg (fieldsA 0x0200000000000000)), by decide +kernel⟩,
   ⟨.intAdd cv0 (.reg (fieldsA 0x0200000000000000)), 0x0200000000000000, by decide +kernel⟩⟩

/-- Every hypothesis of NumbersOfCores is met somewhere, clause by clause. -/
theorem witness_NumbersOfCores :
    (∃ (s : Nat) (c : Nat) (n : Nat), (s < 16) ∧ (c < 96) ∧ (n < 16)) :=
  ⟨15, 95, 15, by decide +kernel⟩

/-! ### The check of commands: an ill-formed term for each check is refused -/

theorem test_wf_symbols : (Instr.symbolErrorCheck ⟨4, 5, 3⟩ 7 8 [0]).wf = false ∧ (Instr.symbolErrorCheck ⟨4, 5, 3⟩ 8 8 [0]).wf = true := by decide
theorem test_wf_link : (Instr.packetSend 9 9).wf = false ∧ (Instr.packetSend 9 8).wf = true := by decide
theorem test_wf_arrival : (Instr.beacon (arr 6 6) 0).wf = false ∧ (Instr.beacon (arr 6 7) 0).wf = true := by decide
theorem test_wf_store : (Instr.store (arr 6 17) 0 (List.replicate 63 0) {}).wf = false := by decide
theorem test_wf_cxl_line : (Instr.cxlMemWrite 0 1 0 0 []).wf = false := by decide
theorem test_wf_doorbell : (Instr.doorbellWake 0 []).wf = false := by decide
theorem test_wf_descriptors : (Instr.descriptorFetch 0 1 [List.replicate 64 0, [1]]).wf = false ∧
    (Instr.descriptorFetch 0 1 [List.replicate 64 0]).wf = true := by decide
theorem test_wf_conversion : (Instr.conversion cv0 15 (fa 1 2 0)).wf = false ∧ (Instr.conversion cv0 14 (fa 1 2 0)).wf = true := by decide
theorem test_wf_register : (Instr.registerWrite 0 0xFFFFC 8 0 []).wf = false ∧ (Instr.registerWrite 0 0xFFFF8 8 0 []).wf = true := by decide

/-! ### Words of instructions, written out from R248, R249, R255 and the tables of each class -/

/-- A format A word: major, predicate and invert, dest, src1, src2, src3, minor, type, modifiers. -/
def bitsA (major : BitVec 7) (pred : BitVec 4) (d a b c : BitVec 6) (minor : BitVec 9) (typ : BitVec 4) (mods : BitVec 16) : BitVec 64 :=
  major ++ pred ++ d ++ a ++ b ++ c ++ minor ++ typ ++ mods
/-- A format B word: major, predicate and invert, dest, src1, minor, type, rounding, immediate. -/
def bitsB (major : BitVec 7) (pred : BitVec 4) (d a : BitVec 6) (minor : BitVec 9) (typ : BitVec 4) (rnd : BitVec 3) (imm : BitVec 25) : BitVec 64 :=
  major ++ pred ++ d ++ a ++ minor ++ typ ++ rnd ++ imm
/-- A format X word: major, predicate and invert, data, base, index, minor, type, scale, enable, order, offset. -/
def bitsX (major : BitVec 7) (pred : BitVec 4) (d b x : BitVec 6) (minor : BitVec 9) (typ : BitVec 4) (sc : BitVec 2) (en : BitVec 1)
    (ord : BitVec 3) (off : BitVec 16) : BitVec 64 := major ++ pred ++ d ++ b ++ x ++ minor ++ typ ++ sc ++ en ++ ord ++ off

theorem test_word_int : instrOfWord cv0 {} (bitsA 0x01 0b0101 3 1 2 0 0x004 0xC 0x10) =
    some (.mad cv0 ⟨⟨2, true⟩, 3, 1, 2, 0, 0xC, 0x10⟩) := by decide
theorem test_word_int_imm : instrOfWord cv0 {} (bitsB 0x02 0b1110 3 1 0x012 0xC 0 0x1FFFFFF) =
    some (.intCmp cv0 .lt (.imm ⟨⟨7, false⟩, 3, 1, 0xC, 0, 0x1FFFFFF⟩)) := by decide
theorem test_word_uniform : instrOfWord cv0 {} (bitsA 0x06 0b1110 3 1 2 0 0x002 0xC 0) = some (.uMul cv0 ⟨⟨7, false⟩, 3, 1, 2, 0, 0xC, 0⟩) := by decide
theorem test_word_uniform_imm : instrOfWord cv0 {} (bitsB 0x07 0b1110 3 1 0x00E 0xC 0 5) = some (.lshi cv0 ⟨⟨7, false⟩, 3, 1, 0xC, 0, 5⟩) := by decide
theorem test_word_float : instrOfWord cv0 {} (bitsA 0x03 0b1110 3 1 2 4 0x003 0x2 0x5) =
    some (.fma cv0 ⟨⟨7, false⟩, 3, 1, 2, 4, 0x2, 0x5⟩) := by decide
theorem test_word_float_imm : instrOfWord cv0 {} (bitsB 0x04 0b1110 3 0 0x020 0x1 0 0x7F0000) =
    some (.fMov cv0 ⟨⟨7, false⟩, 3, 0, 0x1, 0, 0x7F0000⟩) := by decide
theorem test_word_conversion : instrOfWord cv0 {} (bitsA 0x05 0b1110 3 1 0 0 0x001 0xC 0) =
    some (.conversion cv0 1 ⟨⟨7, false⟩, 3, 1, 0, 0, 0xC, 0⟩) := by decide
theorem test_word_matrix : instrOfWord cv0 {} ((0x08 : BitVec 7) ++ (0b1110 : BitVec 4) ++ (2 : BitVec 6) ++ (1 : BitVec 6) ++ (4 : BitVec 6) ++
    (3 : BitVec 3) ++ (0 : BitVec 9) ++ (0x4 : BitVec 4) ++ (1 : BitVec 3) ++ (2 : BitVec 2) ++ (0 : BitVec 14)) =
    some (.mma cv0 ⟨⟨7, false⟩, 2, 1, 4, 3, 0x4, 1, 2, 0⟩ {}) := by decide
theorem test_word_exact : instrOfWord cv0 {} (bitsA 0x09 0b1110 8 16 24 0 0x001 0xD 0) = some (.xsub cv0 ⟨⟨7, false⟩, 8, 16, 24, 0, 0xD, 0⟩) := by decide
theorem test_word_local : instrOfWord cv0 {} (bitsX 0x10 0b1110 3 1 2 0x001 0x1 2 1 0 0xFFF8) =
    some (.st cv0 ⟨⟨7, false⟩, 3, 1, 2, 0x1, 2, true, 0, 0xFFF8⟩ {}) := by decide
theorem test_word_global : instrOfWord cv0 {} (bitsX 0x11 0b1110 3 1 2 0x000 0x0 3 0 1 8) =
    some (.ldG cv0 ⟨⟨7, false⟩, 3, 1, 2, 0x0, 3, false, 1, 8⟩) := by decide
theorem test_word_atomic : instrOfWord cv0 {} (bitsX 0x12 0b1110 3 1 2 0x007 0xC 2 1 0 0) =
    some (.atomCas cv0 ⟨⟨7, false⟩, 3, 1, 2, 0xC, 2, true, 0, 0⟩) := by decide
theorem test_word_copy : instrOfWord cv0 {} ((0x13 : BitVec 7) ++ (0b1110 : BitVec 4) ++ (5 : BitVec 6) ++ (1 : BitVec 6) ++ (2 : BitVec 6) ++
    (1 : BitVec 9) ++ (0x2000001 : BitVec 26)) = some (.copyMc cv0 ⟨⟨7, false⟩, 5, 1, 2, 0x2000001⟩) := by decide
theorem test_word_waymark : instrOfWord cv0 {} (bitsB 0x14 0b1110 9 1 0x002 0 0 0) = some (.wmWait cv0 ⟨⟨7, false⟩, 9, 1, 0, 0, 0⟩) := by decide
theorem test_word_control : instrOfWord cv0 {} (bitsB 0x18 0b0001 0 0 0x001 0 0 0x1FFFFFE) =
    some (.bra cv0 ⟨⟨0, true⟩, 0, 0, 0, 0, 0x1FFFFFE⟩) := by decide
theorem test_word_sync : instrOfWord cv0 {} (bitsB 0x19 0b1110 0 0 0x000 0 0 3) = some (.barSync cv0 ⟨⟨7, false⟩, 0, 0, 0, 0, 3⟩) := by decide
theorem test_word_identity : instrOfWord cv0 {} (bitsB 0x1A 0b1110 3 0 0x004 0 0 7) = some (.outDone cv0 ⟨⟨7, false⟩, 3, 0, 0, 0, 7⟩) := by decide
theorem test_word_reserved : instrOfWord cv0 {} (bitsA 0x01 0b1110 3 1 2 0 0x007 0xC 0) = none ∧ reservedWord (bitsB 0x15 0 0 0 0 0 0 0) = true := by decide

/-! ### Worked examples of the manual -/

/-- The stochastic rounding of FP32 1 + 2^-9 to BF16 under two draws, the example of R286. -/
theorem test_stochastic : (bf16.result 5 0x2F000000 (fp32.decode 0x3F804000).raw).1 = 0x3F81 ∧
    (bf16.result 5 0x90000000 (fp32.decode 0x3F804000).raw).1 = 0x3F80 := by decide +kernel
/-- Core 23,000 is core 8 of logical cluster 93 of stack 14, the example of R28. -/
theorem test_core_number : (coreStack 23000).val = 14 ∧ (coreCluster 23000).val = 93 ∧ (coreNo 23000).val = 8 := by decide

/-- The state that the worked conversion of the manual starts from: 100.0, -1.3, 0.2 and 7.0 in v1 of lanes 0 to 3, every lane on. -/
def worked : State := ready.modCv cv0 fun c => { c with
  run := .running, stack := [0xFFFFFFFF], started := true, v := [(1, 0x42C80000), (65, 0xBFA66666), (129, 0x3E4CCCCD), (193, 0x40E00000)] }

/-- FP32 into MXFP4 E2M1: the scale byte 0x83 and elements 0111, 1000, 0000, 0001, with NX and UF. -/
theorem test_mx_conversion : (match exec (.conversion cv0 1 (fa 2 1 0 (typ := 9) (src3 := 5) (gd := gAll))) worked with
    | .next t => ([0, 1, 2, 3].map fun l => (t.cv cv0).vGet l 2) = [7, 8, 0, 1] && (t.cv cv0).sGet 5 = 0x83 && (t.cv cv0).flags = 0x18
    | _ => false) = true := by decide +kernel

/-- The worked reduction with W = -20: the four terms sum to 1,153,434 in any order, which rounds to 0x3F8C_CCD0 with no flag. -/
theorem test_exact_sum : let w : BitVec 64 := 0x80000000000AFFEC
    let n x := (toXs w (fp32.decode x)).1
    n 0x4B800000 + n 0x3DCCCCCD + n 0x3F800000 + n 0xCB800000 = 1153434 ∧ (toXs w (fp32.decode 0x3DCCCCCD)).2 = 0x10 ∧
    toFp fp32 0 0 (.fin false 1153434 (-20)) = (0x3F8CCCD0, 0) := by decide +kernel

end Sys2Proof.Tests
end

section
/-!
PROOFS. The global number of a core and its inverse (R28): `coreOf` on one side, `coreStack`, `coreCluster` and `coreNo` on the other.
-/

namespace Sys2Proof.Machine

@[simp] theorem coreOf_val (x : StackId) (c : ClusterNo) (n : Fin 16) :
    (coreOf x c n).val = x.val * 1536 + c.val * 16 + n.val := rfl

@[simp] theorem coreStack_val (g : CoreId) : (coreStack g).val = g.val / 1536 := rfl

@[simp] theorem coreCluster_val (g : CoreId) : (coreCluster g).val = g.val % 1536 / 16 := rfl

@[simp] theorem coreNo_val (g : CoreId) : (coreNo g).val = g.val % 16 := rfl

/-- A cluster's 16 cores and a stack's 96 clusters leave the stack as the quotient by 1536. -/
@[simp] theorem coreStack_coreOf (x : StackId) (c : ClusterNo) (n : Fin 16) : coreStack (coreOf x c n) = x := by
  apply Fin.ext
  simp only [coreStack_val, coreOf_val]
  omega

@[simp] theorem coreCluster_coreOf (x : StackId) (c : ClusterNo) (n : Fin 16) : coreCluster (coreOf x c n) = c := by
  apply Fin.ext
  simp only [coreCluster_val, coreOf_val]
  omega

/-- The number in the cluster is the remainder by 16, since 1536 is a multiple of 16. -/
@[simp] theorem coreNo_coreOf (x : StackId) (c : ClusterNo) (n : Fin 16) : coreNo (coreOf x c n) = n := by
  apply Fin.ext
  simp only [coreNo_val, coreOf_val]
  omega

/-- The three parts of a global number give the number back: `coreOf` is onto. -/
@[simp] theorem coreOf_parts (g : CoreId) : coreOf (coreStack g) (coreCluster g) (coreNo g) = g := by
  apply Fin.ext
  simp only [coreOf_val, coreStack_val, coreCluster_val, coreNo_val]
  omega

/-- Settles O60: `coreOf` and the three parts of a core's number are inverse to each other. -/
theorem numbersOfCores : Obligations.NumbersOfCores := by
  unfold Obligations.NumbersOfCores
  constructor
  · intro s c n hs hc hn
    exact ⟨coreOf ⟨s, hs⟩ ⟨c, hc⟩ ⟨n, hn⟩, coreOf_val .., congrArg Fin.val (coreStack_coreOf ..),
      congrArg Fin.val (coreCluster_coreOf ..), congrArg Fin.val (coreNo_coreOf ..)⟩
  · intro g
    have number : g.val = (coreStack g).val * 1536 + (coreCluster g).val * 16 + (coreNo g).val :=
      (congrArg Fin.val (coreOf_parts g)).symm
    exact ⟨number, Nat.le_of_lt_succ g.isLt, coreStack_val g, coreCluster_val g, coreNo_val g⟩

end Sys2Proof.Machine
end
